-- ==== Sys2Proof/Word.lean ====
section
/-!
DEFINITION. The widths of the Zenif Z7's data (R4, R5) and their plainest arithmetic. Everything a test could show
wrong (byte order, sign extension, field extraction) stands in Decode.lean and under Machine/.
-/
namespace Sys2Proof

/-- A byte of storage (R5). -/
abbrev Byte := BitVec 8
/-- A 32-bit register value or an instruction word (R50, R234). -/
abbrev Word := BitVec 32
/-- A 64-bit register value, held in an even:odd pair (R5). -/
abbrev DWord := BitVec 64
/-- An 8-bit operand code (R236). -/
abbrev Code := BitVec 8
/-- A lane mask: bit L stands for lane L of a team of up to 1,024 lanes (R20). -/
abbrev LaneMask := BitVec 1024

/-- A vector clock of four 48-bit entries (R114), also the S of a write's stamp (R115). -/
structure Clock where
  c0 : BitVec 48
  c1 : BitVec 48
  c2 : BitVec 48
  c3 : BitVec 48
  deriving DecidableEq, Repr

/-- The clock with every entry 0. -/
def Clock.zero : Clock := ⟨0, 0, 0, 0⟩

end Sys2Proof
end

