-- ==== Sys2Proof/Syntax.lean ====
section
/-!
DEFINITION. Sys2Proof/Syntax.lean: one constructor for every row of spec/opcode_table.json, the 184 instruction words
of encoding revision 1 (R234, R245) and the 94 events that the table lists beside them. An instruction word's
arguments are the fields the table gives its row, at the table's widths. An event's arguments say which object of
the machine it concerns (a queue, a card, a line, a team ...); what it does is its meaning's matter.
-/
namespace Sys2Proof

/-- Who makes a request to a home slice: a core, or an agent of a die (an engine, a walker, the front end, the host
or a peer), R121. -/
inductive Agent where
  | core (n : Nat)
  | die (d : Nat)
  deriving DecidableEq, Repr

/-- A request for a span of one 128-byte line (R90): the line is PA div 128; `first` and `count` name 4-byte words;
`scope` travels with the request (R106). -/
structure LineReq where
  core  : Nat
  line  : Nat
  first : Nat
  count : Nat
  scope : Nat
  deriving DecidableEq, Repr

/-- A write request to a home slice (R106): the bytes written, all in one line, keyed by physical address; the
writer's context and scope; the stamp that R115 gives the write; a serial number by which completion is tested; the
posted-store tag of R419, if it has one. -/
structure StoreReq where
  id      : Nat
  agent   : Agent
  ctx     : Nat
  scope   : Nat
  line    : Nat
  bytes   : List (Nat × Byte)
  sharer  : Bool
  stamp   : Clock
  posted  : Option Nat
  deriving DecidableEq, Repr

/-- One lane's operation at a bank ALU (R95, R335): address, operand, and the expected value of a CAS. -/
structure BankLane where
  addr    : Nat
  operand : DWord
  expect  : DWord
  deriving DecidableEq, Repr

/-- A request to a home bank ALU (R95): the operation code of R335, or 11 for compare and swap; the element type
(a mode.T code, R58) it acts on; its lanes in order. `graph` marks a predecessor decrement (R43). `ret` names the team,
path and lane that an old value returns to (R336, R337), `peer` the port whose peer asked (R429). -/
structure BankReq where
  id     : Nat
  agent  : Agent
  ctx    : Nat
  scope  : Nat
  op     : Nat
  ty     : Nat
  lanes  : List BankLane
  graph  : Bool
  stamp  : Clock
  ret    : Option (Nat × Nat × Nat) := none
  peer   : Option Nat := none
  deriving DecidableEq, Repr

/-- What the cards of one collective must agree on (R430, R431): the card's OP, TYPE and ROP, its rank count, the lengths of
its source and destination, and its TAG. -/
structure PeerHead where
  op    : Nat
  ty    : Nat
  rop   : Nat
  ranks : Nat
  src   : Nat
  dst   : Nat
  tag   : Nat
  deriving DecidableEq, Repr

/-- What a collective rank hears from a peer rank's engine (R431): the peer's parameters with its source, or that the peer's card
of a TAG has failed. -/
inductive PeerMsg where
  | data (head : PeerHead) (bytes : List Byte)
  | abort (tag : Nat)
  deriving DecidableEq, Repr

/-- A request of a peer device (R429), at virtual addresses of a context: a plain read, a posted write, an operation at a bank
ALU. MODEL: `acknowledge` is what is left of a write whose stores have the given serial numbers. -/
inductive PeerReq where
  | read (ctx va len : Nat)
  | write (ctx va : Nat) (bytes : List Byte)
  | atomic (ctx : Nat) (r : BankReq)
  | acknowledge (stores : List Nat)
  deriving DecidableEq, Repr

/-- The context that a peer's request names. -/
def PeerReq.ctx : PeerReq → Nat
  | .read ctx .. | .write ctx .. | .atomic ctx _ => ctx
  | .acknowledge _ => 0

/-- What a peer device hears of its request (R428, R429): the bytes read, the old values of an atomic, that a write is applied on
every die, or the cause of a fault. -/
inductive PeerAnswer where
  | data (bytes : List Byte)
  | olds (values : List Nat)
  | ack
  | fault (cause : Byte)
  deriving DecidableEq, Repr

/-- Who waits for an aperture's answer (R427): a path of a team, or a card. -/
inductive Requester where
  | path (team path : Nat)
  | card (id : Nat)
  deriving DecidableEq, Repr

/-- A flash image slot's content as the management controller judges it (R435): whether the image is wholly written,
its signature outcome is Config's matter; its security version and measurement bytes. -/
structure FlashImage where
  whole   : Bool
  version : Nat
  body    : List Byte
  deriving DecidableEq, Repr

/-- Where a loss of power falls (R435): in no flash write, during a slot write, or during the marker write, of which the first
bytes are written and the rest of the copy is erased. -/
inductive FlashCut where
  | idle
  | slotWrite (image : FlashImage)
  | markerWrite (image : FlashImage) (written : Nat)
  deriving DecidableEq, Repr

/-- A register that REGISTER_WRITE names (R7): a BAR0 offset of a function (R424), or a CSR as firmware or a handler on
a core writes it (R71). -/
inductive RegTarget where
  | bar0 (fn off : Nat)
  | csr (core num : Nat)
  deriving DecidableEq, Repr

/-- The steps of the part (spec/opcode_table.json), one constructor per row: the instruction words, the events that the
machine itself brings about, and last those that come from outside it or that only a choice of the device brings. -/
inductive Instr where
  /-- NOP (R262). Empty slot word that issues nothing and takes no cycle. -/
  | nop
  /-- MODE (R263). Writes the 16-bit immediate to the team's mode register for every path. -/
  | mode (i : BitVec 16)
  /-- BRA (R266). Branches lanes whose predicate is 1 to a PC-relative bundle, splitting the path if lanes diverge. -/
  | bra (p : BitVec 4) (i : BitVec 16)
  /-- BRAN (R266). Branches lanes whose predicate is 0 to a PC-relative bundle, splitting the path if lanes diverge. -/
  | bran (p : BitVec 4) (i : BitVec 16)
  /-- BRX (R267). Branches predicated lanes to a 64-bit register address taken from the lowest taking lane. -/
  | brx (p : BitVec 4) (x : BitVec 8)
  /-- CALL (R268). Writes the return address to v12:v13 per lane and branches PC-relative. -/
  | call (i : BitVec 24)
  /-- CALLX (R268). Writes the return address to a link pair and branches to a register address. -/
  | callx (d : BitVec 8) (x : BitVec 8)
  /-- RET (R269). Branches every active lane to the address in a link register. -/
  | ret (x : BitVec 8)
  /-- JOIN (R271). Parks the path until all paths of split record j arrive, then merges them. -/
  | join (j : BitVec 3)
  /-- EXIT (R272). Removes the path's active lanes for good, ending the path, team or handler when emptied. -/
  | exit
  /-- YIELD (R273). Gives way to other candidates and, with a stop request pending, saves the team as a drain save. -/
  | yield
  /-- SLEEP (R274). Parks the path until device time has advanced by n ns. -/
  | sleep (n : BitVec 16)
  /-- LOOP (R270). Decrements an s register and branches while it is non-zero. -/
  | loop (s : BitVec 5) (i : BitVec 16)
  /-- BAR (R277). Arrives at barrier b and waits for its generation to complete. -/
  | bar (b : BitVec 3)
  /-- BARA (R277). Arrives at barrier b without waiting. -/
  | bara (b : BitVec 3)
  /-- BARW (R277). Waits for barrier b's open generation to complete and departs. -/
  | barw (b : BitVec 3)
  /-- WAITF (R278). Parks the path until every flag in the uniform mask reads clear. -/
  | waitf (x : BitVec 8)
  /-- GIVE (R279). Returns the top 8k v registers to the core's group register pool. -/
  | give (k : BitVec 4)
  /-- CLAIM (R279). Takes register blocks from the pool to raise the v count by 8k, parking if short. -/
  | claim (k : BitVec 4)
  /-- SPAWN (R281). Appends one work record per active lane to pool rings as one indivisible append. -/
  | spawn (x : BitVec 7)
  /-- SVC (R282). Writes request entries per active lane and saves the team off-core until replies arrive. -/
  | svc (n : BitVec 8)
  /-- TRAP (R283). Delivers a precise software trap with cause 0xF0 + n. -/
  | trap (n : BitVec 4)
  /-- RFT (R285). Restores the mode from h6, closes the handler window and resumes at h3:h2. -/
  | rft
  /-- BRK (R284). Delivers a precise trap with cause BRK and the immediate in h1. -/
  | brk (i : BitVec 16)
  /-- PMARK (R286). Adds the path's active lane count to progress counter k. -/
  | pmark (k : BitVec 4)
  /-- LDI (R287). Loads a sign-extended 16-bit immediate into a 32-bit register. -/
  | ldi (d : BitVec 8) (i : BitVec 16)
  /-- LDIH (R287). Writes a 16-bit immediate into bits [31:16] of a register. -/
  | ldih (d : BitVec 8) (i : BitVec 16)
  /-- MOV (R288). Copies W bits from source to destination per active lane. -/
  | mov (d : BitVec 8) (x : BitVec 8)
  /-- SEL (R288). Copies the source where a predicate is set, leaving the destination elsewhere. -/
  | sel (d : BitVec 8) (x : BitVec 8) (p : BitVec 4)
  /-- ADD (R289). Integer add of W-bit elements with optional saturation. -/
  | add (d : BitVec 8) (x : BitVec 8) (y : BitVec 8)
  /-- SUB (R289). Integer subtract of W-bit elements with optional saturation. -/
  | sub (d : BitVec 8) (x : BitVec 8) (y : BitVec 8)
  /-- MUL (R290). Integer multiply with optional saturation. -/
  | mul (d : BitVec 8) (x : BitVec 8) (y : BitVec 8)
  /-- MULH (R290). High half of the 2W-bit integer product. -/
  | mulh (d : BitVec 8) (x : BitVec 8) (y : BitVec 8)
  /-- MAD (R290). Integer multiply-add X × Y + D with one saturation. -/
  | mad (d : BitVec 8) (x : BitVec 8) (y : BitVec 8)
  /-- DIV (R291). Integer divide truncating towards zero, trapping DIVZERO when enabled. -/
  | div (d : BitVec 8) (x : BitVec 8) (y : BitVec 8)
  /-- REM (R291). Integer remainder with the sign of the dividend. -/
  | rem (d : BitVec 8) (x : BitVec 8) (y : BitVec 8)
  /-- MIN (R292). Smaller of two W-bit integers. -/
  | min (d : BitVec 8) (x : BitVec 8) (y : BitVec 8)
  /-- MAX (R292). Larger of two W-bit integers. -/
  | max (d : BitVec 8) (x : BitVec 8) (y : BitVec 8)
  /-- ABS (R289). Integer absolute value with optional saturation. -/
  | abs (d : BitVec 8) (x : BitVec 8)
  /-- NEG (R289). Integer negation with optional saturation. -/
  | neg (d : BitVec 8) (x : BitVec 8)
  /-- AND (R293). Bitwise AND of W bits. -/
  | and (d : BitVec 8) (x : BitVec 8) (y : BitVec 8)
  /-- OR (R293). Bitwise OR of W bits. -/
  | or (d : BitVec 8) (x : BitVec 8) (y : BitVec 8)
  /-- XOR (R293). Bitwise XOR of W bits. -/
  | xor (d : BitVec 8) (x : BitVec 8) (y : BitVec 8)
  /-- NOT (R293). Bitwise NOT of W bits. -/
  | not (d : BitVec 8) (x : BitVec 8)
  /-- SHL (R294). Shift left by a register amount modulo W. -/
  | shl (d : BitVec 8) (x : BitVec 8) (y : BitVec 8)
  /-- SHR (R294). Arithmetic or logical shift right by a register amount. -/
  | shr (d : BitVec 8) (x : BitVec 8) (y : BitVec 8)
  /-- ROT (R294). Rotate left by a register amount. -/
  | rot (d : BitVec 8) (x : BitVec 8) (y : BitVec 8)
  /-- BFX (R295). Extracts a bit field, sign- or zero-extended. -/
  | bfx (d : BitVec 8) (x : BitVec 8) (y : BitVec 8)
  /-- BFI (R295). Inserts the low bits of X into a field of D. -/
  | bfi (d : BitVec 8) (x : BitVec 8) (y : BitVec 8)
  /-- CLZ (R295). Counts leading zero bits. -/
  | clz (d : BitVec 8) (x : BitVec 8)
  /-- POPC (R295). Counts one bits. -/
  | popc (d : BitVec 8) (x : BitVec 8)
  /-- BREV (R295). Reverses the bit order of W bits. -/
  | brev (d : BitVec 8) (x : BitVec 8)
  /-- ADDI (R289). Adds a signed 8-bit immediate. -/
  | addi (d : BitVec 8) (x : BitVec 8) (i : BitVec 8)
  /-- SHLI (R294). Shift left by an immediate below W. -/
  | shli (d : BitVec 8) (x : BitVec 8) (i : BitVec 8)
  /-- SHRI (R294). Shift right by an immediate below W. -/
  | shri (d : BitVec 8) (x : BitVec 8) (i : BitVec 8)
  /-- ANDI (R293). AND with a zero-extended 8-bit immediate. -/
  | andi (d : BitVec 8) (x : BitVec 8) (i : BitVec 8)
  /-- LEA (R296). Forms a 64-bit address from a base and a scaled signed index. -/
  | lea (d : BitVec 8) (x : BitVec 8) (y : BitVec 8)
  /-- CEQ (R298). Sets a predicate where X equals Y. -/
  | ceq (p : BitVec 4) (x : BitVec 8) (y : BitVec 8)
  /-- CNE (R298). Sets a predicate where X differs from Y. -/
  | cne (p : BitVec 4) (x : BitVec 8) (y : BitVec 8)
  /-- CLT (R298). Sets a predicate where X is less than Y. -/
  | clt (p : BitVec 4) (x : BitVec 8) (y : BitVec 8)
  /-- CLE (R298). Sets a predicate where X is at most Y. -/
  | cle (p : BitVec 4) (x : BitVec 8) (y : BitVec 8)
  /-- CGT (R298). Sets a predicate where X is greater than Y. -/
  | cgt (p : BitVec 4) (x : BitVec 8) (y : BitVec 8)
  /-- CGE (R298). Sets a predicate where X is at least Y. -/
  | cge (p : BitVec 4) (x : BitVec 8) (y : BitVec 8)
  /-- PAND (R299). Predicate AND in active lanes. -/
  | pand (d : BitVec 4) (x : BitVec 4) (y : BitVec 4)
  /-- POR (R299). Predicate OR in active lanes. -/
  | por (d : BitVec 4) (x : BitVec 4) (y : BitVec 4)
  /-- PXOR (R299). Predicate XOR in active lanes. -/
  | pxor (d : BitVec 4) (x : BitVec 4) (y : BitVec 4)
  /-- PNOT (R299). Predicate NOT in active lanes. -/
  | pnot (d : BitVec 4) (x : BitVec 4)
  /-- PFROM (R299). Sets a predicate from bit L mod 32 of a 32-bit value. -/
  | pfrom (d : BitVec 4) (x : BitVec 8)
  /-- PSET (R299). Sets a predicate to a constant in active lanes. -/
  | pset (d : BitVec 4) (b : BitVec 1)
  /-- FADD (R303). Floating-point add rounded once. -/
  | fadd (d : BitVec 8) (x : BitVec 8) (y : BitVec 8)
  /-- FSUB (R303). Floating-point subtract rounded once. -/
  | fsub (d : BitVec 8) (x : BitVec 8) (y : BitVec 8)
  /-- FMUL (R303). Floating-point multiply rounded once. -/
  | fmul (d : BitVec 8) (x : BitVec 8) (y : BitVec 8)
  /-- FMA (R303). Fused X × Y + D. -/
  | fma (d : BitVec 8) (x : BitVec 8) (y : BitVec 8)
  /-- FMS (R303). Fused X × Y − D. -/
  | fms (d : BitVec 8) (x : BitVec 8) (y : BitVec 8)
  /-- FNMA (R303). Fused −(X × Y) + D. -/
  | fnma (d : BitVec 8) (x : BitVec 8) (y : BitVec 8)
  /-- FMIN (R304). Smaller of two floats, NaN-avoiding. -/
  | fmin (d : BitVec 8) (x : BitVec 8) (y : BitVec 8)
  /-- FMAX (R304). Larger of two floats, NaN-avoiding. -/
  | fmax (d : BitVec 8) (x : BitVec 8) (y : BitVec 8)
  /-- FABS (R305). Clears the sign bit. -/
  | fabs (d : BitVec 8) (x : BitVec 8)
  /-- FNEG (R305). Inverts the sign bit. -/
  | fneg (d : BitVec 8) (x : BitVec 8)
  /-- FDIV (R306). Correctly rounded floating-point divide. -/
  | fdiv (d : BitVec 8) (x : BitVec 8) (y : BitVec 8)
  /-- FSQRT (R306). Correctly rounded square root. -/
  | fsqrt (d : BitVec 8) (x : BitVec 8)
  /-- FRCP (R306). Correctly rounded reciprocal. -/
  | frcp (d : BitVec 8) (x : BitVec 8)
  /-- FRSQ (R306). Correctly rounded reciprocal square root. -/
  | frsq (d : BitVec 8) (x : BitVec 8)
  /-- FEXP2 (R307). Base-2 exponential within the stated accuracy. -/
  | fexp2 (d : BitVec 8) (x : BitVec 8)
  /-- FLOG2 (R307). Base-2 logarithm within the stated accuracy. -/
  | flog2 (d : BitVec 8) (x : BitVec 8)
  /-- FSIN (R307). Sine in radians within the stated accuracy. -/
  | fsin (d : BitVec 8) (x : BitVec 8)
  /-- FCOS (R307). Cosine in radians within the stated accuracy. -/
  | fcos (d : BitVec 8) (x : BitVec 8)
  /-- FTANH (R307). Hyperbolic tangent within the stated accuracy. -/
  | ftanh (d : BitVec 8) (x : BitVec 8)
  /-- FCEQ (R308). Sets a predicate where floats compare equal. -/
  | fceq (p : BitVec 4) (x : BitVec 8) (y : BitVec 8)
  /-- FCLT (R308). Sets a predicate where X < Y as floats. -/
  | fclt (p : BitVec 4) (x : BitVec 8) (y : BitVec 8)
  /-- FCLE (R308). Sets a predicate where X ≤ Y as floats. -/
  | fcle (p : BitVec 4) (x : BitVec 8) (y : BitVec 8)
  /-- FCUN (R308). Sets a predicate where either float is a NaN. -/
  | fcun (p : BitVec 4) (x : BitVec 8) (y : BitVec 8)
  /-- FCLASS (R309). Writes a one-hot class mask per element. -/
  | fclass (d : BitVec 8) (x : BitVec 8)
  /-- FRND (R310). Rounds to an integral value in the same format. -/
  | frnd (d : BitVec 8) (x : BitVec 8)
  /-- FCPS (R305). Copies the sign of Y onto X. -/
  | fcps (d : BitVec 8) (x : BitVec 8) (y : BitVec 8)
  /-- FSCALE (R311). Scales X by 2^n with one rounding. -/
  | fscale (d : BitVec 8) (x : BitVec 8) (y : BitVec 8)
  /-- CVT (R312). Converts between scalar types under mode.SAT. -/
  | cvt (d : BitVec 8) (x : BitVec 8) (s : BitVec 4)
  /-- CVTS (R312). Converts between scalar types with saturation forced. -/
  | cvts (d : BitVec 8) (x : BitVec 8) (s : BitVec 4)
  /-- PACK (R313). Converts a value into element i of a packed word. -/
  | pack (d : BitVec 8) (x : BitVec 8) (i : BitVec 8)
  /-- UNPK (R313). Extracts element i of a packed word exactly. -/
  | unpk (d : BitVec 8) (x : BitVec 8) (i : BitVec 8)
  /-- QNT (R314). Quantises a 256-element unit per word to MXFP4 or SF4. -/
  | qnt (d : BitVec 7) (x : BitVec 7) (f : BitVec 1)
  /-- DQNT (R315). Decodes an MXFP4 or SF4 unit per word into floats. -/
  | dqnt (d : BitVec 7) (x : BitVec 7) (f : BitVec 1)
  /-- RAND (R316). Writes two 16-bit draws from each lane's stream. -/
  | rand (d : BitVec 8)
  /-- SHFL (R318). Reads X from a lane within the same word. -/
  | shfl (d : BitVec 8) (x : BitVec 8) (y : BitVec 8)
  /-- SHFX (R318). Reads X from any lane of the team. -/
  | shfx (d : BitVec 8) (x : BitVec 8) (y : BitVec 8)
  /-- SHUP (R318). Reads X from n lanes below within the word. -/
  | shup (d : BitVec 8) (x : BitVec 8) (n : BitVec 5)
  /-- SHDN (R318). Reads X from n lanes above within the word. -/
  | shdn (d : BitVec 8) (x : BitVec 8) (n : BitVec 5)
  /-- VOTA (R320). Sets a predicate if all contributing lanes have it set. -/
  | vota (d : BitVec 4) (x : BitVec 4) (w : BitVec 1)
  /-- VOTY (R320). Sets a predicate if any contributing lane has it set. -/
  | voty (d : BitVec 4) (x : BitVec 4) (w : BitVec 1)
  /-- BALLOT (R321). Forms a per-word mask of lanes whose predicate is set. -/
  | ballot (d : BitVec 8) (x : BitVec 4) (w : BitVec 5)
  /-- REDU (R324). Reduces values over contributing lanes in lane order. -/
  | redu (d : BitVec 8) (x : BitVec 8) (w : BitVec 1) (o : BitVec 4)
  /-- SCAN (R324). Inclusive or exclusive prefix combination over lanes. -/
  | scan (d : BitVec 8) (x : BitVec 8) (e : BitVec 1) (w : BitVec 1) (o : BitVec 4)
  /-- BCAST (R319). Broadcasts lane Y's value to active lanes or a uniform destination. -/
  | bcast (d : BitVec 8) (x : BitVec 8) (y : BitVec 8)
  /-- MATCH (R322). Writes the mask of lanes in the word holding an equal value. -/
  | matchLanes (d : BitVec 8) (x : BitVec 8)
  /-- ACNT (R323). Counts or ranks lanes whose predicate is set. -/
  | acnt (d : BitVec 8) (x : BitVec 4) (w : BitVec 1) (r : BitVec 1)
  /-- LD (R327). Plain load per active lane. -/
  | ld (d : BitVec 8) (x : BitVec 8) (s : BitVec 2) (o : BitVec 6)
  /-- ST (R327). Plain store per active lane. -/
  | st (d : BitVec 8) (x : BitVec 8) (s : BitVec 2) (o : BitVec 6)
  /-- LDU (R329). One load at a uniform address. -/
  | ldu (d : BitVec 8) (x : BitVec 8) (s : BitVec 2) (o : BitVec 6)
  /-- STU (R329). One store of a uniform value at a uniform address. -/
  | stu (d : BitVec 8) (x : BitVec 8) (s : BitVec 2) (o : BitVec 6)
  /-- LDL (R330). Loads from the group's local-store range. -/
  | ldl (d : BitVec 8) (x : BitVec 8) (s : BitVec 2) (o : BitVec 6)
  /-- STL (R330). Stores into the group's local-store range. -/
  | stl (d : BitVec 8) (x : BitVec 8) (s : BitVec 2) (o : BitVec 6)
  /-- LDP (R331). Reads a parameter window through the constant cache. -/
  | ldp (d : BitVec 8) (x : BitVec 8) (s : BitVec 2) (w : BitVec 2)
  /-- LDA (R332). Starts an asynchronous load of n words per lane into a landing tag. -/
  | lda (t : BitVec 3) (x : BitVec 8) (n : BitVec 3)
  /-- COMMIT (R333). Writes a landed tag's data into v registers and empties the tag. -/
  | commit (d : BitVec 7) (t : BitVec 3)
  /-- LDQ (R328). Acquiring load. -/
  | ldq (d : BitVec 8) (x : BitVec 8) (s : BitVec 2) (o : BitVec 6)
  /-- STR (R328). Release store publishing to the pending scope. -/
  | str (d : BitVec 8) (x : BitVec 8) (s : BitVec 2) (o : BitVec 6)
  /-- FENCE (R334). Acquire, release or full fence of the team's accesses. -/
  | fence (k : BitVec 2)
  /-- ATOM (R336). Atomic read-modify-write at the home bank ALU with no returned value. -/
  | atom (d : BitVec 8) (x : BitVec 8) (r : BitVec 1) (q : BitVec 1) (o : BitVec 4)
  /-- ATOMR (R336). Atomic read-modify-write returning the old value. -/
  | atomr (d : BitVec 8) (x : BitVec 8) (r : BitVec 1) (q : BitVec 1) (o : BitVec 4)
  /-- CAS (R337). Compare and swap at the home bank ALU. -/
  | cas (d : BitVec 8) (x : BitVec 8) (r : BitVec 1) (q : BitVec 1)
  /-- RED (R338). Element-wise reduction update at the bank, returning nothing. -/
  | red (d : BitVec 8) (x : BitVec 8) (o : BitVec 4)
  /-- PREF (R340). Prefetches whole lines into the L1 without faulting. -/
  | pref (x : BitVec 8) (o : BitVec 8)
  /-- ARMA (R341). Sets an arrival word's target and returns its previous generation. -/
  | arma (d : BitVec 8) (x : BitVec 8) (y : BitVec 8)
  /-- WAITA (R341). Parks until an arrival word's generation differs from g. -/
  | waita (x : BitVec 8) (y : BitVec 8)
  /-- POLLA (R341). Sets a predicate to whether the arrival generation differs from g. -/
  | polla (p : BitVec 4) (x : BitVec 8) (y : BitVec 8)
  /-- QCFG (R346). Configures the lowest free cluster queue and returns its number. -/
  | qcfg (d : BitVec 5) (x : BitVec 8) (y : BitVec 8)
  /-- QFREE (R347). Frees a queue, unbinding its ports and waking parked paths. -/
  | qfree (x : BitVec 8) (c : BitVec 8)
  /-- QDRAIN (R347). Discards a queue's entries and reopens it, waking writers. -/
  | qdrain (x : BitVec 8) (c : BitVec 8)
  /-- QCNT (R348). Reads a snapshot of a queue's count and state. -/
  | qcnt (d : BitVec 8) (x : BitVec 8) (c : BitVec 8)
  /-- QTRY (R349). Non-blocking pop that reports success or end-of-stream in a predicate. -/
  | qtry (d : BitVec 8) (p : BitVec 4) (e : BitVec 1) (q : BitVec 4)
  /-- QOFFR (R350). Non-blocking push that reports success in a predicate. -/
  | qoffr (p : BitVec 4) (x : BitVec 8) (q : BitVec 4)
  /-- QCLOSE (R347). Places an end-of-stream mark and wakes readers. -/
  | qclose (x : BitVec 8) (c : BitVec 8)
  /-- QLINK (R351). Binds or unbinds a queue port. -/
  | qlink (x : BitVec 8) (q : BitVec 4)
  /-- TALLOC (R353). Takes n tile names from the cluster free list, parking if too few. -/
  | talloc (d : BitVec 5) (n : BitVec 3)
  /-- TLOAD (R355). Issues a tile definition from memory through the engine. -/
  | tload (d : BitVec 5) (x : BitVec 5) (y : BitVec 5)
  /-- TSTORE (R358). Reads a tile and writes it to memory through the engine. -/
  | tstore (d : BitVec 5) (x : BitVec 5) (y : BitVec 5)
  /-- TTASK (R364). Enqueues a matrix multiply-accumulate task defining D. -/
  | ttask (d : BitVec 5) (x : BitVec 5) (y : BitVec 5)
  /-- TGET (R359). Reads a tile row segment into lanes, parking while pending. -/
  | tget (d : BitVec 7) (x : BitVec 5) (y : BitVec 5)
  /-- TDEF (R357). Defines a tile from a dense local-store image. -/
  | tdef (d : BitVec 5) (x : BitVec 5) (y : BitVec 8)
  /-- TKILL (R363). Kills a tile name, releasing parked readers. -/
  | tkill (x : BitVec 5)
  /-- TWAIT (R360). Parks until a tile name is defined. -/
  | twait (x : BitVec 5)
  /-- TSTAT (R361). Returns a snapshot of a tile name's entry. -/
  | tstat (d : BitVec 8) (x : BitVec 5)
  /-- THINT (R362). Gives a placement hint for a tile value. -/
  | thint (x : BitVec 5) (c : BitVec 4) (h : BitVec 3)
  /-- TDESC (R354). Writes a tensor descriptor from four s registers. -/
  | tdesc (x : BitVec 5) (i : BitVec 6)
  /-- TDESCR (R354). Reads a tensor descriptor into four s registers. -/
  | tdescr (d : BitVec 5) (i : BitVec 6)
  /-- CARD (R369). Submits a job card to the team's card stream. -/
  | card (x : BitVec 5)
  /-- CARDW (R369). Submits a job card and parks until it completes, returning status. -/
  | cardw (d : BitVec 5) (x : BitVec 5)
  /-- GARM (R371). Decrements a task control block's predecessor count, possibly dispatching it. -/
  | garm (x : BitVec 5) (r : BitVec 1)
  /-- GDONE (R372). Fences and retires a GDONE-marked graph node. -/
  | gdone (x : BitVec 5)
  /-- SUBM (R373). Appends a command packet to a host command queue and rings its doorbell. -/
  | subm (x : BitVec 5) (y : BitVec 8)
  /-- SIGW (R374). Parks until a completion signal meets a condition or is negative. -/
  | sigw (d : BitVec 5) (x : BitVec 5) (c : BitVec 3)
  /-- SIGA (R375). Stores, adds or subtracts on a signal at its home bank ALU. -/
  | siga (d : BitVec 5) (x : BitVec 5) (r : BitVec 1) (o : BitVec 2)
  /-- AREG (R376). Registers a Beryl assumption and arms its watches. -/
  | areg (d : BitVec 8) (x : BitVec 5) (k : BitVec 2)
  /-- AENTER (R377). Opens a guarded region on an object with a fallback. -/
  | aenter (x : BitVec 8) (i : BitVec 8)
  /-- AEXIT (R378). Closes a guarded region, committing buffered writes at the outermost level. -/
  | aexit
  /-- ADROP (R379). Revokes if armed and frees a Beryl object. -/
  | adrop (x : BitVec 8)
  /-- ATEST (R379). Sets a predicate to whether an object is still armed. -/
  | atest (p : BitVec 4) (x : BitVec 8)
  /-- AREVK (R379). Revokes a Beryl object and waits for the revocation to finish. -/
  | arevk (x : BitVec 8)
  /-- CSRR (R380). Reads a CSR under its view. -/
  | csrr (d : BitVec 8) (c : BitVec 12)
  /-- CSRW (R380). Writes a CSR under its access codes. -/
  | csrw (x : BitVec 8) (c : BitVec 12)
  /-- CSRS (R380). Sets bits of a CSR's RW fields. -/
  | csrs (x : BitVec 8) (c : BitVec 12)
  /-- CSRC (R380). Clears bits of a CSR's RW fields. -/
  | csrc (x : BitVec 8) (c : BitVec 12)
  /-- FWCALL (R381). Calls overlay n from firmware, or posts a class-7 job from a handler. -/
  | fwcall (x : BitVec 8) (n : BitVec 8)
  /-- FWCALL_REG (R381). Firmware call to the overlay named in an s register, used to return. -/
  | fwcallReg (a : BitVec 5) (x : BitVec 8)
  /-- TINV (R382). Invalidates translations of a context range package-wide. -/
  | tinv (x : BitVec 5) (y : BitVec 8)
  /-- SVCR (R384). Tries to reinstate the team of a service call. -/
  | svcr (d : BitVec 5) (x : BitVec 8)
  /-- CTXS (R385). Saves a context's state on a cluster to its spill area. -/
  | ctxs (d : BitVec 5) (x : BitVec 8)
  /-- CTXL (R385). Restores a saved context image on a cluster. -/
  | ctxl (d : BitVec 5) (x : BitVec 8)
  /-- TICKET_CLAIM (R383). Claims the oldest unclaimed firmware job of a class on the die. -/
  | ticketClaim (d : BitVec 5) (c : BitVec 4)
  /-- TICKET_DONE (R383). Completes a claimed firmware job with an outcome word. -/
  | ticketDone (d : BitVec 5) (c : BitVec 4)
  /-- XTRIG (R386). Halts every team of the issuing context on all dies. -/
  | xtrig
  /-- TRON (R387). Switches Quartz tracing on or off for a context. -/
  | tron (x : BitVec 8)
  /-- EXPD (R388). Starts a causal trial on the cluster. -/
  | expd (x : BitVec 5)
  /-- ILL (R245). Word with an unassigned opcode that always traps ILLEGAL_OPCODE. -/
  | ill
  /-- COMPLETION_ENTRY_POST (R160). Posts a 16-byte completion entry once the ring has room. -/
  | completionEntryPost (cq : Nat)
  /-- CQ_INTERRUPT_TIMER (R159). TIMER µs after the oldest pending entry the MSI-X interrupt is raised. -/
  | cqInterruptTimer (cq : Nat)
  /-- WORK_PACKET (R156). WORK packet starts and appends its records to pools. -/
  | workPacket (q : Nat)
  /-- WORK_RECORD_APPEND (R33). Next record of a WORK packet is appended once its ring has room. -/
  | workRecordAppend (q idx : Nat)
  /-- WAIT_PACKET (R157). WAIT packet starts and reads its signals as acquires. -/
  | waitPacket (q : Nat)
  /-- WAIT_SIGNAL_READ (R157). Front end rereads a WAIT signal after its home bank updates it. -/
  | waitSignalRead (q idx : Nat)
  /-- SIGNAL_PACKET (R157). SIGNAL packet performs a release update of a signal. -/
  | signalPacket (q : Nat)
  /-- COPY_PACKET (R156). COPY packet submits a job card to the queue's card stream. -/
  | copyPacket (q : Nat)
  /-- GRAPH_PACKET (R191). GRAPH packet starts a task graph at its root block. -/
  | graphPacket (q : Nat)
  /-- MARKER_PACKET (R156). MARKER completes once every earlier packet has completed. -/
  | markerPacket (q : Nat)
  /-- RECORD_DISTRIBUTE (R34). Pool sends its next ring record to the next cluster round-robin that can accept it. -/
  | recordDistribute (ctx pool : Nat)
  /-- GATHER_WINDOW_EXPIRY (R35). Gather window of a forming team runs out and the partial team launches. -/
  | gatherWindowExpiry (forming : Nat)
  /-- GROUP_ADMISSION (R403). Cluster admits a whole waiting group when its resources are free. -/
  | groupAdmission (clu : Nat)
  /-- FEED_APPEND (R38). Feed-mode pool pushes a record's 16 words once the queue has room. -/
  | feedAppend (ctx pool : Nat)
  /-- NODE_RETIRE (R43). Graph node retires when its work ends, decrementing successors. -/
  | nodeRetire (ctx node : Nat)
  /-- CARD_START (R136). Card begins once earlier overlapping cards of its stream complete. -/
  | cardStart (card : Nat)
  /-- CARD_TRANSFER (R370). Engine performs one transfer of at most 128 bytes of a card. -/
  | cardTransfer (card : Nat)
  /-- CARD_COMPLETE (R369). Card completes, updating its signal and arrival word and clearing its flag. -/
  | cardComplete (card : Nat)
  /-- COLLECTIVE_TIMEOUT (R431). Rank hearing nothing from a peer for 100 ms completes PEER_ABORT. -/
  | collectiveTimeout (card : Nat)
  /-- TILE_DEFINITION_COMPLETE (R177). A definition completes, making the name DEFINED or holding it provisionally. -/
  | tileDefinitionComplete (clu name : Nat)
  /-- TILE_DEFINITION_FAIL (R179). A definition fails, recording FCAUSE and faulting parked readers. -/
  | tileDefinitionFail (clu name : Nat) (cause : Byte)
  /-- TILE_READ_COMPLETE (R177). A tile read completes, lowering READS. -/
  | tileReadComplete (clu name xfer : Nat)
  /-- TILE_TASK_DISPATCH (R366). A ready tile task is dispatched to an engine with a free bank after a shape check. -/
  | tileTaskDispatch (task core : Nat)
  /-- TILE_STEP_BLOCK (R367). An engine finishes a step block, at which pause, kill or completion takes effect. -/
  | tileStepBlock (task : Nat)
  /-- LDA_LANDED (R66). All of an LDA's data arrives and its tag becomes LANDED. -/
  | ldaLanded (team tag : Nat)
  /-- INSTRUCTION_COMPLETE (R63). An outstanding instruction completes, lowering its flag count. -/
  | instructionComplete (team id : Nat)
  /-- NREQ (R106). A narrow-grant request reaches the home, answered by NGRANT or WTGRANT. -/
  | nreq (r : LineReq)
  /-- NGRANT (R105). Narrow grant reaches the L1, which writes its waiting store. -/
  | ngrant (core line : Nat)
  /-- WTGRANT (R105). Write-through grant reaches the L1, which sends its store through. -/
  | wtgrant (core line : Nat)
  /-- WRITE_THROUGH_STORE (R106). Write-through store is performed at home and invalidates other sharers. -/
  | writeThroughStore (r : StoreReq)
  /-- WRITE_BACK (R106). Dirty words from a holder are performed at home. -/
  | writeBack (r : StoreReq) (giveUp : Bool)
  /-- NARROW_WRITEBACK_TIMER (R105). A word dirty for 2 µs forces write-back of the line's dirty words. -/
  | narrowWritebackTimer (core line : Nat)
  /-- BANK_ALU_OPERATION (R95). Bank ALU performs an atomic, RED, signal or count update on a location. -/
  | bankAluOperation (r : BankReq)
  /-- RELEASE_MARKER (R116). Release marker from another die enters the apply queue. -/
  | releaseMarker (src dst : Nat) (n : BitVec 48) (stamp : Clock) (count : Nat)
  /-- APPLY_ENTRY (R117). A die applies an invalidation or marker whose clock condition holds. -/
  | applyEntry (die : Nat)
  /-- COMMIT_GROUP (R378). An AEXIT commit group reaches home slices, reserving or being held. -/
  | commitGroup (team : Nat)
  /-- REVOCATION (R188). Registry marks an object REVOKED and broadcasts to every core. -/
  | revocation (obj die : Nat)
  /-- CORE_REVOCATION (R188). Core stops and aborts teams holding the revoked object, then acknowledges. -/
  | coreRevocation (obj core : Nat)
  /-- HELD_REQUEST_RELEASE (R188). With all acknowledgements in, the held breaking request is performed. -/
  | heldRequestRelease (held : Nat)
  /-- FALLBACK_RELEASE (R188). Aborted teams are released at their fallbacks. -/
  | fallbackRelease (obj core : Nat)
  /-- EDF_PERIOD_START (R205). Device time reaches DEADLINE; budget is refilled and deadline advanced. -/
  | edfPeriodStart (clu entry : Nat)
  /-- STOP_REQUEST (R406). REMAIN falls to DRAIN and the cluster requests the context to stop. -/
  | stopRequest (clu : Nat)
  /-- SLICE_END (R205). REMAIN reaches 0 or no team remains, freeing the cluster. -/
  | sliceEnd (clu : Nat)
  /-- HARD_PREEMPTION (R408). REMAIN reaches 0 with teams resident; issue stops and a class-3 job is posted. -/
  | hardPreemption (clu : Nat)
  /-- SAVE_TIMER_EXPIRY (R408). The 50 µs save timer expires before the save ends. -/
  | saveTimerExpiry (clu : Nat)
  /-- SLEEP_EXPIRY (R274). Device time passes a SLEEP's duration and the path becomes READY. -/
  | sleepExpiry (team path : Nat)
  /-- DEFERRED_TRAP (R416). A held asynchronous cause is delivered at the next instruction boundary. -/
  | deferredTrap (team : Nat)
  /-- POSTED_STORE_ACK (R419). Acknowledgement frees a posted-store table entry. -/
  | postedStoreAck (core tag : Nat)
  /-- LINK_RETRAIN_TIMEOUT (R421). After 2 ms without recovery the link is declared down. -/
  | linkRetrainTimeout (link : Nat)
  /-- JOB_WATCHDOG (R422). A job unclaimed for 1 ms is reposted in class 5 as WATCHDOG. -/
  | jobWatchdog (die cls idx : Nat)
  /-- OVERLAY_LOAD_COMPLETE (R256). Copy engine finishes loading an overlay into the firmware store. -/
  | overlayLoadComplete (core overlay : Nat)
  /-- TRIAL_PHASE_END (R212). A causal trial phase of T µs ends. -/
  | trialPhaseEnd (clu : Nat)
  /-- SVC_REPLY (R162). A reply entry arrives in the context's reply ring. -/
  | svcReply (ctx : Nat) (entry : BitVec 128)
  /-- FABRIC_REQUEST (R429). A request from a peer device arrives on a Fjofin port and is performed at its home slice as a PACKAGE-scope access. -/
  | fabricRequest (port : Nat) (r : PeerReq)
  /-- HOME_EVICTION (R103). Home slice removes every copy of a line before evicting it. -/
  | homeEviction (line : Nat)
  /-- GUEST_EVICTION (R107). Guest slice publishes and invalidates local copies and tells the home. -/
  | guestEviction (die line : Nat)
  /-- TRACE_SYNC_TIMER (R165). After 4,096 packets or 64 µs a path emits a SYNC. -/
  | traceSyncTimer (team path : Nat)
  /-- GETS (R106). A fill request reaches a home slice, adding a sharer and sending the span. -/
  | gets (r : LineReq)
  /-- COLD_RESET (R8). Cold reset sets every field to its reset value. -/
  | coldReset
  /-- SECURITY_ALARM (R437). Tamper, glitch or repeated signature failure force-resets every context. -/
  | securityAlarm
  /-- ATTESTATION_REQUEST (R436). PF mailbox request returns a signed report of measurements. -/
  | attestationRequest
  /-- POWER_STATE_ENTRY (R438). After 100 µs of meeting a state's conditions the device enters it. -/
  | powerStateEntry
  /-- POWER_WAKE (R439). Doorbell, fabric arrival or timer returns the device to PS0. -/
  | powerWake
  /-- PATROL_SCRUB (R446). L2 and HBM are patrol-scrubbed every 24 hours. -/
  | patrolScrub
  /-- DOORBELL (R425). Host write of WRIDX makes new packets of a command queue startable. -/
  | doorbell (q : Nat) (wridx : Word)
  /-- QUEUE_ENABLE (R155). Host writes STATE 1, setting RDIDX to WRIDX and making the queue ACTIVE. -/
  | queueEnable (q : Nat)
  /-- QUEUE_DISABLE (R155). Host writes STATE 0, stopping new packet starts. -/
  | queueDisable (q : Nat)
  /-- QUEUE_ABORT_WRITE (R155). Host writes STATE 2, making the queue ABORTED with no abort list. -/
  | queueAbortWrite (q : Nat)
  /-- HOST_WINDOW_WRITE (R425). Host posted write through BAR2 performed as a PACKAGE-scope store. -/
  | hostWindowWrite (fn off : Nat) (bytes : List Byte)
  /-- HOST_WINDOW_READ (R425). Host read through BAR2 served at the home slice after forced publish. -/
  | hostWindowRead (fn off len : Nat)
  /-- CQ_HEAD_WRITE (R160). Host HEADIDX write frees room for waiting completion entries. -/
  | cqHeadWrite (cq : Nat) (head : Word)
  /-- CQ_RING_RESET (R159). Write to a completion queue's BASE or SIZE sets TAILIDX to 0. -/
  | cqRingReset (cq : Nat) (isSize : Bool) (val : DWord)
  /-- LATCHING_READ (R72). Read of a low-half counter CSR latches its high half. -/
  | latchingRead (team csr : Nat)
  /-- STATUS_CLEAR (R59). CSR STATUS write clears sticky %status bits written with 1. -/
  | statusClear (team : Nat) (val : Word)
  /-- DROOPCFG_WRITE (R70). DROOPCFG write sets the bank-read limit, ignoring values 0, 1 and 7. -/
  | droopcfgWrite (core : Nat) (val : Word)
  /-- APINV (R428). Write of an index drops the cached copy of that aperture entry. -/
  | apinv (die : Nat) (index : Word)
  /-- REGISTER_WRITE (R7). Write to a register with no row of its own, per its access codes. -/
  | registerWrite (reg : RegTarget) (val : DWord)
  /-- COLLECTIVE_PEER_MESSAGE (R431). A collective rank receives data or a mismatch or abort indication from a peer rank's engine. -/
  | collectivePeerMessage (card rank : Nat) (m : PeerMsg)
  /-- CONTEXT_CREATION (R167). Novman creates a context, checking its spill area and table fields and writing every tensor descriptor invalid. -/
  | contextCreation (ctx : Nat) (entry : BitVec 512)
  /-- CONTEXT_DESTRUCTION (R183). Destroying a context frees its Beryl objects and disarms their watch entries. -/
  | contextDestruction (ctx : Nat)
  /-- POOL_CONFIGURATION (R34). Firmware configures a work pool, setting its entry and placing its round-robin position before the lowest cluster. -/
  | poolConfiguration (ctx pool : Nat) (entry : BitVec 512)
  /-- POWER_LOSS (R435). Supply is lost, possibly during a flash slot or marker write, leaving flash in a partial state. -/
  | powerLoss (cut : FlashCut)
  /-- IMAGE_UPDATE (R435). The management controller writes the non-running image slot and then overwrites the unchosen marker copy. -/
  | imageUpdate (image : FlashImage)
  /-- RECOVERY_IMAGE (R435). A signed recovery image arrives from the PF while boot waits after both slots fail verification. -/
  | recoveryImage (image : FlashImage)
  /-- LATE_STORE_FAULT (R419). Host or peer reports a posted store failed. -/
  | lateStoreFault (core tag : Nat)
  /-- LINK_RETRAIN (R421). A Fjofin link enters retraining. -/
  | linkRetrain (link : Nat)
  /-- LINK_RECOVERY (R421). A retraining link recovers and waiting releases complete. -/
  | linkRecovery (link : Nat)
  /-- APERTURE_FAILURE (R427). Host or fabric request fails, parking the path with a class-0 job. -/
  | apertureFailure (who : Requester) (fabric : Bool) (peer : Option Byte)
  /-- COMPLETION_TIMEOUT (R427). A host request times out after 50 ms. -/
  | completionTimeout (team : Option Nat) (id : Nat)
  /-- PAGE_WALK (R80). A walker finishes a table walk, installing a translation or raising a cause. -/
  | pageWalk (core ctx va : Nat) (write fetch : Bool)
  /-- PRIORITY_AGING (R401). Every 256 cycles of waiting raises a candidate one level up to 9. -/
  | priorityAging (team path : Nat)
  /-- SVC_REQUEST_ROOM (R161). Room returns in a context's service-call request ring, letting a waiting call append its entries. -/
  | svcRequestRoom (ctx : Nat)
  /-- INVALIDATION (R105). An invalidation reaches an L1, which drops clean words and acknowledges. -/
  | invalidation (r : LineReq)
  /-- FORCED_PUBLISH (R108). Home has narrow holders write back dirty words before serving a request. -/
  | forcedPublish (line : Nat) (demote : Bool)
  deriving DecidableEq, Repr

end Sys2Proof
end

