-- ==== Sys2Proof/Decode.lean ====
section
/-!
DEFINITION. Sys2Proof/Decode.lean: from bytes to an instruction (R234, R237, R245), total, and the encoder after it.
The decoder accepts exactly the words that match a row of the opcode table. A word that matches none is refused here by
answering none; what the machine does with it (ILLEGAL_OPCODE, ILLEGAL_OPERAND, ILLEGAL_DEST, in the order of R247)
stands in Machine/Fetch.lean.
-/
namespace Sys2Proof

/-- A word from its opcode byte and its fields A, B and C (R234). -/
def packWord (op a b c : BitVec 8) : Word := op ++ a ++ b ++ c

/-- OP, bits [31:24] (R234). -/
def opOf (w : Word) : Nat := (w.extractLsb' 24 8).toNat
/-- Field A, bits [23:16] (R234). -/
def fieldA (w : Word) : BitVec 8 := w.extractLsb' 16 8
/-- Field B, bits [15:8] (R234). -/
def fieldB (w : Word) : BitVec 8 := w.extractLsb' 8 8
/-- Field C, bits [7:0] (R234). -/
def fieldC (w : Word) : BitVec 8 := w.extractLsb' 0 8

/-- The control opcodes, 0x00–0x18 (R245). -/
def decodeControl (op : Nat) (a b c : BitVec 8) : Option Instr :=
  if op = 0x00 then if a = 0x00 ∧ b = 0x00 ∧ c = 0x00 then some (.nop) else none
  else if op = 0x01 then if a = 0x00 then some (.mode (b ++ c)) else none
  else if op = 0x02 then if a &&& 0xF0 = 0xB0 then some (.bra (a.extractLsb' 0 4) (b ++ c)) else none
  else if op = 0x03 then if a &&& 0xF0 = 0xB0 then some (.bran (a.extractLsb' 0 4) (b ++ c)) else none
  else if op = 0x04 then if a &&& 0xF0 = 0xB0 ∧ c = 0x00 then some (.brx (a.extractLsb' 0 4) (b)) else none
  else if op = 0x05 then some (.call (a ++ b ++ c))
  else if op = 0x06 then if c = 0x00 then some (.callx (a) (b)) else none
  else if op = 0x07 then if a = 0x00 ∧ c = 0x00 then some (.ret (b)) else none
  else if op = 0x08 then if a = 0x00 ∧ b = 0x00 ∧ c &&& 0xF8 = 0x00 then some (.join (c.extractLsb' 0 3)) else none
  else if op = 0x09 then if a = 0x00 ∧ b = 0x00 ∧ c = 0x00 then some (.exit) else none
  else if op = 0x0A then if a = 0x00 ∧ b = 0x00 ∧ c = 0x00 then some (.yield) else none
  else if op = 0x0B then if a = 0x00 then some (.sleep (b ++ c)) else none
  else if op = 0x0C then if a &&& 0xE0 = 0x80 then some (.loop (a.extractLsb' 0 5) (b ++ c)) else none
  else if op = 0x0D then if a = 0x00 ∧ b = 0x00 ∧ c &&& 0xF8 = 0x00 then some (.bar (c.extractLsb' 0 3)) else none
  else if op = 0x0E then if a = 0x00 ∧ b = 0x00 ∧ c &&& 0xF8 = 0x00 then some (.bara (c.extractLsb' 0 3)) else none
  else if op = 0x0F then if a = 0x00 ∧ b = 0x00 ∧ c &&& 0xF8 = 0x00 then some (.barw (c.extractLsb' 0 3)) else none
  else if op = 0x10 then if a = 0x00 ∧ c = 0x00 then some (.waitf (b)) else none
  else if op = 0x11 then if a = 0x00 ∧ b = 0x00 ∧ c &&& 0xF0 = 0x00 then some (.give (c.extractLsb' 0 4)) else none
  else if op = 0x12 then if a = 0x00 ∧ b = 0x00 ∧ c &&& 0xF0 = 0x00 then some (.claim (c.extractLsb' 0 4)) else none
  else if op = 0x13 then if a = 0x00 ∧ b &&& 0x80 = 0x00 ∧ c = 0x00 then some (.spawn (b.extractLsb' 0 7)) else none
  else if op = 0x14 then if a = 0x00 ∧ b = 0x00 then some (.svc (c)) else none
  else if op = 0x15 then if a = 0x00 ∧ b = 0x00 ∧ c &&& 0xF0 = 0x00 then some (.trap (c.extractLsb' 0 4)) else none
  else if op = 0x16 then if a = 0x00 ∧ b = 0x00 ∧ c = 0x00 then some (.rft) else none
  else if op = 0x17 then if a = 0x00 then some (.brk (b ++ c)) else none
  else if op = 0x18 then if a = 0x00 ∧ b = 0x00 ∧ c &&& 0xF0 = 0x00 then some (.pmark (c.extractLsb' 0 4)) else none
  else none

/-- The integer and comparison opcodes, 0x20–0x45 (R245). -/
def decodeInteger (op : Nat) (a b c : BitVec 8) : Option Instr :=
  if op = 0x20 then some (.ldi (a) (b ++ c))
  else if op = 0x21 then some (.ldih (a) (b ++ c))
  else if op = 0x22 then if c = 0x00 then some (.mov (a) (b)) else none
  else if op = 0x23 then if c &&& 0xF0 = 0xB0 then some (.sel (a) (b) (c.extractLsb' 0 4)) else none
  else if op = 0x24 then some (.add (a) (b) (c))
  else if op = 0x25 then some (.sub (a) (b) (c))
  else if op = 0x26 then some (.mul (a) (b) (c))
  else if op = 0x27 then some (.mulh (a) (b) (c))
  else if op = 0x28 then some (.mad (a) (b) (c))
  else if op = 0x29 then some (.div (a) (b) (c))
  else if op = 0x2A then some (.rem (a) (b) (c))
  else if op = 0x2B then some (.min (a) (b) (c))
  else if op = 0x2C then some (.max (a) (b) (c))
  else if op = 0x2D then if c = 0x00 then some (.abs (a) (b)) else none
  else if op = 0x2E then if c = 0x00 then some (.neg (a) (b)) else none
  else if op = 0x2F then some (.and (a) (b) (c))
  else if op = 0x30 then some (.or (a) (b) (c))
  else if op = 0x31 then some (.xor (a) (b) (c))
  else if op = 0x32 then if c = 0x00 then some (.not (a) (b)) else none
  else if op = 0x33 then some (.shl (a) (b) (c))
  else if op = 0x34 then some (.shr (a) (b) (c))
  else if op = 0x35 then some (.rot (a) (b) (c))
  else if op = 0x36 then some (.bfx (a) (b) (c))
  else if op = 0x37 then some (.bfi (a) (b) (c))
  else if op = 0x38 then if c = 0x00 then some (.clz (a) (b)) else none
  else if op = 0x39 then if c = 0x00 then some (.popc (a) (b)) else none
  else if op = 0x3A then if c = 0x00 then some (.brev (a) (b)) else none
  else if op = 0x3B then some (.addi (a) (b) (c))
  else if op = 0x3C then some (.shli (a) (b) (c))
  else if op = 0x3D then some (.shri (a) (b) (c))
  else if op = 0x3E then some (.andi (a) (b) (c))
  else if op = 0x3F then some (.lea (a) (b) (c))
  else if op = 0x40 then if a &&& 0xF0 = 0xB0 then some (.ceq (a.extractLsb' 0 4) (b) (c)) else none
  else if op = 0x41 then if a &&& 0xF0 = 0xB0 then some (.cne (a.extractLsb' 0 4) (b) (c)) else none
  else if op = 0x42 then if a &&& 0xF0 = 0xB0 then some (.clt (a.extractLsb' 0 4) (b) (c)) else none
  else if op = 0x43 then if a &&& 0xF0 = 0xB0 then some (.cle (a.extractLsb' 0 4) (b) (c)) else none
  else if op = 0x44 then if a &&& 0xF0 = 0xB0 then some (.cgt (a.extractLsb' 0 4) (b) (c)) else none
  else if op = 0x45 then if a &&& 0xF0 = 0xB0 then some (.cge (a.extractLsb' 0 4) (b) (c)) else none
  else none

/-- The predicate opcodes, 0x48–0x4D (R245). -/
def decodePredicate (op : Nat) (a b c : BitVec 8) : Option Instr :=
  if op = 0x48 then if a &&& 0xF0 = 0xB0 ∧ b &&& 0xF0 = 0xB0 ∧ c &&& 0xF0 = 0xB0 then some (.pand (a.extractLsb' 0 4) (b.extractLsb' 0 4) (c.extractLsb' 0 4)) else none
  else if op = 0x49 then if a &&& 0xF0 = 0xB0 ∧ b &&& 0xF0 = 0xB0 ∧ c &&& 0xF0 = 0xB0 then some (.por (a.extractLsb' 0 4) (b.extractLsb' 0 4) (c.extractLsb' 0 4)) else none
  else if op = 0x4A then if a &&& 0xF0 = 0xB0 ∧ b &&& 0xF0 = 0xB0 ∧ c &&& 0xF0 = 0xB0 then some (.pxor (a.extractLsb' 0 4) (b.extractLsb' 0 4) (c.extractLsb' 0 4)) else none
  else if op = 0x4B then if a &&& 0xF0 = 0xB0 ∧ b &&& 0xF0 = 0xB0 ∧ c = 0x00 then some (.pnot (a.extractLsb' 0 4) (b.extractLsb' 0 4)) else none
  else if op = 0x4C then if a &&& 0xF0 = 0xB0 ∧ c = 0x00 then some (.pfrom (a.extractLsb' 0 4) (b)) else none
  else if op = 0x4D then if a &&& 0xF0 = 0xB0 ∧ b = 0x00 ∧ c &&& 0xFE = 0x00 then some (.pset (a.extractLsb' 0 4) (c.extractLsb' 0 1)) else none
  else none

/-- The floating-point and conversion opcodes, 0x50–0x76 (R245). -/
def decodeFloat (op : Nat) (a b c : BitVec 8) : Option Instr :=
  if op = 0x50 then some (.fadd (a) (b) (c))
  else if op = 0x51 then some (.fsub (a) (b) (c))
  else if op = 0x52 then some (.fmul (a) (b) (c))
  else if op = 0x53 then some (.fma (a) (b) (c))
  else if op = 0x54 then some (.fms (a) (b) (c))
  else if op = 0x55 then some (.fnma (a) (b) (c))
  else if op = 0x56 then some (.fmin (a) (b) (c))
  else if op = 0x57 then some (.fmax (a) (b) (c))
  else if op = 0x58 then if c = 0x00 then some (.fabs (a) (b)) else none
  else if op = 0x59 then if c = 0x00 then some (.fneg (a) (b)) else none
  else if op = 0x5A then some (.fdiv (a) (b) (c))
  else if op = 0x5B then if c = 0x00 then some (.fsqrt (a) (b)) else none
  else if op = 0x5C then if c = 0x00 then some (.frcp (a) (b)) else none
  else if op = 0x5D then if c = 0x00 then some (.frsq (a) (b)) else none
  else if op = 0x5E then if c = 0x00 then some (.fexp2 (a) (b)) else none
  else if op = 0x5F then if c = 0x00 then some (.flog2 (a) (b)) else none
  else if op = 0x60 then if c = 0x00 then some (.fsin (a) (b)) else none
  else if op = 0x61 then if c = 0x00 then some (.fcos (a) (b)) else none
  else if op = 0x62 then if c = 0x00 then some (.ftanh (a) (b)) else none
  else if op = 0x63 then if a &&& 0xF0 = 0xB0 then some (.fceq (a.extractLsb' 0 4) (b) (c)) else none
  else if op = 0x64 then if a &&& 0xF0 = 0xB0 then some (.fclt (a.extractLsb' 0 4) (b) (c)) else none
  else if op = 0x65 then if a &&& 0xF0 = 0xB0 then some (.fcle (a.extractLsb' 0 4) (b) (c)) else none
  else if op = 0x66 then if a &&& 0xF0 = 0xB0 then some (.fcun (a.extractLsb' 0 4) (b) (c)) else none
  else if op = 0x67 then if c = 0x00 then some (.fclass (a) (b)) else none
  else if op = 0x68 then if c = 0x00 then some (.frnd (a) (b)) else none
  else if op = 0x69 then some (.fcps (a) (b) (c))
  else if op = 0x6A then some (.fscale (a) (b) (c))
  else if op = 0x70 then if c &&& 0xF0 = 0x00 then some (.cvt (a) (b) (c.extractLsb' 0 4)) else none
  else if op = 0x71 then if c &&& 0xF0 = 0x00 then some (.cvts (a) (b) (c.extractLsb' 0 4)) else none
  else if op = 0x72 then some (.pack (a) (b) (c))
  else if op = 0x73 then some (.unpk (a) (b) (c))
  else if op = 0x74 then if a &&& 0x80 = 0x00 ∧ b &&& 0x80 = 0x00 ∧ c &&& 0xFE = 0x00 then some (.qnt (a.extractLsb' 0 7) (b.extractLsb' 0 7) (c.extractLsb' 0 1)) else none
  else if op = 0x75 then if a &&& 0x80 = 0x00 ∧ b &&& 0x80 = 0x00 ∧ c &&& 0xFE = 0x00 then some (.dqnt (a.extractLsb' 0 7) (b.extractLsb' 0 7) (c.extractLsb' 0 1)) else none
  else if op = 0x76 then if b = 0x00 ∧ c = 0x00 then some (.rand (a)) else none
  else none

/-- The cross-lane opcodes, 0x80–0x8B (R245). -/
def decodeCross (op : Nat) (a b c : BitVec 8) : Option Instr :=
  if op = 0x80 then some (.shfl (a) (b) (c))
  else if op = 0x81 then some (.shfx (a) (b) (c))
  else if op = 0x82 then if c &&& 0xE0 = 0x00 then some (.shup (a) (b) (c.extractLsb' 0 5)) else none
  else if op = 0x83 then if c &&& 0xE0 = 0x00 then some (.shdn (a) (b) (c.extractLsb' 0 5)) else none
  else if op = 0x84 then if a &&& 0xF0 = 0xB0 ∧ b &&& 0xF0 = 0xB0 ∧ c &&& 0xFE = 0x00 then some (.vota (a.extractLsb' 0 4) (b.extractLsb' 0 4) (c.extractLsb' 0 1)) else none
  else if op = 0x85 then if a &&& 0xF0 = 0xB0 ∧ b &&& 0xF0 = 0xB0 ∧ c &&& 0xFE = 0x00 then some (.voty (a.extractLsb' 0 4) (b.extractLsb' 0 4) (c.extractLsb' 0 1)) else none
  else if op = 0x86 then if b &&& 0xF0 = 0xB0 ∧ c &&& 0xE0 = 0x00 then some (.ballot (a) (b.extractLsb' 0 4) (c.extractLsb' 0 5)) else none
  else if op = 0x87 then if c &&& 0xE0 = 0x00 then some (.redu (a) (b) (c.extractLsb' 4 1) (c.extractLsb' 0 4)) else none
  else if op = 0x88 then if c &&& 0xC0 = 0x00 then some (.scan (a) (b) (c.extractLsb' 5 1) (c.extractLsb' 4 1) (c.extractLsb' 0 4)) else none
  else if op = 0x89 then some (.bcast (a) (b) (c))
  else if op = 0x8A then if c = 0x00 then some (.matchLanes (a) (b)) else none
  else if op = 0x8B then if b &&& 0xF0 = 0xB0 ∧ c &&& 0xFC = 0x00 then some (.acnt (a) (b.extractLsb' 0 4) (c.extractLsb' 1 1) (c.extractLsb' 0 1)) else none
  else none

/-- The memory opcodes, 0x90–0xA3 (R245). -/
def decodeMemory (op : Nat) (a b c : BitVec 8) : Option Instr :=
  if op = 0x90 then some (.ld (a) (b) (c.extractLsb' 6 2) (c.extractLsb' 0 6))
  else if op = 0x91 then some (.st (a) (b) (c.extractLsb' 6 2) (c.extractLsb' 0 6))
  else if op = 0x92 then some (.ldu (a) (b) (c.extractLsb' 6 2) (c.extractLsb' 0 6))
  else if op = 0x93 then some (.stu (a) (b) (c.extractLsb' 6 2) (c.extractLsb' 0 6))
  else if op = 0x94 then some (.ldl (a) (b) (c.extractLsb' 6 2) (c.extractLsb' 0 6))
  else if op = 0x95 then some (.stl (a) (b) (c.extractLsb' 6 2) (c.extractLsb' 0 6))
  else if op = 0x96 then if c &&& 0xF0 = 0x00 then some (.ldp (a) (b) (c.extractLsb' 2 2) (c.extractLsb' 0 2)) else none
  else if op = 0x97 then if a &&& 0xF8 = 0x00 ∧ c &&& 0xF8 = 0x00 then some (.lda (a.extractLsb' 0 3) (b) (c.extractLsb' 0 3)) else none
  else if op = 0x98 then if a &&& 0x80 = 0x00 ∧ b = 0x00 ∧ c &&& 0xF8 = 0x00 then some (.commit (a.extractLsb' 0 7) (c.extractLsb' 0 3)) else none
  else if op = 0x99 then some (.ldq (a) (b) (c.extractLsb' 6 2) (c.extractLsb' 0 6))
  else if op = 0x9A then some (.str (a) (b) (c.extractLsb' 6 2) (c.extractLsb' 0 6))
  else if op = 0x9B then if a = 0x00 ∧ b = 0x00 ∧ c &&& 0xFC = 0x00 then some (.fence (c.extractLsb' 0 2)) else none
  else if op = 0x9C then if c &&& 0xC0 = 0x00 then some (.atom (a) (b) (c.extractLsb' 5 1) (c.extractLsb' 4 1) (c.extractLsb' 0 4)) else none
  else if op = 0x9D then if c &&& 0xC0 = 0x00 then some (.atomr (a) (b) (c.extractLsb' 5 1) (c.extractLsb' 4 1) (c.extractLsb' 0 4)) else none
  else if op = 0x9E then if c &&& 0xCF = 0x00 then some (.cas (a) (b) (c.extractLsb' 5 1) (c.extractLsb' 4 1)) else none
  else if op = 0x9F then if c &&& 0xF0 = 0x00 then some (.red (a) (b) (c.extractLsb' 0 4)) else none
  else if op = 0xA0 then if a = 0x00 then some (.pref (b) (c)) else none
  else if op = 0xA1 then some (.arma (a) (b) (c))
  else if op = 0xA2 then if a = 0x00 then some (.waita (b) (c)) else none
  else if op = 0xA3 then if a &&& 0xF0 = 0xB0 then some (.polla (a.extractLsb' 0 4) (b) (c)) else none
  else none

/-- The queue and tile opcodes, 0xB0–0xCB (R245). -/
def decodeQueueTile (op : Nat) (a b c : BitVec 8) : Option Instr :=
  if op = 0xB0 then if a &&& 0xE0 = 0x80 then some (.qcfg (a.extractLsb' 0 5) (b) (c)) else none
  else if op = 0xB1 then if a = 0x00 then some (.qfree (b) (c)) else none
  else if op = 0xB2 then if a = 0x00 then some (.qdrain (b) (c)) else none
  else if op = 0xB3 then some (.qcnt (a) (b) (c))
  else if op = 0xB4 then if b &&& 0xF0 = 0xB0 ∧ c &&& 0xD0 = 0x00 then some (.qtry (a) (b.extractLsb' 0 4) (c.extractLsb' 5 1) (c.extractLsb' 0 4)) else none
  else if op = 0xB5 then if a &&& 0xF0 = 0xB0 ∧ c &&& 0xF0 = 0x00 then some (.qoffr (a.extractLsb' 0 4) (b) (c.extractLsb' 0 4)) else none
  else if op = 0xB6 then if a = 0x00 then some (.qclose (b) (c)) else none
  else if op = 0xB7 then if a = 0x00 ∧ c &&& 0xF0 = 0x00 then some (.qlink (b) (c.extractLsb' 0 4)) else none
  else if op = 0xC0 then if a &&& 0xE0 = 0x80 ∧ b = 0x00 ∧ c &&& 0xF8 = 0x00 then some (.talloc (a.extractLsb' 0 5) (c.extractLsb' 0 3)) else none
  else if op = 0xC1 then if a &&& 0xE0 = 0x80 ∧ b &&& 0xE0 = 0x80 ∧ c &&& 0xE0 = 0x80 then some (.tload (a.extractLsb' 0 5) (b.extractLsb' 0 5) (c.extractLsb' 0 5)) else none
  else if op = 0xC2 then if a &&& 0xE0 = 0x80 ∧ b &&& 0xE0 = 0x80 ∧ c &&& 0xE0 = 0x80 then some (.tstore (a.extractLsb' 0 5) (b.extractLsb' 0 5) (c.extractLsb' 0 5)) else none
  else if op = 0xC3 then if a &&& 0xE0 = 0x80 ∧ b &&& 0xE0 = 0x80 ∧ c &&& 0xE0 = 0x80 then some (.ttask (a.extractLsb' 0 5) (b.extractLsb' 0 5) (c.extractLsb' 0 5)) else none
  else if op = 0xC4 then if a &&& 0x80 = 0x00 ∧ b &&& 0xE0 = 0x80 ∧ c &&& 0xE0 = 0x80 then some (.tget (a.extractLsb' 0 7) (b.extractLsb' 0 5) (c.extractLsb' 0 5)) else none
  else if op = 0xC5 then if a &&& 0xE0 = 0x80 ∧ b &&& 0xE0 = 0x80 then some (.tdef (a.extractLsb' 0 5) (b.extractLsb' 0 5) (c)) else none
  else if op = 0xC6 then if a = 0x00 ∧ b &&& 0xE0 = 0x80 ∧ c = 0x00 then some (.tkill (b.extractLsb' 0 5)) else none
  else if op = 0xC7 then if a = 0x00 ∧ b &&& 0xE0 = 0x80 ∧ c = 0x00 then some (.twait (b.extractLsb' 0 5)) else none
  else if op = 0xC8 then if b &&& 0xE0 = 0x80 ∧ c = 0x00 then some (.tstat (a) (b.extractLsb' 0 5)) else none
  else if op = 0xC9 then if a = 0x00 ∧ b &&& 0xE0 = 0x80 ∧ c &&& 0x80 = 0x00 then some (.thint (b.extractLsb' 0 5) (c.extractLsb' 3 4) (c.extractLsb' 0 3)) else none
  else if op = 0xCA then if a = 0x00 ∧ b &&& 0xE0 = 0x80 ∧ c &&& 0xC0 = 0x00 then some (.tdesc (b.extractLsb' 0 5) (c.extractLsb' 0 6)) else none
  else if op = 0xCB then if a &&& 0xE0 = 0x80 ∧ b = 0x00 ∧ c &&& 0xC0 = 0x00 then some (.tdescr (a.extractLsb' 0 5) (c.extractLsb' 0 6)) else none
  else none

/-- The engine, assumption and system opcodes, 0xD0–0xF4, and ILL (R245). -/
def decodeSystem (op : Nat) (a b c : BitVec 8) : Option Instr :=
  if op = 0xD0 then if a = 0x00 ∧ b &&& 0xE0 = 0x80 ∧ c = 0x00 then some (.card (b.extractLsb' 0 5)) else none
  else if op = 0xD1 then if a &&& 0xE0 = 0x80 ∧ b &&& 0xE0 = 0x80 ∧ c = 0x00 then some (.cardw (a.extractLsb' 0 5) (b.extractLsb' 0 5)) else none
  else if op = 0xD2 then if a = 0x00 ∧ b &&& 0xE0 = 0x80 ∧ c &&& 0xDF = 0x00 then some (.garm (b.extractLsb' 0 5) (c.extractLsb' 5 1)) else none
  else if op = 0xD3 then if a = 0x00 ∧ b &&& 0xE0 = 0x80 ∧ c = 0x00 then some (.gdone (b.extractLsb' 0 5)) else none
  else if op = 0xD4 then if a = 0x00 ∧ b &&& 0xE0 = 0x80 then some (.subm (b.extractLsb' 0 5) (c)) else none
  else if op = 0xD5 then if a &&& 0xE0 = 0x80 ∧ b &&& 0xE0 = 0x80 ∧ c &&& 0xF8 = 0x00 then some (.sigw (a.extractLsb' 0 5) (b.extractLsb' 0 5) (c.extractLsb' 0 3)) else none
  else if op = 0xD6 then if a &&& 0xE0 = 0x80 ∧ b &&& 0xE0 = 0x80 ∧ c &&& 0xDC = 0x00 then some (.siga (a.extractLsb' 0 5) (b.extractLsb' 0 5) (c.extractLsb' 5 1) (c.extractLsb' 0 2)) else none
  else if op = 0xE0 then if b &&& 0xE0 = 0x80 ∧ c &&& 0xFC = 0x00 then some (.areg (a) (b.extractLsb' 0 5) (c.extractLsb' 0 2)) else none
  else if op = 0xE1 then if b = 0x00 then some (.aenter (a) (c)) else none
  else if op = 0xE2 then if a = 0x00 ∧ b = 0x00 ∧ c = 0x00 then some (.aexit) else none
  else if op = 0xE3 then if a = 0x00 ∧ c = 0x00 then some (.adrop (b)) else none
  else if op = 0xE4 then if a &&& 0xF0 = 0xB0 ∧ c = 0x00 then some (.atest (a.extractLsb' 0 4) (b)) else none
  else if op = 0xE5 then if a = 0x00 ∧ c = 0x00 then some (.arevk (b)) else none
  else if op = 0xE8 then if b &&& 0xF0 = 0x00 then some (.csrr (a) (b.extractLsb' 0 4 ++ c)) else none
  else if op = 0xE9 then if b &&& 0xF0 = 0x00 then some (.csrw (a) (b.extractLsb' 0 4 ++ c)) else none
  else if op = 0xEA then if b &&& 0xF0 = 0x00 then some (.csrs (a) (b.extractLsb' 0 4 ++ c)) else none
  else if op = 0xEB then if b &&& 0xF0 = 0x00 then some (.csrc (a) (b.extractLsb' 0 4 ++ c)) else none
  else if op = 0xEC then if a = 0x00 then some (.fwcall (b) (c)) else if a &&& 0xE0 = 0x80 ∧ c = 0x00 then some (.fwcallReg (a.extractLsb' 0 5) (b)) else none
  else if op = 0xED then if a = 0x00 ∧ b &&& 0xE0 = 0x80 then some (.tinv (b.extractLsb' 0 5) (c)) else none
  else if op = 0xEE then if a &&& 0xE0 = 0x80 ∧ c = 0x00 then some (.svcr (a.extractLsb' 0 5) (b)) else none
  else if op = 0xEF then if a &&& 0xE0 = 0x80 ∧ c = 0x00 then some (.ctxs (a.extractLsb' 0 5) (b)) else none
  else if op = 0xF0 then if a &&& 0xE0 = 0x80 ∧ c = 0x00 then some (.ctxl (a.extractLsb' 0 5) (b)) else none
  else if op = 0xF1 then if a &&& 0xE0 = 0x80 ∧ b = 0x00 ∧ c &&& 0xF0 = 0x00 then some (.ticketClaim (a.extractLsb' 0 5) (c.extractLsb' 0 4)) else if a &&& 0xE0 = 0x80 ∧ b = 0x00 ∧ c &&& 0xF0 = 0x80 then some (.ticketDone (a.extractLsb' 0 5) (c.extractLsb' 0 4)) else none
  else if op = 0xF2 then if a = 0x00 ∧ b = 0x00 ∧ c = 0x01 then some (.xtrig) else none
  else if op = 0xF3 then if a = 0x00 ∧ c = 0x00 then some (.tron (b)) else none
  else if op = 0xF4 then if a = 0x00 ∧ b &&& 0xE0 = 0x80 ∧ c = 0x00 then some (.expd (b.extractLsb' 0 5)) else none
  else if op = 0xFF then if a = 0xFF ∧ b = 0xFF ∧ c = 0xFF then some (.ill) else none
  else none

/-- The instruction with opcode `op` and fields `a`, `b`, `c`. -/
def decodeFields (op : Nat) (a b c : BitVec 8) : Option Instr :=
  if op < 0x20 then decodeControl op a b c
  else if op < 0x48 then decodeInteger op a b c
  else if op < 0x50 then decodePredicate op a b c
  else if op < 0x80 then decodeFloat op a b c
  else if op < 0x90 then decodeCross op a b c
  else if op < 0xB0 then decodeMemory op a b c
  else if op < 0xD0 then decodeQueueTile op a b c
  else decodeSystem op a b c

/-- The instruction of a 32-bit word (R234, R245); none where no row of the table matches it. -/
def decode (w : Word) : Option Instr := decodeFields (opOf w) (fieldA w) (fieldB w) (fieldC w)

/-- Four bytes of storage, lowest address first, as a little-endian word (R5). -/
def wordOfBytes (b0 b1 b2 b3 : Byte) : Word := b3 ++ b2 ++ b1 ++ b0

/-- The bytes of a word in storage, lowest address first (R5). -/
def bytesOfWord (w : Word) : List Byte :=
  [w.extractLsb' 0 8, w.extractLsb' 8 8, w.extractLsb' 16 8, w.extractLsb' 24 8]

/-- Decoding of any bytes: the instruction of the first word and the bytes after it; none for fewer than four bytes or
for a word that matches no row. -/
def decodeBytes : List Byte → Option (Instr × List Byte)
  | b0 :: b1 :: b2 :: b3 :: rest => (decode (wordOfBytes b0 b1 b2 b3)).map fun i => (i, rest)
  | _ => none

/-- Whether an opcode is one of the 181 assigned codes (R245). -/
def opAssigned (op : Nat) : Bool :=
  op ≤ 0x18 || (0x20 ≤ op && op ≤ 0x45) || (0x48 ≤ op && op ≤ 0x4D) || (0x50 ≤ op && op ≤ 0x6A) ||
  (0x70 ≤ op && op ≤ 0x76) || (0x80 ≤ op && op ≤ 0x8B) || (0x90 ≤ op && op ≤ 0xA3) ||
  (0xB0 ≤ op && op ≤ 0xB7) || (0xC0 ≤ op && op ≤ 0xCB) || (0xD0 ≤ op && op ≤ 0xD6) ||
  (0xE0 ≤ op && op ≤ 0xE5) || (0xE8 ≤ op && op ≤ 0xF4)

/-- The word of an instruction, from the encoding tables of chapters 11 to 13 and R234. An event has no word. -/
def encode : Instr → Option Word
  | .nop => some (packWord 0x00 0x0#8 0x0#8 0x0#8)
  | .mode i => some (packWord 0x01 0x0#8 (i.extractLsb' 8 8) (i.extractLsb' 0 8))
  | .bra p i => some (packWord 0x02 (0xB#4 ++ p) (i.extractLsb' 8 8) (i.extractLsb' 0 8))
  | .bran p i => some (packWord 0x03 (0xB#4 ++ p) (i.extractLsb' 8 8) (i.extractLsb' 0 8))
  | .brx p x => some (packWord 0x04 (0xB#4 ++ p) x 0x0#8)
  | .call i => some (packWord 0x05 (i.extractLsb' 16 8) (i.extractLsb' 8 8) (i.extractLsb' 0 8))
  | .callx d x => some (packWord 0x06 d x 0x0#8)
  | .ret x => some (packWord 0x07 0x0#8 x 0x0#8)
  | .join j => some (packWord 0x08 0x0#8 0x0#8 (0x0#5 ++ j))
  | .exit => some (packWord 0x09 0x0#8 0x0#8 0x0#8)
  | .yield => some (packWord 0x0A 0x0#8 0x0#8 0x0#8)
  | .sleep n => some (packWord 0x0B 0x0#8 (n.extractLsb' 8 8) (n.extractLsb' 0 8))
  | .loop s i => some (packWord 0x0C (0x4#3 ++ s) (i.extractLsb' 8 8) (i.extractLsb' 0 8))
  | .bar b => some (packWord 0x0D 0x0#8 0x0#8 (0x0#5 ++ b))
  | .bara b => some (packWord 0x0E 0x0#8 0x0#8 (0x0#5 ++ b))
  | .barw b => some (packWord 0x0F 0x0#8 0x0#8 (0x0#5 ++ b))
  | .waitf x => some (packWord 0x10 0x0#8 x 0x0#8)
  | .give k => some (packWord 0x11 0x0#8 0x0#8 (0x0#4 ++ k))
  | .claim k => some (packWord 0x12 0x0#8 0x0#8 (0x0#4 ++ k))
  | .spawn x => some (packWord 0x13 0x0#8 (0x0#1 ++ x) 0x0#8)
  | .svc n => some (packWord 0x14 0x0#8 0x0#8 n)
  | .trap n => some (packWord 0x15 0x0#8 0x0#8 (0x0#4 ++ n))
  | .rft => some (packWord 0x16 0x0#8 0x0#8 0x0#8)
  | .brk i => some (packWord 0x17 0x0#8 (i.extractLsb' 8 8) (i.extractLsb' 0 8))
  | .pmark k => some (packWord 0x18 0x0#8 0x0#8 (0x0#4 ++ k))
  | .ldi d i => some (packWord 0x20 d (i.extractLsb' 8 8) (i.extractLsb' 0 8))
  | .ldih d i => some (packWord 0x21 d (i.extractLsb' 8 8) (i.extractLsb' 0 8))
  | .mov d x => some (packWord 0x22 d x 0x0#8)
  | .sel d x p => some (packWord 0x23 d x (0xB#4 ++ p))
  | .add d x y => some (packWord 0x24 d x y)
  | .sub d x y => some (packWord 0x25 d x y)
  | .mul d x y => some (packWord 0x26 d x y)
  | .mulh d x y => some (packWord 0x27 d x y)
  | .mad d x y => some (packWord 0x28 d x y)
  | .div d x y => some (packWord 0x29 d x y)
  | .rem d x y => some (packWord 0x2A d x y)
  | .min d x y => some (packWord 0x2B d x y)
  | .max d x y => some (packWord 0x2C d x y)
  | .abs d x => some (packWord 0x2D d x 0x0#8)
  | .neg d x => some (packWord 0x2E d x 0x0#8)
  | .and d x y => some (packWord 0x2F d x y)
  | .or d x y => some (packWord 0x30 d x y)
  | .xor d x y => some (packWord 0x31 d x y)
  | .not d x => some (packWord 0x32 d x 0x0#8)
  | .shl d x y => some (packWord 0x33 d x y)
  | .shr d x y => some (packWord 0x34 d x y)
  | .rot d x y => some (packWord 0x35 d x y)
  | .bfx d x y => some (packWord 0x36 d x y)
  | .bfi d x y => some (packWord 0x37 d x y)
  | .clz d x => some (packWord 0x38 d x 0x0#8)
  | .popc d x => some (packWord 0x39 d x 0x0#8)
  | .brev d x => some (packWord 0x3A d x 0x0#8)
  | .addi d x i => some (packWord 0x3B d x i)
  | .shli d x i => some (packWord 0x3C d x i)
  | .shri d x i => some (packWord 0x3D d x i)
  | .andi d x i => some (packWord 0x3E d x i)
  | .lea d x y => some (packWord 0x3F d x y)
  | .ceq p x y => some (packWord 0x40 (0xB#4 ++ p) x y)
  | .cne p x y => some (packWord 0x41 (0xB#4 ++ p) x y)
  | .clt p x y => some (packWord 0x42 (0xB#4 ++ p) x y)
  | .cle p x y => some (packWord 0x43 (0xB#4 ++ p) x y)
  | .cgt p x y => some (packWord 0x44 (0xB#4 ++ p) x y)
  | .cge p x y => some (packWord 0x45 (0xB#4 ++ p) x y)
  | .pand d x y => some (packWord 0x48 (0xB#4 ++ d) (0xB#4 ++ x) (0xB#4 ++ y))
  | .por d x y => some (packWord 0x49 (0xB#4 ++ d) (0xB#4 ++ x) (0xB#4 ++ y))
  | .pxor d x y => some (packWord 0x4A (0xB#4 ++ d) (0xB#4 ++ x) (0xB#4 ++ y))
  | .pnot d x => some (packWord 0x4B (0xB#4 ++ d) (0xB#4 ++ x) 0x0#8)
  | .pfrom d x => some (packWord 0x4C (0xB#4 ++ d) x 0x0#8)
  | .pset d b => some (packWord 0x4D (0xB#4 ++ d) 0x0#8 (0x0#7 ++ b))
  | .fadd d x y => some (packWord 0x50 d x y)
  | .fsub d x y => some (packWord 0x51 d x y)
  | .fmul d x y => some (packWord 0x52 d x y)
  | .fma d x y => some (packWord 0x53 d x y)
  | .fms d x y => some (packWord 0x54 d x y)
  | .fnma d x y => some (packWord 0x55 d x y)
  | .fmin d x y => some (packWord 0x56 d x y)
  | .fmax d x y => some (packWord 0x57 d x y)
  | .fabs d x => some (packWord 0x58 d x 0x0#8)
  | .fneg d x => some (packWord 0x59 d x 0x0#8)
  | .fdiv d x y => some (packWord 0x5A d x y)
  | .fsqrt d x => some (packWord 0x5B d x 0x0#8)
  | .frcp d x => some (packWord 0x5C d x 0x0#8)
  | .frsq d x => some (packWord 0x5D d x 0x0#8)
  | .fexp2 d x => some (packWord 0x5E d x 0x0#8)
  | .flog2 d x => some (packWord 0x5F d x 0x0#8)
  | .fsin d x => some (packWord 0x60 d x 0x0#8)
  | .fcos d x => some (packWord 0x61 d x 0x0#8)
  | .ftanh d x => some (packWord 0x62 d x 0x0#8)
  | .fceq p x y => some (packWord 0x63 (0xB#4 ++ p) x y)
  | .fclt p x y => some (packWord 0x64 (0xB#4 ++ p) x y)
  | .fcle p x y => some (packWord 0x65 (0xB#4 ++ p) x y)
  | .fcun p x y => some (packWord 0x66 (0xB#4 ++ p) x y)
  | .fclass d x => some (packWord 0x67 d x 0x0#8)
  | .frnd d x => some (packWord 0x68 d x 0x0#8)
  | .fcps d x y => some (packWord 0x69 d x y)
  | .fscale d x y => some (packWord 0x6A d x y)
  | .cvt d x s => some (packWord 0x70 d x (0x0#4 ++ s))
  | .cvts d x s => some (packWord 0x71 d x (0x0#4 ++ s))
  | .pack d x i => some (packWord 0x72 d x i)
  | .unpk d x i => some (packWord 0x73 d x i)
  | .qnt d x f => some (packWord 0x74 (0x0#1 ++ d) (0x0#1 ++ x) (0x0#7 ++ f))
  | .dqnt d x f => some (packWord 0x75 (0x0#1 ++ d) (0x0#1 ++ x) (0x0#7 ++ f))
  | .rand d => some (packWord 0x76 d 0x0#8 0x0#8)
  | .shfl d x y => some (packWord 0x80 d x y)
  | .shfx d x y => some (packWord 0x81 d x y)
  | .shup d x n => some (packWord 0x82 d x (0x0#3 ++ n))
  | .shdn d x n => some (packWord 0x83 d x (0x0#3 ++ n))
  | .vota d x w => some (packWord 0x84 (0xB#4 ++ d) (0xB#4 ++ x) (0x0#7 ++ w))
  | .voty d x w => some (packWord 0x85 (0xB#4 ++ d) (0xB#4 ++ x) (0x0#7 ++ w))
  | .ballot d x w => some (packWord 0x86 d (0xB#4 ++ x) (0x0#3 ++ w))
  | .redu d x w o => some (packWord 0x87 d x (0x0#3 ++ w ++ o))
  | .scan d x e w o => some (packWord 0x88 d x (0x0#2 ++ e ++ w ++ o))
  | .bcast d x y => some (packWord 0x89 d x y)
  | .matchLanes d x => some (packWord 0x8A d x 0x0#8)
  | .acnt d x w r => some (packWord 0x8B d (0xB#4 ++ x) (0x0#6 ++ w ++ r))
  | .ld d x s o => some (packWord 0x90 d x (s ++ o))
  | .st d x s o => some (packWord 0x91 d x (s ++ o))
  | .ldu d x s o => some (packWord 0x92 d x (s ++ o))
  | .stu d x s o => some (packWord 0x93 d x (s ++ o))
  | .ldl d x s o => some (packWord 0x94 d x (s ++ o))
  | .stl d x s o => some (packWord 0x95 d x (s ++ o))
  | .ldp d x s w => some (packWord 0x96 d x (0x0#4 ++ s ++ w))
  | .lda t x n => some (packWord 0x97 (0x0#5 ++ t) x (0x0#5 ++ n))
  | .commit d t => some (packWord 0x98 (0x0#1 ++ d) 0x0#8 (0x0#5 ++ t))
  | .ldq d x s o => some (packWord 0x99 d x (s ++ o))
  | .str d x s o => some (packWord 0x9A d x (s ++ o))
  | .fence k => some (packWord 0x9B 0x0#8 0x0#8 (0x0#6 ++ k))
  | .atom d x r q o => some (packWord 0x9C d x (0x0#2 ++ r ++ q ++ o))
  | .atomr d x r q o => some (packWord 0x9D d x (0x0#2 ++ r ++ q ++ o))
  | .cas d x r q => some (packWord 0x9E d x (0x0#2 ++ r ++ q ++ 0x0#4))
  | .red d x o => some (packWord 0x9F d x (0x0#4 ++ o))
  | .pref x o => some (packWord 0xA0 0x0#8 x o)
  | .arma d x y => some (packWord 0xA1 d x y)
  | .waita x y => some (packWord 0xA2 0x0#8 x y)
  | .polla p x y => some (packWord 0xA3 (0xB#4 ++ p) x y)
  | .qcfg d x y => some (packWord 0xB0 (0x4#3 ++ d) x y)
  | .qfree x c => some (packWord 0xB1 0x0#8 x c)
  | .qdrain x c => some (packWord 0xB2 0x0#8 x c)
  | .qcnt d x c => some (packWord 0xB3 d x c)
  | .qtry d p e q => some (packWord 0xB4 d (0xB#4 ++ p) (0x0#2 ++ e ++ 0x0#1 ++ q))
  | .qoffr p x q => some (packWord 0xB5 (0xB#4 ++ p) x (0x0#4 ++ q))
  | .qclose x c => some (packWord 0xB6 0x0#8 x c)
  | .qlink x q => some (packWord 0xB7 0x0#8 x (0x0#4 ++ q))
  | .talloc d n => some (packWord 0xC0 (0x4#3 ++ d) 0x0#8 (0x0#5 ++ n))
  | .tload d x y => some (packWord 0xC1 (0x4#3 ++ d) (0x4#3 ++ x) (0x4#3 ++ y))
  | .tstore d x y => some (packWord 0xC2 (0x4#3 ++ d) (0x4#3 ++ x) (0x4#3 ++ y))
  | .ttask d x y => some (packWord 0xC3 (0x4#3 ++ d) (0x4#3 ++ x) (0x4#3 ++ y))
  | .tget d x y => some (packWord 0xC4 (0x0#1 ++ d) (0x4#3 ++ x) (0x4#3 ++ y))
  | .tdef d x y => some (packWord 0xC5 (0x4#3 ++ d) (0x4#3 ++ x) y)
  | .tkill x => some (packWord 0xC6 0x0#8 (0x4#3 ++ x) 0x0#8)
  | .twait x => some (packWord 0xC7 0x0#8 (0x4#3 ++ x) 0x0#8)
  | .tstat d x => some (packWord 0xC8 d (0x4#3 ++ x) 0x0#8)
  | .thint x c h => some (packWord 0xC9 0x0#8 (0x4#3 ++ x) (0x0#1 ++ c ++ h))
  | .tdesc x i => some (packWord 0xCA 0x0#8 (0x4#3 ++ x) (0x0#2 ++ i))
  | .tdescr d i => some (packWord 0xCB (0x4#3 ++ d) 0x0#8 (0x0#2 ++ i))
  | .card x => some (packWord 0xD0 0x0#8 (0x4#3 ++ x) 0x0#8)
  | .cardw d x => some (packWord 0xD1 (0x4#3 ++ d) (0x4#3 ++ x) 0x0#8)
  | .garm x r => some (packWord 0xD2 0x0#8 (0x4#3 ++ x) (0x0#2 ++ r ++ 0x0#5))
  | .gdone x => some (packWord 0xD3 0x0#8 (0x4#3 ++ x) 0x0#8)
  | .subm x y => some (packWord 0xD4 0x0#8 (0x4#3 ++ x) y)
  | .sigw d x c => some (packWord 0xD5 (0x4#3 ++ d) (0x4#3 ++ x) (0x0#5 ++ c))
  | .siga d x r o => some (packWord 0xD6 (0x4#3 ++ d) (0x4#3 ++ x) (0x0#2 ++ r ++ 0x0#3 ++ o))
  | .areg d x k => some (packWord 0xE0 d (0x4#3 ++ x) (0x0#6 ++ k))
  | .aenter x i => some (packWord 0xE1 x 0x0#8 i)
  | .aexit => some (packWord 0xE2 0x0#8 0x0#8 0x0#8)
  | .adrop x => some (packWord 0xE3 0x0#8 x 0x0#8)
  | .atest p x => some (packWord 0xE4 (0xB#4 ++ p) x 0x0#8)
  | .arevk x => some (packWord 0xE5 0x0#8 x 0x0#8)
  | .csrr d c => some (packWord 0xE8 d (0x0#4 ++ c.extractLsb' 8 4) (c.extractLsb' 0 8))
  | .csrw x c => some (packWord 0xE9 x (0x0#4 ++ c.extractLsb' 8 4) (c.extractLsb' 0 8))
  | .csrs x c => some (packWord 0xEA x (0x0#4 ++ c.extractLsb' 8 4) (c.extractLsb' 0 8))
  | .csrc x c => some (packWord 0xEB x (0x0#4 ++ c.extractLsb' 8 4) (c.extractLsb' 0 8))
  | .fwcall x n => some (packWord 0xEC 0x0#8 x n)
  | .fwcallReg a x => some (packWord 0xEC (0x4#3 ++ a) x 0x0#8)
  | .tinv x y => some (packWord 0xED 0x0#8 (0x4#3 ++ x) y)
  | .svcr d x => some (packWord 0xEE (0x4#3 ++ d) x 0x0#8)
  | .ctxs d x => some (packWord 0xEF (0x4#3 ++ d) x 0x0#8)
  | .ctxl d x => some (packWord 0xF0 (0x4#3 ++ d) x 0x0#8)
  | .ticketClaim d c => some (packWord 0xF1 (0x4#3 ++ d) 0x0#8 (0x0#4 ++ c))
  | .ticketDone d c => some (packWord 0xF1 (0x4#3 ++ d) 0x0#8 (0x8#4 ++ c))
  | .xtrig => some (packWord 0xF2 0x0#8 0x0#8 0x1#8)
  | .tron x => some (packWord 0xF3 0x0#8 x 0x0#8)
  | .expd x => some (packWord 0xF4 0x0#8 (0x4#3 ++ x) 0x0#8)
  | .ill => some (packWord 0xFF 0xFF#8 0xFF#8 0xFF#8)
  | .coldReset => none
  | .securityAlarm => none
  | .attestationRequest => none
  | .doorbell _ _ => none
  | .queueEnable _ => none
  | .queueDisable _ => none
  | .queueAbortWrite _ => none
  | .hostWindowWrite _ _ _ => none
  | .hostWindowRead _ _ _ => none
  | .cqHeadWrite _ _ => none
  | .cqRingReset _ _ _ => none
  | .completionEntryPost _ => none
  | .cqInterruptTimer _ => none
  | .workPacket _ => none
  | .workRecordAppend _ _ => none
  | .waitPacket _ => none
  | .waitSignalRead _ _ => none
  | .signalPacket _ => none
  | .copyPacket _ => none
  | .graphPacket _ => none
  | .markerPacket _ => none
  | .recordDistribute _ _ => none
  | .gatherWindowExpiry _ => none
  | .groupAdmission _ => none
  | .feedAppend _ _ => none
  | .nodeRetire _ _ => none
  | .cardStart _ => none
  | .cardTransfer _ => none
  | .cardComplete _ => none
  | .collectiveTimeout _ => none
  | .tileDefinitionComplete _ _ => none
  | .tileDefinitionFail _ _ _ => none
  | .tileReadComplete _ _ _ => none
  | .tileTaskDispatch _ _ => none
  | .tileStepBlock _ => none
  | .ldaLanded _ _ => none
  | .instructionComplete _ _ => none
  | .gets _ => none
  | .nreq _ => none
  | .ngrant _ _ => none
  | .wtgrant _ _ => none
  | .writeThroughStore _ => none
  | .writeBack _ _ => none
  | .invalidation _ => none
  | .forcedPublish _ _ => none
  | .narrowWritebackTimer _ _ => none
  | .homeEviction _ => none
  | .guestEviction _ _ => none
  | .bankAluOperation _ => none
  | .releaseMarker _ _ _ _ _ => none
  | .applyEntry _ => none
  | .commitGroup _ => none
  | .revocation _ _ => none
  | .coreRevocation _ _ => none
  | .heldRequestRelease _ => none
  | .fallbackRelease _ _ => none
  | .pageWalk _ _ _ _ _ => none
  | .edfPeriodStart _ _ => none
  | .stopRequest _ => none
  | .sliceEnd _ => none
  | .hardPreemption _ => none
  | .saveTimerExpiry _ => none
  | .sleepExpiry _ _ => none
  | .priorityAging _ _ => none
  | .deferredTrap _ => none
  | .lateStoreFault _ _ => none
  | .postedStoreAck _ _ => none
  | .linkRetrain _ => none
  | .linkRecovery _ => none
  | .linkRetrainTimeout _ => none
  | .apertureFailure _ _ _ => none
  | .completionTimeout _ _ => none
  | .jobWatchdog _ _ _ => none
  | .svcReply _ _ => none
  | .overlayLoadComplete _ _ => none
  | .traceSyncTimer _ _ => none
  | .trialPhaseEnd _ => none
  | .powerStateEntry => none
  | .powerWake => none
  | .patrolScrub => none
  | .statusClear _ _ => none
  | .droopcfgWrite _ _ => none
  | .apinv _ _ => none
  | .latchingRead _ _ => none
  | .registerWrite _ _ => none
  | .fabricRequest _ _ => none
  | .collectivePeerMessage _ _ _ => none
  | .contextCreation _ _ => none
  | .contextDestruction _ => none
  | .poolConfiguration _ _ _ => none
  | .powerLoss _ => none
  | .imageUpdate _ => none
  | .recoveryImage _ => none
  | .svcRequestRoom _ => none

/-- The instruction the decoder reads from an instruction whose bits are `w`, numbered as the opcode table numbers them.
Every instruction is one 32-bit word, stored little-endian (R237); bits above the row's `nbits` are 0. A row without
bits (an event) has no word. -/
def decodeTableWord (nbits w : Nat) : Option Instr :=
  if nbits = 0 then none
  else (decodeBytes (bytesOfWord (BitVec.ofNat 32 (w % 2 ^ nbits)))).map Prod.fst

end Sys2Proof
end

