-- ==== Sys2Proof/Machine/Causes.lean ====
section
/-!
DEFINITION. Sys2Proof/Machine/Causes.lean: the cause codes of R195 and the scope codes of R82.
-/
namespace Sys2Proof.Machine.Cause

/-- R195, 0x01–0x04. -/
def brk : Byte := 0x01
def watch : Byte := 0x02
def step : Byte := 0x03
def xtrigHalt : Byte := 0x04
/-- R195, 0x10–0x1C. -/
def illegalOpcode : Byte := 0x10
def illegalOperand : Byte := 0x11
def illegalDest : Byte := 0x12
def wrongFront : Byte := 0x13
def priv : Byte := 0x14
def modeInvalid : Byte := 0x15
def bundleInvalid : Byte := 0x16
def joinOverflow : Byte := 0x17
def divZero : Byte := 0x18
def fpTrap : Byte := 0x19
def regBudget : Byte := 0x1A
def handlerNest : Byte := 0x1B
def paramUnbound : Byte := 0x1C
/-- R195, 0x40–0x4C. -/
def pageNotPresent : Byte := 0x40
def pageWrite : Byte := 0x41
def pageExec : Byte := 0x42
def pageScopeInvalid : Byte := 0x43
def align : Byte := 0x44
def localRange : Byte := 0x45
def addrNoncanon : Byte := 0x46
def lateStore : Byte := 0x47
def fenceLost : Byte := 0x49
def hostAbort : Byte := 0x4A
def landOverflow : Byte := 0x4B
def pageFormat : Byte := 0x4C
/-- R195, 0x80–0x88. -/
def tileRedefine : Byte := 0x80
def tileStale : Byte := 0x81
def tileKilledWait : Byte := 0x82
def tileShape : Byte := 0x83
def tileNamesExhausted : Byte := 0x84
def cardInvalid : Byte := 0x85
def cardFault : Byte := 0x86
def descInvalid : Byte := 0x87
def tileSpace : Byte := 0x88
/-- R195, 0xA0–0xB4. -/
def queueUnbound : Byte := 0xA0
def queueKind : Byte := 0xA1
def queueClosedPush : Byte := 0xA2
def queueConfig : Byte := 0xA3
def assumeTableFull : Byte := 0xB0
def assumeBadId : Byte := 0xB1
def guardNest : Byte := 0xB2
def guardCapacity : Byte := 0xB3
def assumeRevoked : Byte := 0xB4
/-- R195, 0xC0–0xE4. -/
def budgetOverrun : Byte := 0xC0
def drainOverrun : Byte := 0xC1
def forcedReset : Byte := 0xC2
def watchdog : Byte := 0xC3
def workInvalid : Byte := 0xC4
def graphInvalid : Byte := 0xC5
def linkDown : Byte := 0xD0
def linkRetrainTimeout : Byte := 0xD1
def peerAbort : Byte := 0xD2
def cmdInvalid : Byte := 0xD3
def eccCorrected : Byte := 0xE0
def eccUncorrectedReg : Byte := 0xE1
def eccUncorrectedMem : Byte := 0xE2
def sramParityTile : Byte := 0xE3
def securityAlarm : Byte := 0xE4
/-- TRAP #n (R283). -/
def trap (n : BitVec 4) : Byte := 0xF#4 ++ n

end Sys2Proof.Machine.Cause

namespace Sys2Proof.Machine.Scope

/-- The scope codes of R82. -/
def core : Nat := 0
def cluster : Nat := 1
def die : Nat := 2
def package : Nat := 3
def fabric : Nat := 4
def host : Nat := 5
def stream : Nat := 6

end Sys2Proof.Machine.Scope
end

