-- ==== Sys2Proof/Config.lean ====
section
/-!
DEFINITION. Sys2Proof/Config.lean: what is fixed for the machine (R2, R14–R18) and the free values: values that the
spec does not give although the step that makes them goes on. A free value is an opaque constant with no body, so no
proof can use a number for it (notes/assumptions names each one).
-/
namespace Sys2Proof.Config

/-- Cores of the package (R2, R14). -/
def cores : Nat := 672
/-- Cores of a cluster (R14). -/
def coresPerCluster : Nat := 12
/-- Clusters of the package (R14). -/
def clusters : Nat := 56
/-- Clusters of a die (R14). -/
def clustersPerDie : Nat := 14
/-- Compute dies (R14). -/
def dies : Nat := 4
/-- Team slots of a core; slot 16 is the firmware slot (R16, R164). -/
def teamSlots : Nat := 16
/-- The firmware slot's number, as trace packets write it (R164). -/
def firmwareSlot : Nat := 16
/-- Register blocks of a core's lane register file (R23). -/
def registerBlocks : Nat := 512
/-- Bytes of a core's local store (R16). -/
def localStoreBytes : Nat := 0x100000
/-- Lines of 128 bytes that a home slice's 6 MiB hold (R2, R94). -/
def sliceLines : Nat := 0xC000
/-- Lines of an L1 (R90). -/
def l1Lines : Nat := 2048
/-- Bundles of 16 bytes that a core's 64 KiB instruction cache holds (R74). -/
def icacheBundles : Nat := 4096
/-- Bytes of a slice of the Garnet stack above a core; there are 64, one for each matrix column (R16). -/
def garnetSliceBytes : Nat := 0x10000
/-- Home slices of a die (R2, R18). -/
def slicesPerDie : Nat := 32
/-- Bytes of a spill area that are reserved for save images, for each cluster of the context (R98). -/
def spillReserve : Nat := 20 * 0x100000
/-- Bytes of HBM that one die owns (R76). -/
def hbmPerDie : Nat := 0x4800000000
/-- Bytes of HBM of the package (R76). -/
def hbmBytes : Nat := 4 * hbmPerDie
/-- Arithmetic cycles in one nanosecond: the clock is 3.0 GHz (R2). -/
def cyclesPerNs : Nat := 3

/-- DESIGN CHOICE (log 5): lanes of the firmware slot's agent, which the spec does not give. -/
def firmwareLanes : Nat := 32
/-- DESIGN CHOICE (log 5): v registers of the firmware slot, held outside the lane register file (R16). -/
def firmwareVRegs : Nat := 128
/-- DESIGN CHOICE (log 5): s registers of the firmware slot; FWCALL needs s30 and s31 (R381). -/
def firmwareSRegs : Nat := 32

/-- FREE VALUE (log 6): an undefined byte; the first argument is the counter value that tells one undefined content
from another, the second its address. Undefined are a group's local-store range at admission (R87) and a failed
collective's destination (R431). -/
opaque freeByte : Nat → Nat → Byte
/-- FREE VALUE (log 7): a choice the spec leaves to the device (an L1 victim, a tier, an order of transfers); the
argument is a counter that the step advances. -/
opaque freeChoice : Nat → Nat
/-- FREE VALUE (log 22): how often an event that the spec counts and whose occurrences it leaves to the device (fills joined,
slice misses, bursts, flits: R207, R208) comes about in a cycle; the first argument is the cycle, the second names the unit
and what its selector asks for. -/
opaque freeEvents : Nat → Nat → Nat
/-- FREE VALUE (log 8): which of the codes within R307's bound the device returns for a special function outside its
exact results: function number, format, source code. A Z7 returns the same bits for the same source every time, so it is a
function of these alone. -/
opaque specialChoice : Nat → Nat → Nat → Nat
/-- FREE VALUE (log 9): whether an image's SLH-DSA-SHA2-128s signature verifies under a key the fuses name (R435). -/
opaque signatureVerifies : List Byte → Bool
/-- FREE VALUE (log 9): the SHA-256 measurement of an image or overlay (R436). -/
opaque measurement : List Byte → BitVec 256
/-- FREE VALUE (log 9): the attestation signature over the measurements (R436). -/
opaque attestationSignature : List (BitVec 256) → List Byte
/-- FREE VALUE (log 11): the lanes that the faulting-lane mask of a trap holds (R55, R72) where the spec names none for
its cause; the argument is a counter that the step advances. -/
opaque freeLanes : Nat → LaneMask
/-- FREE VALUE (log 12): where a context's service-call request ring of 1,024 entries lies in host memory, in entries of 64
bytes; the spec gives it HOST-scope memory and no address. -/
opaque requestRing : Nat → Nat
/-- FREE VALUE (log 12): where a context's service-call reply ring of 65,536 entries lies in host memory, in entries of 16
bytes; the spec gives it HOST-scope memory and no address. -/
opaque replyRing : Nat → Nat
/-- FREE VALUE (log 10): a byte that host memory or a peer holds where the spec gives it no value. -/
opaque remoteByte : Nat → Nat → Byte

end Sys2Proof.Config
end

