-- ==== Sys2Proof/Machine/Sparse.lean ====
section
/-!
DEFINITION. Sys2Proof/Machine/Sparse.lean: the one container of the model, a list of (key, value) pairs in rising key
order, and its two uses: a table of records (`Tab`), and storage in which an unlisted key reads as a default and an
entry equal to that default is never listed (memory, register files). Equal contents are equal lists.
-/
namespace Sys2Proof.Machine

/-- A table keyed by numbers, in strictly rising key order. -/
abbrev Tab (α : Type) := List (Nat × α)

/-- The value at `k`, if the table lists one. -/
def Tab.get? {α : Type} : Tab α → Nat → Option α
  | [], _ => none
  | (j, a) :: t, k => if j = k then some a else Tab.get? t k

/-- The table with `a` at `k`, in place of what stood there. -/
def Tab.put {α : Type} : Tab α → Nat → α → Tab α
  | [], k, a => [(k, a)]
  | (j, b) :: t, k, a =>
    if j = k then (k, a) :: t
    else if k < j then (k, a) :: (j, b) :: t
    else (j, b) :: Tab.put t k a

/-- The table without an entry at `k`. -/
def Tab.del {α : Type} : Tab α → Nat → Tab α
  | [], _ => []
  | (j, b) :: t, k => if j = k then Tab.del t k else (j, b) :: Tab.del t k

/-- The value at `k`, or `d` where none is listed. -/
def Tab.getD {α : Type} (t : Tab α) (k : Nat) (d : α) : α := (t.get? k).getD d

/-- Change the value at `k`, if one is listed. -/
def Tab.modify {α : Type} (t : Tab α) (k : Nat) (f : α → α) : Tab α :=
  match t.get? k with
  | some a => t.put k (f a)
  | none => t

/-- Write in the canonical form: writing the default removes the entry. -/
def Tab.store {α : Type} [DecidableEq α] (d : α) (t : Tab α) (k : Nat) (a : α) : Tab α :=
  if a = d then t.del k else t.put k a

/-- The canonical form: keys strictly rising, no entry equal to the default `d`. -/
def Tab.canonical {α : Type} [DecidableEq α] (d : α) : Tab α → Bool
  | [] => true
  | (k, a) :: t => decide (a ≠ d) && (match t with | [] => true | (j, _) :: _ => decide (k < j)) && Tab.canonical d t

/-- The smallest key not listed, trying 0, 1, … up to `fuel` keys. -/
def Tab.freshFrom {α : Type} (t : Tab α) : Nat → Nat → Nat
  | 0, k => k
  | fuel + 1, k => match t.get? k with | none => k | some _ => Tab.freshFrom t fuel (k + 1)

/-- Storage of bytes (Host.Cell is a Nat × BitVec 8). -/
abbrev Memory := List Host.Cell

/-- What a byte of memory that nothing has written reads as. DESIGN CHOICE (log 3): 0; the spec gives HBM, host memory
and the flash no contents after power-on. -/
def Memory.unlisted : Byte := 0

/-- One byte of memory. -/
def Memory.read (m : Memory) (a : Nat) : Byte := Tab.getD m a Memory.unlisted

/-- Memory with the byte `b` at `a`, in canonical form. -/
def Memory.write (m : Memory) (a : Nat) (b : Byte) : Memory := Tab.store Memory.unlisted m a b

/-- The canonical form of memory: addresses strictly rising, no entry equal to what an unlisted address reads as. -/
def Memory.wf (m : Memory) : Bool := Tab.canonical Memory.unlisted m

/-- Memory after several byte writes, the first of the list first. -/
def Memory.writeList (m : Memory) (bs : List (Nat × Byte)) : Memory := bs.foldl (fun m p => m.write p.1 p.2) m

end Sys2Proof.Machine
end

