-- ==== Sys2Proof/Machine/State.lean ====
section
/-!
DEFINITION. Sys2Proof/Machine/State.lean: everything the spec gives the machine, as plain data (the inventories R49,
R74, R141, R166 and R197, and what the other chapters name), and the machine right after reset.
A field whose comment says "MODEL" is the model's own bookkeeping (log 1): which step comes next, serial numbers, the
counter that free values are applied to.
-/
namespace Sys2Proof.Machine

/-! ## Paths and teams -/

/-- What a parked path waits for (R46, R261). Numbers name objects of the tables below. -/
inductive Wait where
  | queue (clu q serial : Nat)
  | flags (mask : BitVec 12)
  | sleep (until_ : Nat)
  | join (rec_ : Nat)
  | barrier (b gen : Nat)
  | claim
  | spawn
  /-- On a condition of R80: the level of the bad entry, and the lanes at fault. -/
  | fault (level : Nat) (lanes : Option LaneMask)
  | tag (t : Nat)
  | arrival (addr : Nat) (gen : Byte)
  | signal (pa : Nat) (cond : Nat) (v : DWord)
  | tracker
  | card (id : Nat)
  | tile (name : Nat)
  | talloc
  | taskQueue
  | release (id : Nat)
  | stamp (c : Clock)
  | revoke (obj : Nat)
  | translations (ctx : Nat) (lo hi : Nat)
  | commit
  | ring (q : Nat)
  | fwcall
  | overlay (n : Nat)
  | registered
  | saving
  | posted
  | atomic
  | jobRoom (die cls : Nat)
  | line (die line : Nat)
  | link (l : Nat)
  | postedRoom
  /-- On a host request without a completion, until its timeout (R427). -/
  | completion (until_ : Nat)
  deriving DecidableEq, Repr

/-- Whether a path issues when its bundle lets it, or waits. -/
inductive PathSt where
  | ready
  | parked (w : Wait)
  deriving DecidableEq, Repr

/-- The path's h-bank window (R54). -/
inductive Win where
  | closed
  | trap
  | fallback
  deriving DecidableEq, Repr

/-- One instruction stream of a team (R39). `pc` is the address of the next slot; bits [3:0] = 0 name a bundle about
to be entered at slot 1. `chain` lists the open split records that enclose the path, innermost first, so its length is
the path's depth (R40). -/
structure Path where
  pc      : Nat
  mask    : LaneMask
  chain   : List Nat
  st      : PathSt
  /-- MODEL: how far an instruction that waits has gone (a step taken before its wait, R261), or its arrival order. -/
  prog    : Nat
  /-- The path has entered the bundle of `pc`: control word checked, wait mask tested (R240, R241). -/
  entered : Bool
  /-- Where a path parked at a JOIN or a CLAIM, or at a FWCALL that loads an overlay, goes on (R41, R280, R381); that
  instruction's SETF field, and whether its bundle makes the path give way after it (R238, R261). -/
  waitPc  : Nat
  waitSetf : Nat
  waitYield : Bool
  /-- The cycle after the last pass of the path's previous instruction (R242), from which a DIST of 0 lets it issue; 0 where
  every distance counts as elapsed. -/
  lastPass : Nat
  /-- Cycle from which the path's waiting time w counts (R401). -/
  since   : Nat
  /-- Cycle up to which the stall of a slot held in issue has been counted, while one is held (R68). -/
  heldFrom : Option Nat
  /-- A YIELD, or a bundle's YIELD bit, gives way before the path's next instruction (R238, R273). -/
  yielded : Bool
  win     : Win
  /-- The instruction address whose breakpoint is passed over once after RFT (R441). -/
  bpSkip  : Option Nat
  /-- The watchpoint passed over for one issue after RFT (R442). -/
  wpSkip  : Option Nat
  /-- The address and watchpoint of the WATCH trap whose handler the path runs (R442), as 4 × address + number. -/
  hitAt   : Option Nat
  /-- Delay debt of a causal trial, in cycles (R212). -/
  debt    : Nat
  /-- The path owes a SYNC packet at its next issue (R165). -/
  needSync : Bool
  /-- Packets written in the die's stream, and device time, at the path's last SYNC (R165). -/
  syncPackets : Nat
  syncTime    : Nat
  deriving DecidableEq, Repr

/-- A split record (R40, R41): its join index and the path that owns it. -/
structure SplitRec where
  index : Nat
  owner : Nat
  deriving DecidableEq, Repr

/-- When an outstanding instruction completes (R198). -/
inductive Cond where
  | atCycle (c : Nat)
  | stores (ids : List Nat)
  | tag (t : Nat)
  | card (id : Nat)
  | tileDef (clu name gen : Nat)
  | tileStore (xfer : Nat)
  | svc (call : Nat)
  /-- WRIDX of a command queue has advanced past a packet (R373). -/
  | appended (q id : Nat)
  deriving DecidableEq, Repr

/-- An instruction issued and not complete (R63, R68): the flag it counts on (15 for none), the register blocks whose
write is pending, and when it completes. -/
structure Outst where
  id     : Nat
  flag   : Nat
  blocks : BitVec 22
  cond   : Cond
  deriving DecidableEq, Repr

/-- A cause that waits for the team's next instruction boundary (R416): the path it goes to, if it goes to one. -/
structure Deferred where
  cause  : Byte
  h1     : Word
  addr   : Nat
  path   : Option Nat
  /-- The lanes at fault, where the event names them (R162). -/
  lanes  : Option LaneMask
  deriving DecidableEq, Repr

/-- A landing-buffer tag that is not EMPTY (R66, R332): words per lane, the lanes recorded, and the data, keyed by
8 × lane + word, with the words that hold an uncorrectable error (R446). -/
structure LandTag where
  landed : Bool
  words  : Nat
  lanes  : LaneMask
  data   : Tab Word
  flaws  : List Nat
  deriving DecidableEq, Repr

/-- An entry of the guard stack (R185). `addr` and `path` are the AENTER's own address and path, for R189 and R55. -/
structure GuardEntry where
  obj      : Nat
  fallback : Nat
  mode     : BitVec 16
  preds    : Tab LaneMask
  mask     : LaneMask
  addr     : Nat
  path     : Nat
  /-- The open split records that enclosed the path at the AENTER, which an abort leaves open. -/
  chain    : List Nat
  deriving DecidableEq, Repr

/-- One lane's store, with its address translated (R326). -/
structure LaneStore where
  lane  : Nat
  va    : Nat
  pa    : Nat
  scope : Nat
  bytes : List Byte
  deriving DecidableEq, Repr

/-- What is left of an instruction that has read its operands and begun: the lanes' stores that wait for a posted-store
entry (R419) with the serial numbers of those that went, or the atomics not yet performed (R113) with the old values by
lane of those that were, the stamps they read (R118), the lanes whose bytes could not be read (R97), and the queues that it has popped
and will push to, which nothing else moves meanwhile (R149). -/
structure Rest where
  stores : List LaneStore
  ids    : List Nat
  left   : Nat
  olds   : Tab Nat
  stamp  : Clock
  bad    : LaneMask
  locks  : List Nat
  deriving DecidableEq, Repr

/-- Where a team's state stands (R46). -/
inductive Place where
  | resident
  | savedBySvc (call : Nat)
  | saved
  | ended
  deriving DecidableEq, Repr

/-- A team (R20, R49): its registers and everything that belongs to its slot. -/
structure Team where
  ctx     : Nat
  core    : Nat
  slot    : Nat
  group   : Nat
  index   : Nat
  role    : Nat
  xfront  : Bool
  fw      : Bool
  lanes   : Nat
  vcount  : Nat
  scount  : Nat
  /-- PRIO of the launching record's pool (R400), and that pool, keyed 64 × context + pool. -/
  base    : Nat
  pool    : Nat
  place   : Place
  /-- Lanes 0 … count − 1 carry records of their own (R35, R45); the rest never did. -/
  carried : Nat
  /-- Work identifiers by lane, and the six field widths (R30). -/
  workIds : Tab DWord
  widths  : List Nat
  /-- RAND stream states by lane (R223). -/
  rng     : Tab DWord
  /-- v registers, keyed 1024 × register + lane; s registers; p1–p15; the h bank. Unlisted reads as 0. -/
  v       : Tab Word
  s       : Tab Word
  p       : Tab LaneMask
  h       : Tab Word
  mode    : BitVec 16
  status  : BitVec 16
  pscope  : Nat
  faultmask : LaneMask
  hcause  : Word
  hflt    : LaneMask
  trapen  : Word
  cycleh  : Word
  timeh   : Word
  /-- INTERLOCK_STALLS (R72). -/
  stalls  : Word
  /-- Port bindings: queue number by port; unlisted is unbound (R53). -/
  ports   : Tab Nat
  tags    : Tab LandTag
  guard   : List GuardEntry
  /-- Buffered bytes of the guard lines, by physical address, and by line its scope and the virtual address last written
  there (R92). -/
  gbytes  : Tab Byte
  gscopes : Tab (Nat × Nat)
  paths   : Tab Path
  recs    : Tab SplitRec
  outst   : List Outst
  /-- ARRIVED bits of barriers 0–7 (R275). -/
  arrived : BitVec 8
  deferred : List Deferred
  /-- PC of the instruction that removed the first faulted lane (R171). -/
  firstFault : Option Nat
  /-- The team has written a TERMINATED exit record (R172). -/
  terminated : Bool
  /-- Stamp of the values returned to the team's loads, entrywise maximum (R125). -/
  loaded  : Clock
  /-- Serial numbers of the team's writes not yet known complete (R127). -/
  writes  : List Nat
  /-- Floating-point flags that instructions in their passes will set, each with the cycle of the result (R61), and the
  %status bits that hardware has set in this cycle (R59). -/
  landing : List (Nat × BitVec 16)
  fresh   : BitVec 16
  /-- MODEL: by path, what is left of an instruction that has begun and waits (R113, R419). -/
  rests   : Tab Rest
  /-- Registers with an uncorrectable error that no write has cleared (R446): operand code and lane, 0 for a uniform one. -/
  flaws   : List (Nat × Nat)
  /-- Nothing of the team issues but what it has begun: its save has started (R64, R408); `leaving` where that is a drain
  save at a YIELD (R273). -/
  stopped : Bool
  leaving : Bool
  /-- What its save by SVC wrote to the spill area's reserve (R98, R282): an address and the bytes. -/
  reserve : Nat × List Byte
  deriving DecidableEq, Repr

/-- The instruction that a front end's passes belong to (R19): the first cycle after them, the bank reads that each makes
(R70), and its context. -/
structure Sweep where
  stop  : Nat
  reads : Nat
  ctx   : Nat
  deriving DecidableEq, Repr

/-- Which instruction the machine is about to run, set by the front end (MODEL): team, path, instruction address,
word, and what the control word gives the slot (R238). `last` says no later slot of the bundle holds an instruction. -/
structure Focus where
  team : Nat
  path : Nat
  addr : Nat
  setf : Nat
  yieldBit : Bool
  last : Bool
  deriving DecidableEq, Repr

/-! ## Memory and coherence -/

/-- State of an L1 line (R105). -/
inductive L1St where
  | s
  | n
  deriving DecidableEq, Repr

/-- An L1 line that is not in state I (R90, R105): bytes by offset in the line, the word masks, the WT attribute, the
time its oldest dirty word became dirty, the unacknowledged write-through stores that pin it, with the words each has
written, the clock of its die as the latest of its dirty stores issued (R115), the pinned words that an invalidation has
met, and by word the stamp that its value was read with (R118). -/
structure L1Line where
  st    : L1St
  wt    : Bool
  valid : BitVec 32
  dirty : BitVec 32
  data  : Tab Byte
  dirtyAt : Nat
  pins  : List (Nat × BitVec 32)
  scope : Nat
  ctx   : Nat
  stamp : Clock
  stale : BitVec 32
  stamps : Tab Clock
  deriving DecidableEq, Repr

/-- A store that waits in the L1 for its narrow grant (R105); `stamp` is its die's clock as it issued (R115). -/
structure WaitingStore where
  id    : Nat
  line  : Nat
  bytes : List (Nat × Byte)
  ctx   : Nat
  scope : Nat
  stamp : Clock
  deriving DecidableEq, Repr

/-- A sharer pointer (R102): a core of the home die, or a guest die. -/
inductive Sharer where
  | core (n : Nat)
  | die (d : Nat)
  deriving DecidableEq, Repr

/-- STATE of a directory entry (R102). -/
inductive DirSt where
  | u
  | s
  | n
  deriving DecidableEq, Repr

/-- A directory entry (R102): the sharers in pointer order in exact mode, or the cluster vector in coarse mode;
`narrow` marks those of them that hold a narrow grant (state N). -/
structure DirEntry where
  st     : DirSt
  w      : Bool
  coarse : Bool
  ptrs   : List Sharer
  cvec   : BitVec 56
  narrow : List Sharer
  deriving DecidableEq, Repr

/-- A guest copy of a line on another die (R107), which acts as the directory of its die's own cores: its valid words, by
word the stamp that came with it (R118), and an entry whose sharers are cores; the entry's state N is GN, any other G. -/
structure GuestCopy where
  valid  : BitVec 32
  data   : Tab Byte
  stamps : Tab Clock
  dir    : DirEntry
  deriving DecidableEq, Repr

/-- An entry of a die's apply queue (R116, R117). An invalidation carries the die its write issued on (R115), the span,
the core whose L1 wrote it, the context it is for (64 for none), and whether a marker of that die counts it. -/
inductive ApplyEnt where
  | inval (origin : Nat) (stamp : Clock) (line first count : Nat) (writer : Option Nat) (ctx : Nat) (counted : Bool)
  | marker (origin : Nat) (n : BitVec 48) (stamp : Clock) (count : Nat)
  deriving DecidableEq, Repr

/-- A watch entry (R184). `slice` is 32 × die + slice number. -/
structure WatchEntry where
  slice : Nat
  value : Bool
  obj   : Nat
  first : Nat
  last  : Nat
  deriving DecidableEq, Repr

/-- A breaking request held at its home slice (R113), the objects it waits for, and the write-class requests of the
line that queue behind it, in order of arrival. One of a commit group that waits for no object has reserved its line
(R378). -/
structure Held where
  line   : Nat
  req    : Instr
  objs   : List Nat
  behind : List Instr
  deriving DecidableEq, Repr

/-- A Beryl object (R181). -/
structure Obj where
  armed : Bool
  kind  : Nat
  ctx   : Nat
  base1 : BitVec 56
  len1  : Nat
  arg   : DWord
  len2  : Nat
  deriving DecidableEq, Repr

/-- A revocation in progress (R188): the registry's die, the cores that have not acknowledged, and what waits for it:
a held request, or none for AREVK, ADROP and TINV; whether the object is freed at the end (ADROP). -/
structure Revoke where
  die    : Nat
  cores  : List Nat
  done   : Bool
  free   : Bool
  deriving DecidableEq, Repr

/-- A cached leaf translation (R83). -/
structure TlbEntry where
  ctx   : Nat
  base  : Nat
  size  : Nat
  pa    : Nat
  w     : Bool
  x     : Bool
  scope : Nat
  d     : Bool
  deriving DecidableEq, Repr

/-- A write that is issued and not performed: the die it issued on, and whether an aperture's home slice has accepted it
(R116). -/
structure OpenWrite where
  die    : Nat
  posted : Bool
  deriving DecidableEq, Repr

/-- An entry of a core's posted-store table (R419). -/
structure Posted where
  addr    : Nat
  slot    : Nat
  serial  : Nat
  index   : Nat
  role    : Nat
  ctx     : Nat
  work    : DWord
  va      : Nat
  /-- The pool of the team's record, whose exit ring a late fault reports to (R171). -/
  pool    : Nat
  team    : Nat
  store   : Nat
  /-- The Fjofin link it left by; none for the host. -/
  link    : Option Nat
  deriving DecidableEq, Repr

/-! ## Cluster objects -/

/-- A cluster queue's entry (R143). `serial` (MODEL) counts the pushes, pops, closings, drainings and freeings that
wake parked paths (R151). -/
structure Queue where
  kind   : Nat
  closed : Bool
  core   : Nat
  base   : Nat
  depth  : Nat
  head   : Nat
  tail   : Nat
  count  : Nat
  feed   : Bool
  owner  : Nat
  deriving DecidableEq, Repr

/-- STATE of a tile name (R176). -/
inductive NameSt where
  | free
  | pending
  | defined
  | dying
  deriving DecidableEq, Repr

/-- The shape copied at definition (R174). Rows and columns are counts. -/
structure Shape where
  fmt    : Nat
  orient : Bool
  rows   : Nat
  cols   : Nat
  scale  : Nat
  deriving DecidableEq, Repr

/-- What defines a name while its definition is in flight (R177): a TLOAD of a footprint, a TDEF's image, or a tile
task; `held` marks a completed definition held because it is provisional, `failed` one whose failure is on its way
(R179). -/
inductive Defn where
  | load (team md td : Nat) (conv : Bool) (desc tdesc : BitVec 128) (va : Nat)
  | image (shape : Shape) (bytes : List Byte)
  | task (id : Nat)
  | held (shape : Shape) (bytes : List Byte)
  | failed (cause : Byte)
  deriving DecidableEq, Repr

/-- A tile name's entry (R176), with the value it stands for as the dense memory image under its shape (R173). -/
structure Name where
  st     : NameSt
  gen    : Nat
  tier   : Nat
  /-- Where its tier holds the value: the core of an accumulator bank or of a Garnet stack, 2^20 × core + offset in the
  local-store pool, the physical address in the spill area (0 while its bytes stand in a save image's reserve). -/
  base   : Nat
  fcause : Byte
  reads  : Nat
  owner  : Nat
  prov   : Bool
  /-- The team whose region made the definition, while PROV is 1 (R177). -/
  definer : Nat
  defn   : Option Defn
  shape  : Shape
  /-- The bytes, unless the pool or the spill area holds them. -/
  value  : List Byte
  hint   : Nat
  deriving DecidableEq, Repr

/-- A copy of a B value staged in the Garnet stack above a core (R96): slice n holds its column n. `bad` marks an
uncorrectable error that SECDED will find in it. -/
structure Staged where
  name   : Nat
  shape  : Shape
  img    : List Byte
  bad    : Bool
  deriving DecidableEq, Repr

/-- State of a tile-task record (R365). -/
inductive TaskSt where
  | waiting
  | ready
  | running (core : Nat)
  | paused
  | cancelled
  deriving DecidableEq, Repr

/-- A tile-task record (R365) and its accumulator (R368), cell (m, n) keyed m × columns + n. -/
structure Task where
  clu    : Nat
  d      : BitVec 16
  c      : BitVec 16
  a      : BitVec 16
  b      : BitVec 16
  ctl    : Word
  team   : Nat
  slot   : Nat
  core   : Nat
  /-- The team's context and its group's serial. -/
  ctx    : Nat
  group  : Nat
  serial : Nat
  step   : Nat
  st     : TaskSt
  /-- Cause of failure, 0 if none. -/
  cause  : Byte
  addr   : Nat
  region : Bool
  fp64   : Bool
  acc    : List DWord
  /-- The names whose READS the record holds up (R177). -/
  reads  : List Nat
  deriving DecidableEq, Repr

/-- A TSTORE whose engine transfer is in flight (R358). -/
structure TileStore where
  clu    : Nat
  name   : Nat
  team   : Nat
  path   : Nat
  /-- The team's context, through whose translations the engine writes. -/
  ctx    : Nat
  desc   : BitVec 128
  va     : Nat
  stores : List Nat
  started : Bool
  deriving DecidableEq, Repr

/-- An EDF entry (R204); times in device ns. RUN and WORK are derived from the cluster. -/
structure Edf where
  ctx      : Nat
  valid    : Bool
  period   : Nat
  budget   : Nat
  remain   : Nat
  deadline : Nat
  drain    : Nat
  carry    : Nat
  prog     : Tab Word
  deriving DecidableEq, Repr

/-- A running causal trial (R212). -/
structure Trial where
  ctx    : Nat
  start  : Nat
  stop   : Nat
  d      : Nat
  k      : Nat
  t      : Nat
  record : Nat
  delay  : Bool
  began  : Nat
  p0     : Nat
  e0     : Nat
  base   : Nat
  n      : Nat
  deriving DecidableEq, Repr

/-- What a record was appended for: a graph node, a WORK packet by command queue and index, or an instruction. -/
inductive Origin where
  | code
  | node (n : Nat)
  | packet (q idx : Nat)
  deriving DecidableEq, Repr

/-- A launch header (R168) as read, and the record or records that launch it. -/
structure Launch where
  ctx    : Nat
  pool   : Nat
  entry  : Nat
  header : BitVec 1024
  /-- For one record per lane: the records by lane; for one record per group: one record (R35, R36). -/
  recs   : List (BitVec 512)
  /-- MODEL: for each record, what it was appended for (R43, R158). -/
  srcs   : List Origin
  level  : Nat
  arrival : Nat
  deriving DecidableEq, Repr

/-- A forming team (R35). -/
structure Forming where
  clu     : Nat
  launch  : Launch
  opened  : Nat
  lanes   : Nat
  deriving DecidableEq, Repr

/-- An admitted group (R28, R275): its teams, local ranges by core, windows, tile window, barriers (COUNT by number and
generation serial), register pools by core (R27) and parked CLAIMs in order as team, path and k (R280), and the record it counts for. -/
structure Group where
  ctx    : Nat
  teams  : List Nat
  ranges : Tab Nat
  len    : Nat
  windows : Tab (Nat × Nat)
  tiles  : Nat
  counts : Tab Nat
  gens   : Tab Nat
  blocks : Tab Nat
  claims : List (Nat × Nat × Nat)
  crew   : Bool
  pool   : Nat
  /-- The whole group counts as one record (R45). -/
  whole  : Bool
  srcs   : List Origin
  saved  : Bool
  deriving DecidableEq, Repr

/-- A cluster (R17). -/
structure Cluster where
  queues  : Tab Queue
  /-- MODEL: by queue number, a count of the events that wake its parked paths (R151). -/
  qserial : Tab Nat
  names   : Tab Name
  /-- The free list (R175): names `fresh` … 4095, which were never taken, then `freed` in the order they became free. -/
  fresh   : Nat
  freed   : List Nat
  /-- Paths parked in TALLOC, in order (R175). -/
  tallocs : List (Nat × Nat)
  groups  : Tab Group
  /-- Groups admitted since reset (R56). -/
  admitted : Nat
  waiting : List Launch
  edf     : Tab Edf
  edfSel  : Word
  /-- The EDF entry with RUN = 1. -/
  running : Option Nat
  /-- Device time since which the running entry's REMAIN falls from its stored value (R205). -/
  runSince : Nat
  stopReq : Bool
  /-- Device time at which the 50 µs save timer runs out, and at which REMAIN reached 0 (R408). -/
  saveTimer : Option Nat
  /-- MODEL: the contexts whose save a CTXS has begun here (R385, R408). -/
  saving  : List Nat
  overrun : Option Nat
  /-- Tensor descriptors, keyed 64 × context + id (R173). -/
  tdesc   : Tab (BitVec 128)
  tlb     : List TlbEntry
  trial   : Option Trial
  /-- By feed queue: the records appended and not wholly popped, as pool, origin and words left (R45). -/
  feeds   : Tab (List (Nat × Origin × Nat))
  deriving DecidableEq, Repr

/-! ## Engines, graphs, host -/

/-- Which card stream a card belongs to (R136): a team's, or a host command queue's; a graph node's card has none of
its own, and stands alone. -/
inductive Stream where
  | team (id : Nat)
  | queue (q : Nat)
  | node (ctx node : Nat)
  deriving DecidableEq, Repr

/-- State of a card in its tracker (R194): `faulted` waits for an agent (R86), `ending` has transferred everything or
failed and has not completed, `failing` ends once its team is restored, and `done` has left the tracker and keeps its status for
its team. -/
inductive CardSt where
  | waiting
  | running
  | paused
  | faulted
  | ending (status : Byte)
  | failing (status : Byte)
  | done (status : Byte)
  deriving DecidableEq, Repr

/-- A job card in a tracker (R192, R194): its 128 bytes, where it was submitted, the order in its stream, how far
its transfers have come, and the bytes read that make no whole word of the destination yet (R137). -/
structure Card where
  stream : Stream
  ctx    : Nat
  clu    : Nat
  core   : Nat
  base   : Nat
  len    : Nat
  arrivalAddr : Nat
  addr   : Nat
  img    : BitVec 1024
  order  : Nat
  st     : CardSt
  offset : Nat
  buf    : List Byte
  heard  : Tab (List Byte)
  began  : Nat
  stores : List Nat
  /-- The host packet the card is for, by command queue and index. -/
  packet : Option (Nat × Nat)
  deriving DecidableEq, Repr

/-- A started host packet that has not completed (R157); one that has aborted its queue waits for the stores of its abort list
(R158), by their serial numbers. -/
structure Started where
  index  : Nat
  header : DWord
  body   : BitVec 512
  done   : Bool
  status : Byte
  appended : Nat
  aborted : Option (List Nat)
  deriving DecidableEq, Repr

/-- A move of WRIDX on which the front end does not act yet (R373, R425): a doorbell's value, or the step past a packet that SUBM
appends, with the stores that must be performed before it. -/
structure Bell where
  id     : Nat
  value  : Option Word
  stores : List Nat
  deriving DecidableEq, Repr

/-- A host command queue's descriptor (R155), its started packets, and the moves of WRIDX that wait, in order. -/
structure CmdQueue where
  base    : BitVec 56
  size    : Nat
  cq      : Nat
  ctx     : Nat
  /-- 0 DISABLED, 1 ACTIVE, 2 ABORTED. -/
  st      : Nat
  abtBase : BitVec 56
  wridx   : Word
  rdidx   : Word
  started : List Started
  bells   : List Bell
  deriving DecidableEq, Repr

/-- A completion queue's descriptor (R159), the entries waiting for room (R160), and the pending entries' count and the
time the oldest of them was posted. -/
structure CplQueue where
  base   : BitVec 56
  size   : Nat
  vector : Nat
  cnt    : Nat
  timer  : Nat
  en     : Bool
  head   : Word
  tail   : Word
  waiting : List (BitVec 128)
  pendingN : Nat
  pendingSince : Nat
  deriving DecidableEq, Repr

/-- A graph node whose PRED has reached 0 and that has not retired (R43, R191): the virtual address of its block, its
block as read at dispatch, whether it waits for GDONE, the records or card its work still runs, the cause its work failed
with, and the GRAPH packet it reports to, by command queue and index. -/
structure Node where
  addr   : Nat
  /-- It has not dispatched: it waits for room in a ring (R33). -/
  due    : Bool
  block  : BitVec 512
  gdone  : Bool
  left   : Nat
  fail   : Byte
  packet : Option (Nat × Nat)
  deriving DecidableEq, Repr

/-- A firmware job (R383, R433). -/
structure Job where
  idx     : Nat
  w1      : Word
  w2      : Word
  w3      : Word
  claimed : Bool
  posted  : Nat
  reposted : Bool
  /-- The team and path, or the card, that the job is about. -/
  team    : Nat
  path    : Nat
  card    : Option Nat
  deriving DecidableEq, Repr

/-- An outstanding service call (R161, R162): the team, the calling path, the lanes, and by lane the number of its entry in the
context's reply ring. -/
structure SvcCall where
  team    : Nat
  path    : Nat
  number  : Nat
  lanes   : List Nat
  /-- The request entries are in the ring. -/
  sent    : Bool
  replies : Tab Nat
  posted  : Bool
  deriving DecidableEq, Repr

/-- State of a Fjofin link (R421). -/
inductive Link where
  | up
  | retraining (since : Nat)
  | down
  deriving DecidableEq, Repr

/-- A saved image of a context on a cluster (R409): the teams, groups, queues, names, forming teams and waiting groups
it holds (tasks, cards and TSTORE transfers stay in their tables, paused), and the local-store ranges, by core and base. `reserve` is
what the save wrote to the spill area's reserve: an address and the bytes (R98). -/
structure Image where
  teams   : List Nat
  queues  : List (Nat × Queue)
  /-- MODEL: the wake count of each saved queue when it was saved (R151, R152). -/
  serials : List (Nat × Nat)
  names   : List (Nat × Name)
  groups  : List (Nat × Group)
  waiting : List Launch
  forming : List Forming
  locals  : List (Nat × Nat × Tab Byte)
  reserve : Nat × List Byte
  deriving DecidableEq, Repr

/-- A core (R16). Team state stands in `State.teams`. -/
structure Core where
  l1      : Tab L1Line
  waiting : List WaitingStore
  tlb     : List TlbEntry
  /-- Instruction cache, bundles by physical address (R99). -/
  icache  : Tab (BitVec 128)
  /-- Constant cache (R89): words by physical address div 4. -/
  ccache  : Tab Word
  /-- By word of the constant cache, the stamp that came with it (R118). -/
  cstamps : Tab Clock
  /-- By local-store address of an arrival word, the stamp of the engine writes it has counted (R118). -/
  astamps : Tab Clock
  /-- Local store: bytes written; an unlisted byte is undefined under the epoch of its 128-byte block (R87). -/
  lstore  : Tab Byte
  lepoch  : Tab Nat
  csr     : Tab Word
  posted  : Tab Posted
  nextTag : Nat
  /-- Local-store words with an uncorrectable error that no write has cleared (R446), by address div 4. -/
  flaws   : List Nat
  /-- Overlay number loaded in the firmware store (R256). -/
  overlay : Option Nat
  /-- The Garnet stack above the core: 64 slices of 64 KiB, as the copies staged in them, oldest first (R16, R96). -/
  garnet  : List Staged
  deriving DecidableEq, Repr

/-- A die (R18). -/
structure Die where
  clock   : Clock
  apply   : List ApplyEnt
  /-- Invalidations of this die's open epoch sent to each other die (R116), and those that each other die's next marker
  counts and that are applied here (R117). -/
  sent    : Tab Nat
  applied : Tab Nat
  guests  : Tab GuestCopy
  csr     : Tab Word
  /-- Per-context CSRs of the die, keyed 4096 × context + number (R209, R413, R440). -/
  ctxCsr  : Tab Word
  /-- High halves latched by a read of the low half, by CSR number (R206, R208). -/
  latch   : Tab Word
  /-- Die performance counters' high halves (R208). -/
  dpmcHi  : Tab Word
  jobs    : Tab (List Job)
  nextJob : Nat
  /-- Contexts traced on this die (R387). -/
  traced  : BitVec 64
  lastPacket : Nat
  packets : Nat
  /-- Cached aperture entries (R428). -/
  apcache : Tab (BitVec 128)
  deriving DecidableEq, Repr

/-- A context (R167, R209): the entry firmware wrote, and its service-call and graph state. -/
structure Context where
  entry   : BitVec 512
  /-- Round-robin position by pool (R34). -/
  rr      : Tab Nat
  /-- Records of a pool by quiescence (R44): sent on and not ended. -/
  live    : Tab Nat
  calls   : Tab SvcCall
  nextCall : Nat
  nextSeq : Nat
  /-- The next entry of the reply ring (R141, R162). -/
  nextReply : Nat
  /-- Pools whose completion waits until the writes of their work are visible (R45, R170). -/
  completing : List Nat
  /-- Room left in the request ring, which the host frees (R161). -/
  room    : Nat
  requests : List (BitVec 512)
  nodes   : Tab Node
  /-- Source nodes (plus 1) of records in the rings, keyed 2^32 × pool + ring index (R43). -/
  origins : Tab Origin
  /-- Predecessor decrements in flight (R191), by request serial: the block's virtual address, and the GRAPH packet. -/
  decs    : Tab (Nat × Option (Nat × Nat))
  deriving DecidableEq, Repr

/-- A failure that a requester's next access to an aperture meets (R427, R428): whether to the fabric, the cause, and, for one that
only a timeout ends, when the request went out. -/
structure ApFail where
  who    : Requester
  fabric : Bool
  cause  : Byte
  late   : Bool
  sent   : Option Nat
  deriving DecidableEq, Repr

/-- The host side and the management controller (R424, R434–R438). -/
structure Mgmt where
  /-- BAR0 registers with no structure of their own, keyed 2^20 × function + offset. -/
  bar0    : Tab DWord
  cmdq    : Tab CmdQueue
  cplq    : Tab CplQueue
  /-- MSI-X interrupts raised, newest first: function and vector. -/
  msix    : List (Nat × Nat)
  /-- The bytes the last BAR2 read returned (R425). -/
  readData : List Byte
  report  : List Byte
  slotA   : FlashImage
  slotB   : FlashImage
  /-- The two 32-byte marker copies (R434). -/
  marker0 : List Byte
  marker1 : List Byte
  /-- The slot booted (true for B), the body of the image that runs (R436), and the marker copy chosen. -/
  booted  : Option Bool
  image   : List Byte
  chosen  : Bool
  fuseVersion : Nat
  eraseFuse : Bool
  keys    : Bool
  sigFails : Nat
  alarm   : Bool
  power   : Nat
  /-- Since when the conditions of PS1, PS3 and PS4 have held (R438). -/
  idleSince : Nat
  quietSince : Nat
  stillSince : Nat
  /-- The overlays of the firmware image, by number (R256). -/
  overlays : Tab (Tab (BitVec 128))
  /-- Fabric links 0–15 (R421), and the posted stores lost on each. -/
  links   : Tab Link
  lost    : Tab (List Nat)
  /-- Locations with an uncorrectable error not yet overwritten (R97, R446): physical addresses of 64-byte bursts. -/
  badBursts : List Nat
  corrected : Nat
  lastScrub : Nat
  /-- Peer memory as this device has written it through the fabric aperture, keyed 2^62 × PEER + 2^56 × PEERCTX + virtual address
  there (R428). -/
  peer    : Tab Byte
  lastFabric : Nat
  /-- Failures of aperture requests that their requesters have not met (R427). -/
  fails   : List ApFail
  /-- By Fjofin port, the stores of peers' writes that may not be performed yet; the answers sent, newest first (R429). -/
  inbound : Tab (List Nat)
  answers : List (Nat × PeerAnswer)
  deriving DecidableEq, Repr

/-- The step the outside world, or the order of the machine's agents, chooses next (MODEL): a front end of a core, an
event, one idle arithmetic cycle, or a write of the host to its own memory behind the host aperture (R426). -/
inductive Sched where
  | front (core : Nat) (x : Bool)
  | event (e : Instr)
  | idle
  | hostMemory (pa : Nat) (bytes : List Byte)
  deriving DecidableEq, Repr

/-- The machine. -/
structure State where
  /-- Arithmetic cycles since cold reset (R72). -/
  cycle   : Nat
  /-- MODEL: serial numbers of requests and objects. -/
  seq     : Nat
  /-- MODEL: the counter that free values are applied to. -/
  free    : Nat
  focus   : Option Focus
  agenda  : List Sched
  /-- MODEL: events in flight inside the machine, oldest first. -/
  pending : List Instr
  turn    : Bool
  /-- Home data: HBM behind its slices, host memory behind the host aperture (R76, R94). -/
  mem     : Memory
  stamps  : Tab Clock
  floors  : Tab Clock
  dir     : Tab DirEntry
  watch   : List WatchEntry
  held    : Tab Held
  objs    : Tab Obj
  revokes : Tab Revoke
  dies    : Tab Die
  clus    : Tab Cluster
  cores   : Tab Core
  teams   : Tab Team
  /-- What occupies the front ends, keyed 2 × core, plus 1 for the X-front (R19). -/
  sweeps  : Tab Sweep
  ctxs    : Tab Context
  forming : Tab Forming
  tasks   : Tab Task
  tstores : Tab TileStore
  cards   : Tab Card
  images  : Tab Image
  /-- Writes issued and not performed, by serial number (R116, R127). -/
  openWrites : Tab OpenWrite
  mgmt    : Mgmt
  deriving DecidableEq, Repr

/-- Reasons a step stops with a fault. -/
inductive Fault where
  /-- Raised by a meaning that is asked to run an instruction word while no path of a resident team is in focus: no
  front end issues it, so the spec gives it no effect. Safe: `step` sets the focus before it runs a word. -/
  | noIssuer
  deriving DecidableEq, Repr

/-- Reasons a step is refused. -/
inductive Refusal where
  /-- Raised by an arm of exec that has no meaning yet; safe: the run stops. -/
  | notModelled (mnemonic : String)
  deriving DecidableEq, Repr

/-- A core after reset; DROOPCFG is 6 (R70). -/
def Core.reset : Core where
  l1 := []
  waiting := []
  tlb := []
  icache := []
  ccache := []
  cstamps := []
  astamps := []
  lstore := []
  lepoch := []
  csr := [(0x800, 6)]
  posted := []
  nextTag := 0
  flaws := []
  overlay := none
  garnet := []

/-- A die after reset (R206, R210). -/
def Die.reset : Die where
  clock := Clock.zero
  apply := []
  sent := []
  applied := []
  guests := []
  csr := []
  ctxCsr := []
  latch := []
  dpmcHi := []
  jobs := []
  nextJob := 0
  traced := 0
  lastPacket := 0
  packets := 0
  apcache := []

/-- A cluster after reset (R143, R175, R204). -/
def Cluster.reset : Cluster where
  queues := []
  qserial := []
  names := []
  fresh := 0
  freed := []
  tallocs := []
  groups := []
  admitted := 0
  waiting := []
  edf := []
  edfSel := 0
  running := none
  runSince := 0
  stopReq := false
  saveTimer := none
  saving := []
  overrun := none
  tdesc := []
  tlb := []
  trial := none
  feeds := []

/-- A context after reset: no entry. DESIGN CHOICE (log 12): the request ring has room for one full call, 1,024. -/
def Context.reset : Context where
  entry := 0
  rr := []
  live := []
  calls := []
  nextCall := 1
  nextSeq := 1
  nextReply := 0
  completing := []
  room := 1024
  requests := []
  nodes := []
  origins := []
  decs := []

/-- A flash slot never written. DESIGN CHOICE (log 13). -/
def FlashImage.blank : FlashImage := ⟨false, 0, []⟩

/-- The host side and management controller after reset (R155, R159, R424, R437, R438). DESIGN CHOICE (log 13) for the
fuses and flash, which a cold reset does not set. -/
def Mgmt.reset : Mgmt where
  bar0 := []
  cmdq := []
  cplq := []
  msix := []
  readData := []
  report := []
  slotA := FlashImage.blank
  slotB := FlashImage.blank
  marker0 := []
  marker1 := []
  booted := none
  image := []
  chosen := false
  fuseVersion := 0
  eraseFuse := false
  keys := true
  sigFails := 0
  alarm := false
  power := 0
  idleSince := 0
  quietSince := 0
  stillSince := 0
  overlays := []
  links := []
  lost := []
  badBursts := []
  corrected := 0
  lastScrub := 0
  peer := []
  lastFabric := 0
  fails := []
  inbound := []
  answers := []

/-- The machine right after a cold reset (R8): clocks and counters 0, every table empty, no team, no context. -/
def State.reset : State where
  cycle := 0
  seq := 0
  free := 0
  focus := none
  agenda := []
  pending := []
  turn := false
  mem := []
  stamps := []
  floors := []
  dir := []
  watch := []
  held := []
  objs := []
  revokes := []
  dies := []
  clus := []
  cores := []
  teams := []
  sweeps := []
  ctxs := []
  forming := []
  tasks := []
  tstores := []
  cards := []
  images := []
  openWrites := []
  mgmt := Mgmt.reset

end Sys2Proof.Machine
end

