-- ==== Sys2Proof/Machine/Base.lean ====
section
/-!
DEFINITION. Sys2Proof/Machine/Base.lean: the accessors and small operations over the state that everything shares: numbering, time,
registers, the local store, and posting of events and firmware jobs. Taking a trap and returning from
one stand in Ops.lean.
-/
namespace Sys2Proof.Machine

/-! ## Bytes -/

/-- The number that a list of bytes stands for, lowest address first (R5). -/
def leNat : List Byte → Nat
  | [] => 0
  | b :: bs => b.toNat + 256 * leNat bs

/-- The `n` bytes of a number, lowest address first (R5). -/
def natLe : Nat → Nat → List Byte
  | 0, _ => []
  | n + 1, x => BitVec.ofNat 8 x :: natLe n (x / 256)

/-- `n` consecutive bytes at `a`, through a reader of one byte. -/
def readRun (rd : Nat → Byte) (a : Nat) : Nat → List Byte
  | 0 => []
  | n + 1 => rd a :: readRun rd (a + 1) n

/-- Bytes paired with consecutive addresses from `a`. -/
def atAddr (a : Nat) : List Byte → List (Nat × Byte)
  | [] => []
  | b :: bs => (a, b) :: atAddr (a + 1) bs

/-- Bits [lo + w − 1 : lo] of a number. -/
def bits (x lo w : Nat) : Nat := (x >>> lo) % 2 ^ w

/-! ## Numbering and time (R14, R72) -/

def cluOfCore (c : Nat) : Nat := c / Config.coresPerCluster
def dieOfClu (c : Nat) : Nat := c / Config.clustersPerDie
def dieOfCore (c : Nat) : Nat := dieOfClu (cluOfCore c)

/-- Device time in ns (CSR TIME). -/
def State.ns (s : State) : Nat := s.cycle / Config.cyclesPerNs

/-! ## Objects of the state -/

def State.core (s : State) (n : Nat) : Core := s.cores.getD n Core.reset
def State.die (s : State) (n : Nat) : Die := s.dies.getD n Die.reset
def State.clu (s : State) (n : Nat) : Cluster := s.clus.getD n Cluster.reset
def State.ctx (s : State) (n : Nat) : Context := s.ctxs.getD n Context.reset
def State.team? (s : State) (n : Nat) : Option Team := s.teams.get? n

def State.setCore (s : State) (n : Nat) (c : Core) : State := { s with cores := s.cores.put n c }
def State.setDie (s : State) (n : Nat) (d : Die) : State := { s with dies := s.dies.put n d }
def State.setClu (s : State) (n : Nat) (c : Cluster) : State := { s with clus := s.clus.put n c }
def State.setCtx (s : State) (n : Nat) (c : Context) : State := { s with ctxs := s.ctxs.put n c }
def State.setTeam (s : State) (n : Nat) (t : Team) : State := { s with teams := s.teams.put n t }

def State.modCore (s : State) (n : Nat) (f : Core → Core) : State := s.setCore n (f (s.core n))
def State.modDie (s : State) (n : Nat) (f : Die → Die) : State := s.setDie n (f (s.die n))
def State.modClu (s : State) (n : Nat) (f : Cluster → Cluster) : State := s.setClu n (f (s.clu n))
def State.modCtx (s : State) (n : Nat) (f : Context → Context) : State := s.setCtx n (f (s.ctx n))
def State.modTeam (s : State) (n : Nat) (f : Team → Team) : State := { s with teams := s.teams.modify n f }
def State.modMgmt (s : State) (f : Mgmt → Mgmt) : State := { s with mgmt := f s.mgmt }

/-- Change one path of a team. -/
def State.modPath (s : State) (tid pid : Nat) (f : Path → Path) : State :=
  s.modTeam tid fun t => { t with paths := t.paths.modify pid f }

def State.group? (s : State) (clu serial : Nat) : Option Group := (s.clu clu).groups.get? serial
def State.modGroup (s : State) (clu serial : Nat) (f : Group → Group) : State :=
  s.modClu clu fun c => { c with groups := c.groups.modify serial f }

/-- A fresh serial number and the state that has used it. -/
def State.serial (s : State) : Nat × State := (s.seq, { s with seq := s.seq + 1 })
/-- A fresh argument for a free value, and the state that has used it. -/
def State.draw (s : State) : Nat × State := (s.free, { s with free := s.free + 1 })

/-- An event enters the machine's queue of events in flight. -/
def State.post (s : State) (e : Instr) : State := { s with pending := s.pending ++ [e] }
def State.postAll (s : State) (es : List Instr) : State := { s with pending := s.pending ++ es }
/-- Post an event unless it is in flight already. -/
def State.postOnce (s : State) (e : Instr) : State := if s.pending.contains e then s else s.post e
/-- The first event equal to `e` leaves that queue. -/
def State.unpost (s : State) (e : Instr) : State := { s with pending := s.pending.erase e }

/-! ## Registers of a team (R50–R53) -/

def vKey (r lane : Nat) : Nat := 1024 * r + lane

def Team.vreg (t : Team) (r lane : Nat) : Word := t.v.getD (vKey r lane) 0
def Team.setV (t : Team) (r lane : Nat) (x : Word) : Team := { t with v := Tab.store 0 t.v (vKey r lane) x }
def Team.sreg (t : Team) (r : Nat) : Word := t.s.getD r 0
def Team.setS (t : Team) (r : Nat) (x : Word) : Team := { t with s := Tab.store 0 t.s r x }
def Team.hreg (t : Team) (r : Nat) : Word := t.h.getD r 0
def Team.setH (t : Team) (r : Nat) (x : Word) : Team := { t with h := Tab.store 0 t.h r x }
/-- p0 reads as true in every lane (R52). -/
def Team.preg (t : Team) (r : Nat) : LaneMask := if r = 0 then BitVec.allOnes 1024 else t.p.getD r 0
/-- A write to p0 is discarded (R52). -/
def Team.setP (t : Team) (r : Nat) (m : LaneMask) : Team :=
  if r = 0 then t else { t with p := Tab.store 0 t.p r m }

/-- Lanes of word w in a lane mask. -/
def wordOfMask (m : LaneMask) (w : Nat) : Word := m.extractLsb' (32 * w) 32

/-- The word mask of a lane mask: bit i is 1 exactly when lane word i is non-zero (R21). -/
def wordMask (m : LaneMask) : Word :=
  (List.range 32).foldl (fun acc w => if wordOfMask m w = 0 then acc else acc ||| (1#32 <<< w)) 0

/-- The non-empty words of a lane mask, in increasing order (R22). -/
def wordsOf (m : LaneMask) : List Nat := (List.range 32).filter fun w => wordOfMask m w ≠ 0

/-- The lanes of a mask, in increasing order (R10). -/
def lanesOf (m : LaneMask) : List Nat :=
  (wordsOf m).flatMap fun w => ((List.range 32).map (32 * w + ·)).filter fun l => m.getLsbD l

/-- The mask of a list of lanes. -/
def maskOf (ls : List Nat) : LaneMask := ls.foldl (fun m l => m ||| (1#1024 <<< l)) 0

/-- The mask of lanes 0 to n − 1. -/
def firstLanes (n : Nat) : LaneMask := BitVec.ofNat 1024 (2 ^ n - 1)

/-- The lanes that the guard predicate passes (R58). -/
def Team.guardMask (t : Team) : LaneMask :=
  let p := t.preg (t.mode.extractLsb' 0 4).toNat
  if t.mode.getLsbD 4 then ~~~p else p

/-- The lanes of a path that act: mask and guard (R10, R22). -/
def Team.active (t : Team) (p : Path) : LaneMask := p.mask &&& t.guardMask

/-- mode.T, mode.RM and the mode bits (R58). -/
def modeT (m : BitVec 16) : Nat := (m.extractLsb' 5 4).toNat
def modeRM (m : BitVec 16) : Nat := (m.extractLsb' 9 3).toNat
def modeSat (m : BitVec 16) : Bool := m.getLsbD 12
def modeFtz (m : BitVec 16) : Bool := m.getLsbD 13
def modeNanp (m : BitVec 16) : Bool := m.getLsbD 14

/-- Whether a mode value holds no reserved value (R58): T 0–12, RM 0–5, bit 15 zero. -/
def modeValid (m : BitVec 16) : Bool := modeT m ≤ 12 && modeRM m ≤ 5 && !m.getLsbD 15

/-- Whether an issued instruction is still outstanding at a cycle: one of fixed latency ends by itself (R243). -/
def Outst.isOpen (now : Nat) (o : Outst) : Bool := match o.cond with | .atCycle c => now < c | _ => true
/-- The count outstanding against a flag (R63). -/
def Team.flagCount (t : Team) (now f : Nat) : Nat := (t.outst.filter fun o => o.flag = f && o.isOpen now).length
/-- %flags (R56, R63). -/
def Team.flags (t : Team) (now : Nat) : BitVec 12 :=
  (List.range 12).foldl (fun acc f => if t.flagCount now f = 0 then acc else acc ||| (1#12 <<< f)) 0
/-- The pending-write mask (R68). -/
def Team.pendingWrites (t : Team) (now : Nat) : BitVec 22 :=
  t.outst.foldl (fun acc o => if o.isOpen now then acc ||| o.blocks else acc) 0

/-- A lane's field of its work identifier (R30). -/
def workField (widths : List Nat) (w : DWord) (i : Nat) : Word :=
  let lo := (widths.take i).foldl (· + ·) 0
  BitVec.ofNat 32 (bits w.toNat lo (widths.getD i 0))

/-- Hardware sets sticky %status bits (R59). -/
def Team.raise (t : Team) (b : BitVec 16) : Team := { t with status := t.status ||| b, fresh := t.fresh ||| b }
/-- A new cycle: the flags whose results are written in it are set (R61). -/
def Team.land (now : Nat) (t : Team) : Team :=
  { ({ t with fresh := 0, landing := t.landing.filter fun f => decide (f.1 > now) } : Team) with
    status := t.status ||| (t.landing.filter fun f => decide (f.1 ≤ now)).foldl (fun b f => b ||| f.2) 0,
    fresh := (t.landing.filter fun f => decide (f.1 ≤ now)).foldl (fun b f => b ||| f.2) 0 }

def statusEos : BitVec 16 := 0x0001
def statusOverrun : BitVec 16 := 0x0002
def statusFence : BitVec 16 := 0x0004
def statusIL : BitVec 16 := 0x0100

/-- The wider of two pending scopes; a STREAM page counts by where it maps (R62, R76). -/
def pscopeOf (scope pa : Nat) : Nat :=
  if scope = Scope.stream then
    if pa < Config.hbmBytes then Scope.package else if pa < 0x8000000000000 then Scope.host else Scope.fabric
  else scope

/-- FAULTSUM (R65). -/
def Team.faultSum (t : Team) : Word := wordMask t.faultmask

/-! ## The local store (R87) -/

/-- A byte of a core's local store; a byte not written since its block was last given out is a free value. -/
def Core.lbyte (c : Core) (a : Nat) : Byte :=
  match c.lstore.get? a with
  | some b => b
  | none => Config.freeByte (c.lepoch.getD (a / 128) 0) a

def Core.setLbyte (c : Core) (a : Nat) (b : Byte) : Core := { c with lstore := c.lstore.put a b }

def State.lread (s : State) (core a n : Nat) : List Byte := readRun (s.core core).lbyte a n
/-- A write of bytes of a core's local store; it clears the errors of the words it touches (R446). -/
def State.lwrite (s : State) (core a : Nat) (bs : List Byte) : State :=
  s.modCore core fun c =>
    (atAddr a bs).foldl (fun c p => c.setLbyte p.1 p.2)
      { c with flaws := c.flaws.filter fun w => decide (4 * w + 4 ≤ a) || decide (a + bs.length ≤ 4 * w) }
/-- The first byte of n at an address whose word has an uncorrectable error (R446). -/
def Core.badLocal (c : Core) (a n : Nat) : Option Nat :=
  if c.flaws.isEmpty then none else ((List.range n).map (a + ·)).find? fun b => c.flaws.contains (b / 4)

/-! ## Home bytes (R94) -/

def State.hbyte (s : State) (a : Nat) : Byte := s.mem.read a
def State.hread (s : State) (a n : Nat) : List Byte := readRun s.hbyte a n
def State.hnat (s : State) (a n : Nat) : Nat := leNat (s.hread a n)
def State.hwrite (s : State) (bs : List (Nat × Byte)) : State := { s with mem := s.mem.writeList bs }
/-- Store the low n bytes of a number at a physical address. -/
def State.hput (s : State) (a n x : Nat) : State := s.hwrite (atAddr a (natLe n x))

/-! ## CSRs kept by number -/

def State.ctxCsr (s : State) (die ctx num : Nat) : Word := (s.die die).ctxCsr.getD (4096 * ctx + num) 0
def State.setCtxCsr (s : State) (die ctx num : Nat) (x : Word) : State :=
  s.modDie die fun d => { d with ctxCsr := Tab.store 0 d.ctxCsr (4096 * ctx + num) x }
/-- Add one to a context counter of a die (R209). -/
def State.countCtx (s : State) (die ctx num : Nat) : State := s.setCtxCsr die ctx num (s.ctxCsr die ctx num + 1)

/-- Whether a counter selector counts an event that some contexts cause (R207): EN, and the context where CF asks for one. -/
def selects (sel : Word) (event : Nat) (ctxs : List Nat) : Bool :=
  (sel.extractLsb' 0 8).toNat = event && sel.getLsbD 8 && (!sel.getLsbD 9 || ctxs.contains (sel.extractLsb' 10 6).toNat)

/-- Add `n` to a core's counter i, which wraps at 2^32 and then sets OVF (R207). -/
def Core.addCount (c : Core) (i n : Nat) : Core :=
  let old := (c.csr.getD (0x080 + i) 0).toNat
  let c := { c with csr := Tab.store 0 c.csr (0x080 + i) (BitVec.ofNat 32 (old + n)) }
  if old + n ≥ 2 ^ 32 then { c with csr := Tab.store 0 c.csr (0x808 + i) (c.csr.getD (0x808 + i) 0 ||| 0x10000) } else c
/-- Add `n` to a die's 64-bit counter j (R208). -/
def Die.addCount (d : Die) (j n : Nat) : Die :=
  let old := (d.csr.getD (0x900 + 2 * j) 0).toNat + 2 ^ 32 * (d.dpmcHi.getD j 0).toNat
  { d with csr := Tab.store 0 d.csr (0x900 + 2 * j) (BitVec.ofNat 32 (old + n)),
           dpmcHi := Tab.store 0 d.dpmcHi j (BitVec.ofNat 32 ((old + n) / 2 ^ 32)) }

/-- Add `n` to every core counter that selects an event of the given contexts (R207). -/
def State.pmcOf (s : State) (core event n : Nat) (ctxs : List Nat) : State :=
  s.modCore core fun c =>
    (List.range 16).foldl (fun c i => if selects (c.csr.getD (0x808 + i) 0) event ctxs then c.addCount i n else c) c
/-- An event of one context. -/
def State.pmc (s : State) (core event n ctx : Nat) : State := s.pmcOf core event n [ctx]

/-- Add `n` to every die counter that selects an event of the given contexts (R208). -/
def State.dpmc (s : State) (die event n : Nat) (ctxs : List Nat) : State :=
  s.modDie die fun d =>
    (List.range 64).foldl (fun d j => if selects (d.csr.getD (0x980 + j) 0) event ctxs then d.addCount j n else d) d

/-- Events whose occurrences the spec leaves to the device (log 22): fills joined, slice misses, HBM bursts and flits. -/
def freeEvent (sel : Word) : Bool :=
  sel.getLsbD 8 && [0x09, 0x41, 0x42, 0x43, 0x44].contains (sel.extractLsb' 0 8).toNat
/-- Counters that select such events count a free number of them in every cycle (R207, R208). -/
def Core.countFree (k now : Nat) (c : Core) : Core :=
  (List.range 16).foldl (fun c i =>
    let sel := c.csr.getD (0x808 + i) 0
    if freeEvent sel then c.addCount i (Config.freeEvents now (65536 * k + (sel.extractLsb' 0 16).toNat)) else c) c
def Die.countFree (k now : Nat) (d : Die) : Die :=
  (List.range 64).foldl (fun d j =>
    let sel := d.csr.getD (0x980 + j) 0
    if freeEvent sel then d.addCount j (Config.freeEvents now (65536 * (Config.cores + k) + (sel.extractLsb' 0 16).toNat)) else d) d

/-- What occupies a front end (R19). -/
def State.sweep? (s : State) (core : Nat) (x : Bool) : Option Sweep :=
  match s.sweeps.get? (2 * core + if x then 1 else 0) with
  | some w => if w.stop > s.cycle then some w else none
  | none => none

/-- The contexts whose instructions a core is executing in this cycle. -/
def State.sweeping (s : State) (core : Nat) : List Nat :=
  ([true, false].filterMap fun x => s.sweep? core x).map (·.ctx)

/-! ## Firmware jobs (R383, R422) -/

/-- Whether a job queue has room (256 entries, R383). -/
def State.jobRoom (s : State) (die cls : Nat) : Bool := ((s.die die).jobs.getD cls []).length < 256

/-- Post a job. Entries beyond a class's 256 wait there in order (R383). Its watchdog starts (R422). -/
def State.postJob (s : State) (die cls : Nat) (w1 w2 w3 : Word) (team path : Nat) (card : Option Nat) : State :=
  (s.post (.jobWatchdog die cls (s.die die).nextJob)).modDie die fun d =>
    let j : Job := { idx := d.nextJob, w1 := w1, w2 := w2, w3 := w3, claimed := false, posted := s.ns,
                     reposted := false, team := team, path := path, card := card }
    { d with jobs := d.jobs.put cls (d.jobs.getD cls [] ++ [j]), nextJob := d.nextJob + 1 }

/-- A posting of class 5 (R433): a cause with its context and cluster, and a link. -/
def State.postCause (s : State) (clu : Nat) (cause : Byte) (ctx link : Nat) : State :=
  s.postJob (dieOfClu clu) 5 (BitVec.ofNat 32 (cause.toNat + 256 * ctx + 16384 * clu)) (BitVec.ofNat 32 link) 0 0 0 none

/-! ## Launch header and pools (R168, R170) -/

/-- The work-pool table entry of a pool, as it stands in memory (R170). -/
def State.poolAddr (s : State) (ctx pool : Nat) : Nat := bits (s.ctx ctx).entry.toNat 160 52 + 64 * pool
def State.poolEntry (s : State) (ctx pool : Nat) : Nat := s.hnat (s.poolAddr ctx pool) 64

/-- A pool entry that is configured and holds no reserved value (R170). -/
def poolValid (e : Nat) : Bool :=
  bits e 0 1 = 1 && bits e 2 4 ≤ 9 && bits e 27 4 ≤ 10 && bits e 31 1 = 0 && bits e 84 4 = 0 && bits e 100 28 = 0 &&
  bits e 193 63 = 0 && bits e 308 4 = 0 && bits e 312 4 ≤ 10 && bits e 316 4 = 0 && bits e 416 96 = 0

/-- Records in a pool's ring (R154): RINGTAIL − RINGHEAD modulo 2^32. -/
def ringCount (e : Nat) : Nat := (bits e 352 32 + 2 ^ 32 - bits e 320 32) % 2 ^ 32
def ringCap (e : Nat) : Nat := 64 * 2 ^ bits e 27 4
/-- The room left in a pool's ring. -/
def ringRoom (e : Nat) : Nat := ringCap e - ringCount e

/-! ## Quiescence (R44, R45) -/

/-- The records of a pool that count in its tree (R44): appended and not ended. The root is zero exactly when it is 0. -/
def State.live (s : State) (pool : Nat) : Nat := (s.ctx (pool / 64)).live.getD (pool % 64) 0
def State.setLive (s : State) (pool n : Nat) : State :=
  s.modCtx (pool / 64) fun c => { c with live := Tab.store 0 c.live (pool % 64) n }

/-- Whether n bytes at an address lie apart from some extents. -/
def apart (taken : List (Nat × Nat)) (a n : Nat) : Bool := taken.all fun r => decide (a + n ≤ r.1) || decide (r.1 + r.2 ≤ a)
/-- The first place of n bytes between two addresses that lies apart from the extents: one the device asks for, the start,
or the 128-byte boundary after an extent. -/
def placeIn (taken : List (Nat × Nat)) (asked lo hi n : Nat) : Option Nat :=
  (asked :: lo :: taken.map fun r => (r.1 + r.2 + 127) / 128 * 128).find? fun a =>
    decide (lo ≤ a) && decide (a + n ≤ hi) && apart taken a n

/-- The slot a pc names: an address with bits [3:0] = 0 names slot 1 of the bundle about to be entered. -/
def slotAddr (pc : Nat) : Nat := if pc % 16 = 0 then pc + 4 else pc

end Sys2Proof.Machine
end

