-- ==== Sys2Proof/Machine/Flags.lean ====
section
/-!
DEFINITION. Sys2Proof/Machine/Flags.lean: the arithmetic of the integer and address instructions on W-bit elements
(R259, R260, R289–R298), and the flags: the five floating-point flags in the order of TRAPEN (R302) and the places
they take in %status (R59).
-/
namespace Sys2Proof.Machine

/-- How mode.T reads a value operand of the integer instructions (R259): width, signedness, element count. -/
structure IntTy where
  w      : Nat
  signed : Bool
  elems  : Nat
  deriving DecidableEq, Repr

def intTy (t : Nat) : IntTy :=
  if t = 0 then ⟨32, true, 1⟩ else if t = 1 then ⟨32, false, 1⟩ else if t = 2 then ⟨64, true, 1⟩
  else if t = 3 then ⟨64, false, 1⟩ else if t = 5 then ⟨64, true, 1⟩ else if t = 8 then ⟨16, true, 2⟩
  else ⟨32, true, 1⟩

/-- Element size for LEA (R259). -/
def leaSize (t : Nat) : Nat := if t = 2 || t = 3 || t = 5 then 8 else if t = 6 || t = 7 then 2 else 4

/-- Whether a value operand is an even:odd pair under mode.T (R259). -/
def wideT (t : Nat) : Bool := (intTy t).w = 64

/-- The integer that W bits stand for. -/
def intOf (w : Nat) (signed : Bool) (x : Nat) : Int :=
  let x := x % 2 ^ w
  if signed && decide (2 ^ (w - 1) ≤ x) then (x : Int) - 2 ^ w else x

/-- Smallest and largest value of a type. -/
def intMin (w : Nat) (signed : Bool) : Int := if signed then -(2 ^ (w - 1)) else 0
def intMax (w : Nat) (signed : Bool) : Int := if signed then 2 ^ (w - 1) - 1 else 2 ^ w - 1

/-- The low W bits of an integer (R11). -/
def lowBits (w : Nat) (x : Int) : Nat := (x % (2 ^ w : Int)).toNat

/-- sat() for integers (R10, R289). -/
def satInt (w : Nat) (signed sat : Bool) (x : Int) : Nat :=
  lowBits w (if sat then max (intMin w signed) (min (intMax w signed) x) else x)

/-- Element e of a 64-bit operand image under a type. -/
def elemOf (ty : IntTy) (x : DWord) (e : Nat) : Nat := bits x.toNat (ty.w * e) ty.w

/-- A result made of its elements, from element 0 up. -/
def ofElems (ty : IntTy) (f : Nat → Nat) : DWord :=
  BitVec.ofNat 64 ((List.range ty.elems).foldl (fun acc e => acc + (f e % 2 ^ ty.w) * 2 ^ (ty.w * e)) 0)

/-- Apply a W-bit operation to every element (R219, R260). -/
def mapElems (ty : IntTy) (f : Nat → Nat → Nat → Nat) (x y d : DWord) : DWord :=
  ofElems ty fun e => f (elemOf ty x e) (elemOf ty y e) (elemOf ty d e)

/-- The two-operand integer operations whose result is an exact value narrowed by sat() (R289, R290, R291). -/
def addElem (ty : IntTy) (sat : Bool) (a b : Nat) : Nat :=
  satInt ty.w ty.signed sat (intOf ty.w ty.signed a + intOf ty.w ty.signed b)
def subElem (ty : IntTy) (sat : Bool) (a b : Nat) : Nat :=
  satInt ty.w ty.signed sat (intOf ty.w ty.signed a - intOf ty.w ty.signed b)
def negElem (ty : IntTy) (sat : Bool) (a : Nat) : Nat := satInt ty.w ty.signed sat (-(intOf ty.w ty.signed a))
def absElem (ty : IntTy) (sat : Bool) (a : Nat) : Nat :=
  satInt ty.w ty.signed sat ((intOf ty.w ty.signed a).natAbs : Int)
def mulElem (ty : IntTy) (sat : Bool) (a b : Nat) : Nat :=
  satInt ty.w ty.signed sat (intOf ty.w ty.signed a * intOf ty.w ty.signed b)
/-- Bits [2W − 1 : W] of the 2W-bit product (R290). -/
def mulhElem (ty : IntTy) (a b : Nat) : Nat :=
  lowBits (2 * ty.w) (intOf ty.w ty.signed a * intOf ty.w ty.signed b) / 2 ^ ty.w
def madElem (ty : IntTy) (sat : Bool) (a b d : Nat) : Nat :=
  satInt ty.w ty.signed sat (intOf ty.w ty.signed a * intOf ty.w ty.signed b + intOf ty.w ty.signed d)
/-- Quotient truncated towards zero; all ones for a zero divisor (R291). -/
def divElem (ty : IntTy) (sat : Bool) (a b : Nat) : Nat :=
  if b % 2 ^ ty.w = 0 then 2 ^ ty.w - 1
  else satInt ty.w ty.signed sat (Int.tdiv (intOf ty.w ty.signed a) (intOf ty.w ty.signed b))
/-- Remainder with the dividend's sign; all ones for a zero divisor (R291). -/
def remElem (ty : IntTy) (a b : Nat) : Nat :=
  if b % 2 ^ ty.w = 0 then 2 ^ ty.w - 1
  else lowBits ty.w (Int.tmod (intOf ty.w ty.signed a) (intOf ty.w ty.signed b))
def minElem (ty : IntTy) (a b : Nat) : Nat := if intOf ty.w ty.signed a ≤ intOf ty.w ty.signed b then a else b
def maxElem (ty : IntTy) (a b : Nat) : Nat := if intOf ty.w ty.signed b ≤ intOf ty.w ty.signed a then a else b

/-- Shifts by an amount already reduced below W (R294). -/
def shlElem (ty : IntTy) (a n : Nat) : Nat := (a * 2 ^ n) % 2 ^ ty.w
def shrElem (ty : IntTy) (a n : Nat) : Nat := lowBits ty.w (intOf ty.w ty.signed a / (2 ^ n : Int))
def rotElem (ty : IntTy) (a n : Nat) : Nat := (a * 2 ^ n) % 2 ^ ty.w + (a % 2 ^ ty.w) / 2 ^ (ty.w - n)

/-- BFX and BFI (R295): lsb = Y[5:0], len = Y[13:8], cut to the element. -/
def fieldLsb (y : Nat) : Nat := bits y 0 6
def fieldLen (w y : Nat) : Nat := if bits y 0 6 ≥ w then 0 else min (bits y 8 6) (w - bits y 0 6)
def bfxElem (ty : IntTy) (x y : Nat) : Nat :=
  let len := fieldLen ty.w y
  if len = 0 then 0 else lowBits ty.w (intOf len ty.signed (bits x (fieldLsb y) len))
def bfiElem (ty : IntTy) (x y d : Nat) : Nat :=
  let len := fieldLen ty.w y
  let lsb := fieldLsb y
  if len = 0 then d else d - bits d lsb len * 2 ^ lsb + bits x 0 len * 2 ^ lsb

/-- Leading zero bits, one bits, and bit reversal of a W-bit value (R295). -/
def clzElem (w a : Nat) : Nat := if a % 2 ^ w = 0 then w else w - 1 - Nat.log2 (a % 2 ^ w)
def popElem (w a : Nat) : Nat := (List.range w).foldl (fun n i => n + bits a i 1) 0
def brevElem (w a : Nat) : Nat := (List.range w).foldl (fun n i => n + bits a i 1 * 2 ^ (w - 1 - i)) 0

/-- The relations of CEQ to CGE, in opcode order (R298). -/
inductive Rel where
  | eq | ne | lt | le | gt | ge
  deriving DecidableEq, Repr

def Rel.holds (r : Rel) (a b : Int) : Bool :=
  match r with
  | .eq => decide (a = b)
  | .ne => decide (a ≠ b)
  | .lt => decide (a < b)
  | .le => decide (a ≤ b)
  | .gt => decide (a > b)
  | .ge => decide (a ≥ b)

/-- A comparison holds when it holds for every element (R298). -/
def cmpElems (ty : IntTy) (r : Rel) (x y : DWord) : Bool :=
  (List.range ty.elems).all fun e => r.holds (intOf ty.w ty.signed (elemOf ty x e)) (intOf ty.w ty.signed (elemOf ty y e))

/-! ## Floating-point flags -/

/-- FI, FZ, FO, FU, FX in bits 0 to 4: the order of TRAPEN [5:1] and of %status [7:3] (R72, R302). -/
abbrev FFlags := BitVec 5
def fI : FFlags := 1
def fZ : FFlags := 2
def fO : FFlags := 4
def fU : FFlags := 8
def fX : FFlags := 16

/-- The %status bits that floating-point flags set (R59). -/
def statusOfFlags (f : FFlags) : BitVec 16 := (f.setWidth 16) <<< 3

end Sys2Proof.Machine
end

