-- ==== Sys2Proof/Machine/Float.lean ====
section
/-!
DEFINITION. Sys2Proof/Machine/Float.lean: the number formats and arithmetic of chapter 09 (R214–R231) and the exact
values of the floating-point instructions (R301–R311). A finite value is held exactly as sign, magnitude m and exponent
e (m × 2^e), with a sticky mark for a quotient or root that lies strictly between m and m + 1.
-/
namespace Sys2Proof.Machine

/-- An element format (R214). -/
structure Fmt where
  ebits : Nat
  mbits : Nat
  bias  : Nat
  /-- E4M3: no infinity, one NaN code (R214). -/
  e4m3  : Bool
  deriving DecidableEq, Repr

def Fmt.fp64 : Fmt := ⟨11, 52, 1023, false⟩
def Fmt.fp32 : Fmt := ⟨8, 23, 127, false⟩
def Fmt.fp16 : Fmt := ⟨5, 10, 15, false⟩
def Fmt.bf16 : Fmt := ⟨8, 7, 127, false⟩
def Fmt.fE5m2 : Fmt := ⟨5, 2, 15, false⟩
def Fmt.fE4m3 : Fmt := ⟨4, 3, 7, true⟩

/-- Width in bits. -/
def Fmt.width (f : Fmt) : Nat := 1 + f.ebits + f.mbits
/-- Exponent of the smallest normal value (R214). -/
def Fmt.emin (f : Fmt) : Int := 1 - f.bias
/-- The formats that mode.FTZ acts on (R225). -/
def Fmt.flushes (f : Fmt) : Bool := f = Fmt.fp32 || f = Fmt.fp16 || f = Fmt.bf16

/-- A value. A NaN keeps its payload left-aligned in 52 bits, quiet bit included, and whether it signals (R215). -/
inductive FV where
  | nan (sign : Bool) (payload : Nat) (signalling : Bool)
  | inf (sign : Bool)
  | fin (sign : Bool) (m : Nat) (e : Int)
  deriving DecidableEq, Repr

def FV.isNan : FV → Bool
  | .nan .. => true
  | _ => false
def FV.isSnan : FV → Bool
  | .nan _ _ s => s
  | _ => false
def FV.sign : FV → Bool
  | .nan s _ _ => s
  | .inf s => s
  | .fin s _ _ => s
def FV.isZero : FV → Bool
  | .fin _ 0 _ => true
  | _ => false

/-- The value of an encoding (R214, R215). -/
def Fmt.decode (f : Fmt) (b : Nat) : FV :=
  let m := bits b 0 f.mbits
  let e := bits b f.mbits f.ebits
  let s := bits b (f.ebits + f.mbits) 1 = 1
  let top := 2 ^ f.ebits - 1
  if f.e4m3 then
    if e = top ∧ m = 7 then .nan s (2 ^ 51) false
    else if e = 0 then .fin s m (f.emin - f.mbits)
    else .fin s (m + 2 ^ f.mbits) ((e : Int) - f.bias - f.mbits)
  else if e = top then
    if m = 0 then .inf s else .nan s (m * 2 ^ (52 - f.mbits)) (bits m (f.mbits - 1) 1 = 0)
  else if e = 0 then .fin s m (f.emin - f.mbits)
  else .fin s (m + 2 ^ f.mbits) ((e : Int) - f.bias - f.mbits)

def Fmt.signBit (f : Fmt) (s : Bool) : Nat := if s then 2 ^ (f.ebits + f.mbits) else 0

/-- Infinity's code; for E4M3 the NaN of that sign (R221). -/
def Fmt.infBits (f : Fmt) (s : Bool) : Nat :=
  if f.e4m3 then f.signBit s + 0x7F else f.signBit s + (2 ^ f.ebits - 1) * 2 ^ f.mbits
/-- Largest finite value's code (R214). -/
def Fmt.maxBits (f : Fmt) (s : Bool) : Nat :=
  if f.e4m3 then f.signBit s + 0x7E else f.infBits s - 1
/-- Canonical NaN (R215). -/
def Fmt.canonNan (f : Fmt) : Nat :=
  if f.e4m3 then 0x7F
  else (2 ^ f.ebits - 1) * 2 ^ f.mbits + (if f.mbits = 2 then 2 else 2 ^ (f.mbits - 1))
/-- Largest finite magnitude as m × 2^e. -/
def Fmt.maxM (f : Fmt) : Nat := if f.e4m3 then 14 else 2 ^ (f.mbits + 1) - 1
def Fmt.maxE (f : Fmt) : Int := if f.e4m3 then 5 else (2 ^ f.ebits - 2 : Int) - f.bias - f.mbits

/-- The mode fields that floating-point results depend on. -/
structure FEnv where
  rm   : Nat
  sat  : Bool
  ftz  : Bool
  nanp : Bool
  deriving DecidableEq, Repr

def fenvOf (m : BitVec 16) : FEnv := ⟨modeRM m, modeSat m, modeFtz m, modeNanp m⟩
/-- The environment of TLOAD's and TGET's conversions: RNE, SAT 0, FTZ 0 (R356, R359). -/
def FEnv.plain : FEnv := ⟨0, false, false, false⟩

/-- A produced NaN (R215): canonical, or under NANP the first NaN source's sign and payload, quieted. -/
def nanResult (f : Fmt) (env : FEnv) (sources : List FV) : Nat :=
  if env.nanp then
    match sources.find? FV.isNan with
    | some (.nan s p _) =>
      if f.e4m3 then f.signBit s + 0x7F
      else f.infBits s + ((p ||| 2 ^ 51) / 2 ^ (52 - f.mbits))
    | _ => f.canonNan
  else f.canonNan

/-- The lower neighbour's count of quanta, the remainder over 2^shift, and the quantum's exponent, for m × 2^e with the
quantum 2^q (R220). -/
def quanta (m : Nat) (e q : Int) : Nat × Nat × Nat :=
  if q ≤ e then (m * 2 ^ (e - q).toNat, 0, 1)
  else let k := 2 ^ (q - e).toNat; (m / k, m % k, k)

/-- Whether rounding takes the neighbour further from zero (R220, R222): lo counts quanta, rem / den is the fraction. -/
def roundAway (rm : Nat) (sign : Bool) (lo rem den : Nat) (sticky : Bool) (draw : Nat) : Bool :=
  let inexact := rem ≠ 0 || sticky
  if rm = 0 then decide (2 * rem > den) || (decide (2 * rem = den) && (sticky || lo % 2 = 1))
  else if rm = 1 then false
  else if rm = 2 then inexact && !sign
  else if rm = 3 then inexact && sign
  else if rm = 4 then decide (2 * rem ≥ den)
  else decide (draw < rem * 65536 / den)

/-- Exponent of the leading bit of m × 2^e, for m > 0. -/
def leadExp (m : Nat) (e : Int) : Int := (Nat.log2 m : Int) + e

/-- round() to a floating-point format (R220–R222, R225): code and flags. -/
def roundTo (f : Fmt) (env : FEnv) (sign : Bool) (m : Nat) (e : Int) (sticky : Bool) (draw : Nat) : Nat × FFlags :=
  if m = 0 && !sticky then (f.signBit sign, 0)
  else
    let q := max (leadExp (max m 1) e) f.emin - f.mbits
    let (lo, rem, den) := quanta m e q
    let n := if roundAway env.rm sign lo rem den sticky draw then lo + 1 else lo
    let inexact := rem ≠ 0 || sticky
    -- overflow: n × 2^q above the largest finite value (R221)
    let tooBig := decide (n * 2 ^ (q - f.maxE).toNat > f.maxM * 2 ^ (f.maxE - q).toNat)
    if tooBig then
      let toMax := env.sat || env.rm = 1 || (env.rm = 2 && sign) || (env.rm = 3 && !sign)
      (if toMax then f.maxBits sign else f.infBits sign, fO ||| fX)
    else if n = 0 then (f.signBit sign, if inexact then fX else 0)
    else
      -- a carry out of the mantissa raises the exponent by itself in this sum
      let code := if n < 2 ^ f.mbits then n
        else n - 2 ^ f.mbits + ((q + f.mbits + f.bias).toNat) * 2 ^ f.mbits
      let subnormal := n < 2 ^ f.mbits
      if subnormal && env.ftz && f.flushes then (f.signBit sign, fU ||| fX)
      else (f.signBit sign + code, (if inexact then fX else 0) ||| (if inexact && subnormal then fU else 0))

/-- Round to an integer under a rounding mode (R224, R310). -/
def roundInt (rm : Nat) (sign : Bool) (m : Nat) (e : Int) (draw : Nat) : Nat × Bool :=
  let (lo, rem, den) := quanta m e 0
  (if roundAway rm sign lo rem den false draw then lo + 1 else lo, decide (rem ≠ 0))

/-- What an instruction forms before rounding: a finished code with its flags, or an exact value that takes one
rounding, and so one draw under STOCH. -/
inductive Pre where
  | code (b : Nat) (fl : FFlags)
  | value (sign : Bool) (m : Nat) (e : Int) (sticky : Bool) (fl : FFlags)
  deriving DecidableEq, Repr

/-- A source's value after the input flush (R225, R301). -/
def readF (f : Fmt) (env : FEnv) (b : Nat) : FV :=
  match f.decode b with
  | .fin s m e => if env.ftz && f.flushes && m < 2 ^ f.mbits then .fin s 0 e else .fin s m e
  | v => v

/-- An exact infinity: clamped under SAT, no FO or FX (R221, R301). -/
def infPre (f : Fmt) (env : FEnv) (s : Bool) (fl : FFlags) : Pre :=
  .code (if env.sat then f.maxBits s else f.infBits s) fl

/-- FI for a signalling NaN among the sources (R215). -/
def snanFlag (vs : List FV) : FFlags := if vs.any FV.isSnan then fI else 0

/-- The NaN that NaN sources give (R301). -/
def nanPre (f : Fmt) (env : FEnv) (vs : List FV) (fl : FFlags) : Pre := .code (nanResult f env vs) (snanFlag vs ||| fl)
/-- The NaN of an invalid operation: no payload source, FI (R301). -/
def invalidPre (f : Fmt) : Pre := .code f.canonNan fI

/-- An exact sum of two finite values; an exact zero is +0, or −0 under RDN; zeros of one sign keep it (R303). -/
def addPre (rm : Nat) (s1 : Bool) (m1 : Nat) (e1 : Int) (s2 : Bool) (m2 : Nat) (e2 : Int) : Pre :=
  let e := min e1 e2
  let a : Int := (if s1 then -1 else 1) * (m1 * 2 ^ (e1 - e).toNat : Nat)
  let b : Int := (if s2 then -1 else 1) * (m2 * 2 ^ (e2 - e).toNat : Nat)
  let x := a + b
  if x = 0 then .value (if m1 = 0 && m2 = 0 && s1 = s2 then s1 else rm = 3) 0 0 false 0
  else .value (decide (x < 0)) x.natAbs e false 0

/-- X + Y, with Y's sign flipped for a subtraction (R303). -/
def faddPre (f : Fmt) (env : FEnv) (flip : Bool) (x y : FV) : Pre :=
  if x.isNan || y.isNan then nanPre f env [x, y] 0
  else match x, y with
    | .inf s1, .inf s2 => if s1 = (s2 != flip) then infPre f env s1 0 else invalidPre f
    | .inf s1, _ => infPre f env s1 0
    | _, .inf s2 => infPre f env (s2 != flip) 0
    | .fin s1 m1 e1, .fin s2 m2 e2 => addPre env.rm s1 m1 e1 (s2 != flip) m2 e2
    | _, _ => invalidPre f

/-- X × Y (R303). -/
def fmulPre (f : Fmt) (env : FEnv) (x y : FV) : Pre :=
  if x.isNan || y.isNan then nanPre f env [x, y] 0
  else
    let s := x.sign != y.sign
    match x, y with
    | .fin _ m1 e1, .fin _ m2 e2 => .value s (m1 * m2) (e1 + e2) false 0
    | _, _ => if x.isZero || y.isZero then invalidPre f else infPre f env s 0

/-- ±(X × Y) ± D, fused (R303): np flips the product, nd flips D. 0 × ∞ is invalid even beside a quiet NaN in D. -/
def fmaPre (f : Fmt) (env : FEnv) (np nd : Bool) (x y d : FV) : Pre :=
  let zi := (x.isZero && (match y with | .inf _ => true | _ => false)) ||
    (y.isZero && (match x with | .inf _ => true | _ => false))
  if x.isNan || y.isNan then nanPre f env [x, y, d] 0
  else if zi then if d.isNan then nanPre f env [d] fI else invalidPre f
  else if d.isNan then nanPre f env [d] 0
  else
    let s := (x.sign != y.sign) != np
    match x, y, d with
    | .fin _ m1 e1, .fin _ m2 e2, .fin sd md ed => addPre env.rm s (m1 * m2) (e1 + e2) (sd != nd) md ed
    | .fin _ _ _, .fin _ _ _, .inf sd => infPre f env (sd != nd) 0
    | _, _, .inf sd => if s = (sd != nd) then infPre f env s 0 else invalidPre f
    | _, _, _ => infPre f env s 0

/-- Quotient with at least 80 significant bits and a sticky mark. -/
def divExact (s : Bool) (m1 : Nat) (e1 : Int) (m2 : Nat) (e2 : Int) (fl : FFlags) : Pre :=
  let k := 80 + Nat.log2 m2 + 1
  .value s (m1 * 2 ^ k / m2) (e1 - e2 - k) (decide (m1 * 2 ^ k % m2 ≠ 0)) fl

/-- X / Y (R306). -/
def fdivPre (f : Fmt) (env : FEnv) (x y : FV) : Pre :=
  if x.isNan || y.isNan then nanPre f env [x, y] 0
  else
    let s := x.sign != y.sign
    match x, y with
    | .inf _, .inf _ => invalidPre f
    | .inf _, _ => infPre f env s 0
    | .fin _ _ _, .inf _ => .value s 0 0 false 0
    | .fin _ m1 e1, .fin _ m2 e2 =>
      if m2 = 0 then if m1 = 0 then invalidPre f else infPre f env s fZ
      else divExact s m1 e1 m2 e2 0
    | _, _ => invalidPre f

/-- Integer square root of n, bit by bit from bit k − 1 down. -/
def isqrtFrom : Nat → Nat → Nat → Nat
  | 0, _, r => r
  | k + 1, n, r => isqrtFrom k n (if (r + 2 ^ k) * (r + 2 ^ k) ≤ n then r + 2 ^ k else r)
def isqrt (n : Nat) : Nat := isqrtFrom (Nat.log2 n / 2 + 1) n 0

/-- √X, and 1 / √X with `recip` (R306). -/
def fsqrtPre (f : Fmt) (env : FEnv) (recip : Bool) (x : FV) : Pre :=
  if x.isNan then nanPre f env [x] 0
  else match x with
    | .inf s => if s then invalidPre f else if recip then .value false 0 0 false 0 else infPre f env false 0
    | .fin s m e =>
      if m = 0 then if recip then infPre f env s fZ else .value s 0 0 false 0
      else if s then invalidPre f
      else
        -- make the exponent even and the radicand long
        let m' := if e % 2 = 0 then m else 2 * m
        let e' := if e % 2 = 0 then e else e - 1
        if recip then
          -- 1 / √(m' 2^e') = √(2^(2k) / m') 2^(−k − e'/2), with k large
          let k := 90 + Nat.log2 m' + 1
          let q := 2 ^ (2 * k) / m'
          let r := isqrt q
          .value false r (-(k : Int) - e' / 2) (decide (r * r * m' ≠ 2 ^ (2 * k))) 0
        else
          let n := m' * 2 ^ 160
          let r := isqrt n
          .value false r (e' / 2 - 80) (decide (r * r ≠ n)) 0
    | _ => invalidPre f

/-- 1 / X (R306). -/
def frcpPre (f : Fmt) (env : FEnv) (x : FV) : Pre :=
  match x with
  | .inf s => .value s 0 0 false 0
  | _ => fdivPre f env (.fin false 1 0) x

/-- X × 2^n; ±0 and ±∞ unchanged (R311). -/
def fscalePre (f : Fmt) (env : FEnv) (x : FV) (n : Int) : Pre :=
  match x with
  | .nan .. => nanPre f env [x] 0
  | .inf s => .code (f.infBits s) 0
  | .fin s m e => if m = 0 then .code (f.signBit s) 0 else .value s m (e + n) false 0

/-- Value order with −0 below +0 (R304): X < Y for non-NaN values; `zeros` tells the zeros apart. -/
def fvLt (zeros : Bool) (x y : FV) : Bool :=
  match x, y with
  | .inf s, .inf t => s && !t
  | .inf s, _ => s
  | _, .inf t => !t
  | .fin s m e, .fin t n k =>
    if m = 0 && n = 0 then zeros && s && !t
    else
      let b := min e k
      let a : Int := (if s then -1 else 1) * (m * 2 ^ (e - b).toNat : Nat)
      let c : Int := (if t then -1 else 1) * (n * 2 ^ (k - b).toNat : Nat)
      decide (a < c)
  | _, _ => false

/-- FMIN and FMAX (R304), over codes: the chosen source returned as flushed. -/
def fminmax (f : Fmt) (env : FEnv) (isMax : Bool) (xb yb : Nat) : Nat × FFlags :=
  let x := readF f env xb
  let y := readF f env yb
  let flushed (b : Nat) (v : FV) := match v with | .fin s 0 _ => f.signBit s | _ => b
  let fl := snanFlag [x, y]
  if x.isNan && y.isNan then (nanResult f env [x, y], fl)
  else if x.isNan then (flushed yb y, fl)
  else if y.isNan then (flushed xb x, fl)
  else if (if isMax then fvLt true x y else fvLt true y x) then (flushed yb y, fl)
  else (flushed xb x, fl)

/-- FCEQ, FCLT, FCLE, FCUN (R308). -/
inductive FRel where
  | eq | lt | le | un
  deriving DecidableEq, Repr

def FRel.eval (r : FRel) (x y : FV) : Bool × FFlags :=
  let nan := x.isNan || y.isNan
  match r with
  | .eq => (!nan && !fvLt false x y && !fvLt false y x, snanFlag [x, y])
  | .lt => (!nan && fvLt false x y, if nan then fI else 0)
  | .le => (!nan && !fvLt false y x, if nan then fI else 0)
  | .un => (nan, snanFlag [x, y])

/-- FCLASS's bit number (R309), on the unflushed value. -/
def fclass (f : Fmt) (b : Nat) : Nat :=
  match f.decode b with
  | .nan _ _ sig => if sig then 8 else 9
  | .inf s => if s then 0 else 7
  | .fin s m _ =>
    if m = 0 then if s then 3 else 4
    else if m < 2 ^ f.mbits then if s then 2 else 5
    else if s then 1 else 6

/-- Finish: one rounding, with its draw. -/
def Pre.finish (f : Fmt) (env : FEnv) (draw : Nat) : Pre → Nat × FFlags
  | .code b fl => (b, fl)
  | .value s m e st fl => let (b, g) := roundTo f env s m e st draw; (b, g ||| fl)

/-- Whether finishing takes a rounding, and so a draw under STOCH (R222). -/
def Pre.rounds : Pre → Bool
  | .code .. => false
  | .value .. => true

/-! ## Conversion (R224) -/

/-- A value converted to a floating-point format: NaN, infinities as R224 orders them, else one rounding. -/
def toFmtPre (f : Fmt) (env : FEnv) (v : FV) : Pre :=
  match v with
  | .nan .. => nanPre f env [v] 0
  | .inf s =>
    if !f.e4m3 then infPre f env s 0
    else if env.sat then .code (f.maxBits s) 0 else .code (f.infBits s) fI
  | .fin s m e => .value s m e false 0

/-- A value converted to an integer of w bits (R224). The draw is used only by the finite case. -/
def toInt (w : Nat) (signed : Bool) (rm : Nat) (v : FV) (draw : Nat) : Nat × FFlags :=
  match v with
  | .nan .. => (0, fI)
  | .inf s => (lowBits w (if s then intMin w signed else intMax w signed), fI)
  | .fin s m e =>
    let (n, inexact) := roundInt rm s m e draw
    let y : Int := if s then -(n : Int) else n
    if y < intMin w signed then (lowBits w (intMin w signed), fI)
    else if y > intMax w signed then (lowBits w (intMax w signed), fI)
    else (lowBits w y, if inexact then fX else 0)

/-- An integer's exact value. -/
def ofInt (x : Int) : FV := .fin (decide (x < 0)) x.natAbs 0

/-! ## The RAND stream (R223) -/

def randStep (g : DWord) : DWord :=
  let g := g ^^^ (g <<< 13)
  let g := g ^^^ (g >>> 7)
  g ^^^ (g <<< 17)
def randOut (g : DWord) : BitVec 16 := (g * 0x2545F4914F6CDD1D#64).extractLsb' 48 16
/-- The stream's first state (R223). -/
def randSeed (w : DWord) (ctx : Nat) : DWord :=
  let g := w ^^^ 0x9E3779B97F4A7C15#64 ^^^ (BitVec.ofNat 64 ctx <<< 58)
  if g = 0 then 1#64 <<< 63 else g

end Sys2Proof.Machine
end

