-- ==== Sys2Proof/Machine/Coherence.lean ====
section
/-!
DEFINITION. Sys2Proof/Machine/Coherence.lean: the home slices, their directory, the L1s and the guest copies (chapter
04), the bank ALU (R95, R335), watches (R111–R113), and the vector clocks and apply queues (R114–R118), as operations
on the state. A request to a home slice is an event in flight; each operation here is what one such event does.
-/
namespace Sys2Proof

/-! ## Vector clocks (R114) -/

def Clock.get (c : Clock) (i : Nat) : BitVec 48 :=
  if i = 0 then c.c0 else if i = 1 then c.c1 else if i = 2 then c.c2 else c.c3
def Clock.put (c : Clock) (i : Nat) (x : BitVec 48) : Clock :=
  if i = 0 then { c with c0 := x } else if i = 1 then { c with c1 := x }
  else if i = 2 then { c with c2 := x } else { c with c3 := x }
/-- a ≥ b as serial numbers modulo 2^48 (R114). -/
def serialGe (a b : BitVec 48) : Bool := (a - b).toNat < 2 ^ 47
def serialMax (a b : BitVec 48) : BitVec 48 := if serialGe a b then a else b
def Clock.max (a b : Clock) : Clock :=
  ⟨serialMax a.c0 b.c0, serialMax a.c1 b.c1, serialMax a.c2 b.c2, serialMax a.c3 b.c3⟩
/-- C_e[k] ≥ S[k] for every k ≠ e (R118). -/
def Clock.dominates (e : Nat) (c st : Clock) : Bool :=
  (List.range 4).all fun k => k = e || serialGe (c.get k) (st.get k)

/-- The core a request comes from, if a core makes it. -/
def StoreReq.core? (r : StoreReq) : Option Nat := match r.agent with | .core c => some c | .die _ => none

/-- The die a request comes from: of its core, or of its agent (R115). -/
def Agent.dieOf : Agent → Nat
  | .core c => c / Config.coresPerCluster / Config.clustersPerDie
  | .die d => d

/-- Bytes of one access under a type: 2 for f16 and bf16, 8 for 64-bit types, else 4 (R335, R338). -/
def bankBytes (ty : Nat) : Nat := if ty = 2 || ty = 3 || ty = 5 then 8 else if ty = 6 || ty = 7 then 2 else 4

/-- The bytes a request writes. -/
def BankReq.addrs (r : BankReq) : List Nat := r.lanes.flatMap fun l => (List.range (bankBytes r.ty)).map (l.addr + ·)

end Sys2Proof

namespace Sys2Proof.Machine

/-! ## Where a line lives (R76, R77) -/

def lineOf (pa : Nat) : Nat := pa / 128
def isHbm (pa : Nat) : Bool := pa < Config.hbmBytes
def isHostAp (pa : Nat) : Bool := 0x1000000000000 ≤ pa && pa < 0x2000000000000
def isFabricAp (pa : Nat) : Bool := 0x8000000000000 ≤ pa && pa < 0x10000000000000

/-- The aperture entry of a fabric address, as it stands in firmware memory at APBASE, or the copy cached on the die
that reads it (R428). -/
def State.apEntry (s : State) (die idx : Nat) : BitVec 128 :=
  match (s.die die).apcache.get? idx with
  | some e => e
  | none =>
    let base := bits ((s.die die).csr.getD 0x8B0 0).toNat 4 28 * 16 + bits ((s.die die).csr.getD 0x8B1 0).toNat 0 20 * 2 ^ 32
    BitVec.ofNat 128 (s.hnat (base + 16 * idx) 16)
def apIndex (pa : Nat) : Nat := bits pa 41 10
def apPort (e : BitVec 128) : Nat := bits e.toNat 2 4

/-- The home die of a physical address (R76, R77). -/
def State.homeDie (s : State) (pa : Nat) : Nat :=
  if isHbm pa then pa / Config.hbmPerDie
  else if isFabricAp pa then apPort (s.apEntry 0 (apIndex pa)) / 4
  else 0

/-- The slice number on its die (R77). -/
def sliceOf (pa : Nat) : Nat := bits pa 7 5 ^^^ bits pa 12 5 ^^^ bits pa 17 5

/-- Where a fabric address lies in its peer's memory (R428): the entry's PEER and PEERCTX, and PBASE + offset there. -/
def State.peerKey (s : State) (pa : Nat) : Nat :=
  let e := (s.apEntry 0 (apIndex pa)).toNat
  bits e 16 16 * 2 ^ 62 + bits e 32 6 * 2 ^ 56 + (bits e 64 56 + bits pa 0 41) % 2 ^ 56
/-- A home byte: memory, host memory behind the host aperture, or what the peer's region holds (R76, R428). -/
def State.homeByte (s : State) (pa : Nat) : Byte :=
  if isFabricAp pa then (s.mgmt.peer.get? (s.peerKey pa)).getD (Config.remoteByte 0 (s.peerKey pa)) else s.hbyte pa
/-- Perform bytes at home. A write of a whole 64-byte burst clears a bad one (R97). -/
def State.homePut (s : State) (bs : List (Nat × Byte)) : State :=
  let s := bs.foldl (fun s p =>
    if isFabricAp p.1 then s.modMgmt fun m => { m with peer := m.peer.put (s.peerKey p.1) p.2 }
    else { s with mem := s.mem.write p.1 p.2 }) s
  if s.mgmt.badBursts.isEmpty then s
  else s.modMgmt fun m =>
    { m with badBursts := m.badBursts.filter fun b => !((List.range 64).all fun i => bs.any fun p => p.1 = b + i) }

/-! ## Spans -/

/-- First word and count of the span of bytes within their line (R90). -/
def spanOf (bs : List (Nat × Byte)) : Nat × Nat :=
  let ws := bs.map fun p => (p.1 % 128) / 4
  let lo := ws.foldl min 32
  let hi := ws.foldl max 0
  (lo, hi + 1 - lo)

/-- The words of a span as a mask. -/
def spanMask (first count : Nat) : BitVec 32 := BitVec.ofNat 32 ((2 ^ count - 1) * 2 ^ first)

/-! ## The directory (R102, R104) -/

def DirEntry.empty : DirEntry := ⟨.u, false, false, [], 0, []⟩
def State.dirOf (s : State) (line : Nat) : DirEntry := s.dir.getD line DirEntry.empty
def State.setDir (s : State) (line : Nat) (e : DirEntry) : State := { s with dir := s.dir.put line e }

/-- The cluster-vector bit of a sharer (R102). -/
def cvecBit (x : Sharer) : BitVec 56 :=
  match x with
  | .core n => 1#56 <<< cluOfCore n
  | .die d => 1#56 <<< (14 * d)

/-- Whether the entry's lists name the sharer. -/
def DirEntry.has (e : DirEntry) (x : Sharer) : Bool :=
  if e.coarse then (e.cvec &&& cvecBit x) ≠ 0 else e.ptrs.contains x

/-- Add a sharer; none when a line in N would need a fifth pointer, which is served uncached (R104). -/
def DirEntry.add (e : DirEntry) (x : Sharer) : Option DirEntry :=
  if e.coarse then some { e with cvec := e.cvec ||| cvecBit x }
  else if e.ptrs.contains x then some e
  else if e.ptrs.length < 4 then some { e with ptrs := e.ptrs ++ [x] }
  else if e.st = .n then none
  else some { e with coarse := true, cvec := (e.ptrs ++ [x]).foldl (fun v y => v ||| cvecBit y) 0, ptrs := [] }

/-- The entry with a sharer added by a fill or a store (R106): U becomes S; none where no pointer is left in N. -/
def DirEntry.share (e : DirEntry) (x : Sharer) : Option DirEntry :=
  (e.add x).map fun e' => { e' with st := if e'.st = .u then .s else e'.st }

/-- Whether a narrow grant can be recorded (R106): an exact entry that names the requester or has a pointer left. DESIGN
CHOICE (log 31): "fewer than 4 holders" is read of the entry's pointers, since every holder needs one; so an S line with
four other sharers and fewer than four narrow holders gives WTGRANT. -/
def DirEntry.grantable (e : DirEntry) (x : Sharer) : Bool := !e.coarse && (decide (e.ptrs.length < 4) || e.ptrs.contains x)

/-- The entry with a narrow holder marked (R106). -/
def DirEntry.grant (e : DirEntry) (x : Sharer) : DirEntry :=
  let e := (e.add x).getD e
  { e with st := .n, narrow := if e.narrow.contains x then e.narrow else e.narrow ++ [x] }

/-- The entry once a holder has given up its grant (R106): S when it was the last, U when no sharer is left. -/
def DirEntry.giveUp (e : DirEntry) (x : Sharer) : DirEntry :=
  let nar := e.narrow.erase x
  let ptrs := e.ptrs.erase x
  { e with narrow := nar, ptrs := ptrs,
           st := if e.st = .n && nar.isEmpty then (if ptrs.isEmpty && !e.coarse then .u else .s) else e.st }

/-- A coarse entry returned to exact mode (R104), with the sharers that are kept. -/
def DirEntry.exact (e : DirEntry) (ptrs : List Sharer) : DirEntry :=
  { e with coarse := false, cvec := 0, ptrs := ptrs, st := if ptrs.isEmpty then .u else e.st }

/-- The entry after a demotion (R106). -/
def DirEntry.demoted (e : DirEntry) : DirEntry := { e with st := if e.st = .n then .s else e.st, narrow := [] }

/-- The 64-bit form of an entry (R102). -/
def DirEntry.encode (e : DirEntry) : BitVec 64 :=
  let st : Nat := match e.st with | .u => 0 | .s => 1 | .n => 2
  let ptr (x : Sharer) : Nat := match x with | .core n => n % 1024 | .die d => 1024 + d
  let low := st + (if e.w then 4 else 0) + (if e.coarse then 8 else 0)
  if e.coarse then BitVec.ofNat 64 (low + e.cvec.toNat * 2 ^ 7)
  else BitVec.ofNat 64 (low + e.ptrs.length * 16 +
    ((List.range e.ptrs.length).zip e.ptrs).foldl (fun a p => a + ptr p.2 * 2 ^ (7 + 11 * p.1)) 0)

/-- Whom an entry of a die's directory stands for (R104): every pointer, or every core of a marked cluster of that die and
every marked die besides. -/
def DirEntry.sharers (e : DirEntry) (die : Nat) : List Sharer :=
  if e.coarse then
    (List.range 56).flatMap fun c =>
      if e.cvec.getLsbD c then
        if c / 14 = die then (List.range 12).map fun k => Sharer.core (12 * c + k)
        else [Sharer.die (c / 14)]
      else []
  else e.ptrs
/-- The sharers that a line's home records. -/
def State.sharersOf (s : State) (line : Nat) : List Sharer := (s.dirOf line).sharers (s.homeDie (line * 128))

/-- A guest copy of nothing, in state G. -/
def GuestCopy.empty : GuestCopy := ⟨0, [], [], DirEntry.empty⟩
/-- The cores of its die that hold narrow grants behind a guest copy (R107). -/
def GuestCopy.narrowCores (g : GuestCopy) : List Nat :=
  g.dir.narrow.filterMap fun x => match x with | .core n => some n | .die _ => none
def State.guest? (s : State) (die line : Nat) : Option GuestCopy := (s.die die).guests.get? line
def State.modGuest (s : State) (die line : Nat) (f : GuestCopy → GuestCopy) : State :=
  s.modDie die fun d => { d with guests := d.guests.modify line f }

/-- Slice key of a line: 32 × die + slice. -/
def State.sliceKey (s : State) (line : Nat) : Nat := 32 * s.homeDie (line * 128) + sliceOf (line * 128)
/-- The stamp a read of a line returns: of its last write, or the slice's floor (R115). -/
def State.stampOf (s : State) (line : Nat) : Clock :=
  (s.stamps.get? line).getD (s.floors.getD (s.sliceKey line) Clock.zero)

/-- The release-class operations of a die raise its own entry by one (R114, R126). -/
def State.raiseClock (s : State) (d : Nat) : State :=
  s.modDie d fun x => { x with clock := x.clock.put d (x.clock.get d + 1) }

/-! ## What a slice has room for (R94) -/

/-- The lines that a slice of a die holds (R94): home lines with an entry or a stamp, and guest copies
(marked true). -/
def State.sliceLines (s : State) (key : Nat) : List (Nat × Bool) :=
  let home := ((s.dir.map (·.1)) ++ (s.stamps.map (·.1)).filter fun l => (s.dir.get? l).isNone).filter fun l =>
    decide (s.sliceKey l = key)
  let guests := ((s.die (key / 32)).guests.map (·.1)).filter fun l => decide (32 * (key / 32) + sliceOf (l * 128) = key)
  home.map (·, false) ++ guests.map (·, true)

/-- Bytes of tile values that a die's slices hold as tier 4 (R176). -/
def State.tileL2 (s : State) (die : Nat) : Nat :=
  s.clus.foldl (fun acc p => if dieOfClu p.1 = die then
      p.2.names.foldl (fun acc n => if n.2.tier = 4 then acc + n.2.value.length else acc) acc
    else acc) 0

/-- The eviction of a line of a slice of a die, as the step that does it. -/
def evictionOf (die : Nat) (l : Nat × Bool) : Instr := if l.2 then .guestEviction die l.1 else .homeEviction l.1

/-- Home and guest lines share the slice's 6 MiB (R94) with the tile values that stand in L2, spread evenly over the die's
slices (log 31): of more than it holds, as many lines as are too many, a choice of the device, are evicted. -/
def State.trimSlice (s : State) (key : Nat) : State :=
  let ls := s.sliceLines key
  let extra := ls.length + (s.tileL2 (key / 32) + 4095) / 4096 - Config.sliceLines
  if extra = 0 then s
  else
    let going := (ls.filter fun l => s.pending.contains (evictionOf (key / 32) l)).length
    let (k, s) := s.draw
    let n := Config.freeChoice k % max 1 ls.length
    ((ls.drop n ++ ls.take n).take (extra - going)).foldl (fun s l => s.postOnce (evictionOf (key / 32) l)) s

/-- Every slice of a die evicts what it holds too much of. -/
def State.trimDie (s : State) (die : Nat) : State :=
  (List.range Config.slicesPerDie).foldl (fun s k => s.trimSlice (Config.slicesPerDie * die + k)) s

/-! ## Invalidation of an L1 (R105) -/

def State.l1? (s : State) (core line : Nat) : Option L1Line := (s.core core).l1.get? line
def State.setL1 (s : State) (core line : Nat) (l : L1Line) : State :=
  s.modCore core fun c => { c with l1 := c.l1.put line l }
def State.dropL1 (s : State) (core line : Nat) : State := s.modCore core fun c => { c with l1 := c.l1.del line }

/-- An L1 line that has just left state I. -/
def L1Line.fresh (scope ctx : Nat) : L1Line where
  st := .s
  wt := false
  valid := 0
  dirty := 0
  data := []
  dirtyAt := 0
  pins := []
  scope := scope
  ctx := ctx
  stamp := Clock.zero
  stale := 0
  stamps := []

/-- The words that unacknowledged write-through stores have written. -/
def L1Line.pinned (l : L1Line) : BitVec 32 := l.pins.foldl (fun m p => m ||| p.2) 0

/-- The words that a load may read from the line (R90, R105): the valid ones, but for those that are stale. -/
def L1Line.readable (l : L1Line) : BitVec 32 := l.valid &&& ~~~l.stale

/-- A line put back into an L1, or dropped where nothing of it is left: no valid word, no grant, no unacknowledged store
(R105). -/
def State.settleLine (s : State) (core line : Nat) (l : L1Line) : State :=
  if l.valid = 0 && l.st = .s && l.pins.isEmpty then s.dropL1 core line else s.setL1 core line l

/-- Clean words of a span lose valid in a core's L1 (R105); dirty words stay. The words of a store to a line homed on another
die stay valid until the home acknowledges it; DESIGN CHOICE (log 31): where an invalidation meets one it is stale, so that a
load fetches it anew (R130, R131), and it loses valid with the acknowledgement. -/
def State.dropWords (s : State) (core line first count : Nat) : State :=
  match s.l1? core line with
  | none => s
  | some l =>
    let span := spanMask first count &&& ~~~l.dirty
    let away := if dieOfCore core = s.homeDie (line * 128) then 0 else l.pinned
    s.settleLine core line { l with valid := l.valid &&& ~~~(span &&& ~~~away), stale := l.stale ||| (span &&& away &&& l.valid) }

/-- An invalidation that a write for a context caused reaches a core's L1, which may hold no copy (R104, R105, R207). -/
def State.dropSpan (s : State) (core line first count ctx : Nat) : State :=
  (s.pmc core 0x0B 1 ctx).dropWords core line first count

/-- The cores of a die that an invalidation of a guest copy reaches (R107): those its entry stands for, and any other that
holds the line. -/
def State.guestCores (s : State) (die line : Nat) : List Nat :=
  let named := match s.guest? die line with
    | some g => (g.dir.sharers die).filterMap fun x => match x with | .core n => some n | .die _ => none
    | none => []
  (named ++ (s.cores.filter fun p => decide (dieOfCore p.1 = die) && (p.2.l1.get? line).isSome).map (·.1)).eraseDups

/-- Drop a span from every L1 of a die but the writer's (R117). -/
def State.dropDie (s : State) (die line first count : Nat) (writer : Option Nat) (ctx : Nat) : State :=
  ((s.guestCores die line).filter fun n => some n ≠ writer).foldl (fun s n => s.dropSpan n line first count ctx) s

/-- A write-through store of a core leaves the line free for replacement: its home has acknowledged it, or it is lost. Words
that are stale and held by no other store lose valid. -/
def State.unpin (s : State) (core line id : Nat) : State :=
  match s.l1? core line with
  | none => s
  | some l =>
    let l := { l with pins := l.pins.filter fun p => p.1 ≠ id }
    s.settleLine core line { l with valid := l.valid &&& ~~~(l.stale &&& ~~~l.pinned), stale := l.stale &&& l.pinned }

/-! ## The apply queue (R116, R117) -/

/-- The request of an invalidation or fill for a line's span. -/
def mkReq (core line : Nat) (span : Nat × Nat) (scope : Nat) : LineReq := ⟨core, line, span.1, span.2, scope⟩

def ApplyEnt.line? : ApplyEnt → Option Nat
  | .inval _ _ l _ _ _ _ _ => some l
  | .marker .. => none

/-- An entry enters the apply queue of a die, which then applies what is ready (R117). -/
def State.enterApply (s : State) (e : Nat) (x : ApplyEnt) : State :=
  (s.modDie e fun d => { d with apply := d.apply ++ [x] }).postOnce (.applyEntry e)

/-- An invalidation enters die e's apply queue. One of a write of the epoch that is open on the die `o` it issued on is counted
there for the next marker (R116); one that an eviction causes is no write's, and no marker counts it. -/
def State.sendInval (s : State) (o e line : Nat) (span : Nat × Nat) (stamp : Clock) (writer : Option Nat) (ctx : Nat)
    (write : Bool) : State :=
  let counted := write && decide (stamp.get o = (s.die o).clock.get o)
  let s := if counted then s.modDie o fun d => { d with sent := d.sent.put e (d.sent.getD e 0 + 1) } else s
  s.enterApply e (.inval o stamp line span.1 span.2 writer ctx counted)

/-- Whether an entry's condition holds on die e, with the earlier entries of the queue given (R117). A marker's third
condition reads how many of the invalidations that it counts the die has applied. -/
def applyReady (d : Die) (e : Nat) (earlier : List ApplyEnt) : ApplyEnt → Bool
  | .inval _ st line _ _ _ _ _ => d.clock.dominates e st && !(earlier.any fun x => x.line? = some line)
  | .marker o n st count =>
    d.clock.get o = n - 1 && ((List.range 4).all fun k => k = e || k = o || serialGe (d.clock.get k) (st.get k)) &&
    decide (count ≤ d.applied.getD o 0)

/-- The first entry whose condition holds, and the queue without it. -/
def pickApply (d : Die) (e : Nat) : List ApplyEnt → List ApplyEnt → Option (ApplyEnt × List ApplyEnt)
  | _, [] => none
  | earlier, x :: rest =>
    if applyReady d e earlier x then some (x, earlier ++ rest) else pickApply d e (earlier ++ [x]) rest

/-- Whether a core's L1 keeps words of a line. -/
def State.keeps (s : State) (core line : Nat) : Bool :=
  match s.l1? core line with | some l => decide (l.valid ≠ 0) | none => false

/-- An invalidation is applied on die e (R107, R117): the span is cleared in the guest copy and in every local L1 but the
writer's. A coarse entry of the guest copy returns to exact mode as a home's does (R104): it lists the writer or nobody, and
so, DESIGN CHOICE (log 31), its other cores lose the whole line. -/
def State.applyInval (s : State) (e line : Nat) (span : Nat × Nat) (writer : Option Nat) (ctx : Nat) : State :=
  let coarse := match s.guest? e line with | some g => g.dir.coarse | none => false
  let cut := if coarse then (0, 32) else span
  let s := s.dropDie e line cut.1 cut.2 writer ctx
  let kept := match writer with
    | some c => if decide (dieOfCore c = e) && s.keeps c line then [Sharer.core c] else []
    | none => []
  s.modGuest e line fun g =>
    { g with valid := g.valid &&& ~~~(spanMask span.1 span.2), dir := if coarse then g.dir.exact kept else g.dir }

/-- Apply one entry of die e's apply queue, if one is ready: an invalidation, or a marker, which raises the origin's clock
entry (R117). -/
def State.applyOne (s : State) (e : Nat) : Option State :=
  let d := s.die e
  match pickApply d e [] d.apply with
  | none => none
  | some (x, rest) =>
    let s := s.modDie e fun d => { d with apply := rest }
    some (match x with
    | .marker o n _ _ => s.modDie e fun d => { d with clock := d.clock.put o n, applied := d.applied.put o 0 }
    | .inval o _ line first count w ctx counted =>
      let s := if counted then s.modDie e fun d => { d with applied := d.applied.put o (d.applied.getD o 0 + 1) } else s
      s.applyInval e line (first, count) w ctx)

/-- Apply as many entries as are ready, at most `fuel`. -/
def State.applyAll (s : State) (e : Nat) : Nat → State
  | 0 => s
  | fuel + 1 => match s.applyOne e with | none => s | some s' => State.applyAll s' e fuel

/-- A die's apply queue holds an invalidation of the line. -/
def State.applyHolds (s : State) (e line : Nat) : Bool := (s.die e).apply.any fun x => x.line? = some line

/-! ## Performing a write at home (R106, R116) -/

/-- The sharer that stands for a core at a line's home: the core itself, or its die (R102). -/
def State.sharerFor (s : State) (core line : Nat) : Sharer :=
  if dieOfCore core = s.homeDie (line * 128) then .core core else .die (dieOfCore core)

/-- Whom an invalidation of a line goes to: every sharer (R104), and, DESIGN CHOICE (log 31), every guest die that has an
earlier invalidation of the line in its apply queue: it has acknowledged that one, so the entry may have forgotten it, and
it still reads the old words (R130). -/
def State.targets (s : State) (line : Nat) : List Sharer :=
  let home := s.homeDie (line * 128)
  (s.sharersOf line ++ ((List.range 4).filter fun d => decide (d ≠ home) && s.applyHolds d line).map Sharer.die).eraseDups

/-- Invalidate a span at every target but the writer (R106): in each L1 of the home die in the same step, so that the die's
loads agree on one order of writes (R131), and by an entry in the apply queue of each guest die. The writer's own die
hears of it too, for its other cores. -/
def State.spread (s : State) (line : Nat) (span : Nat × Nat) (o : Nat) (stamp : Clock) (writer : Option Nat) (ctx : Nat)
    (write : Bool) : State :=
  (s.targets line).foldl (fun s x =>
    match x with
    | .core n => if some n = writer then s else s.dropSpan n line span.1 span.2 ctx
    | .die d => s.sendInval o d line span stamp writer ctx write) s

/-- Invalidate for a write, and return a coarse entry to exact mode: it lists only the writer, if its L1 keeps words of the
line, else the line is in U (R104). DESIGN CHOICE (log 31): the whole line of a coarse entry is invalidated, since the entry
forgets every other sharer and a directory is inclusive (R103). -/
def State.invalidate (s : State) (line : Nat) (span : Nat × Nat) (o : Nat) (stamp : Clock) (writer : Option Nat) (ctx : Nat) :
    State :=
  let e := s.dirOf line
  if !e.coarse then s.spread line span o stamp writer ctx true
  else
    let s := s.spread line (0, 32) o stamp writer ctx true
    s.setDir line (e.exact (match writer with
      | some c => if s.keeps c line then [s.sharerFor c line] else []
      | none => []))

/-- A request reaches the home slice of a line (R208, code 0x40), on behalf of a context. -/
def State.request (s : State) (line ctx : Nat) : State := s.dpmc (s.homeDie (line * 128)) 0x40 1 [ctx]

/-- Perform bytes of one line at home: a write that issued on die `o` with the stamp it carries, by `writer` where a core's
L1 wrote it, for a context; then invalidate the span elsewhere. -/
def State.performBytes (s : State) (line : Nat) (bs : List (Nat × Byte)) (stamp : Clock) (o : Nat) (writer : Option Nat)
    (ctx : Nat) : State :=
  if bs.isEmpty then s
  else
    let s := s.homePut bs
    let s := { s with stamps := s.stamps.put line stamp }
    (s.invalidate line (spanOf bs) o stamp writer ctx).trimSlice (s.sliceKey line)

/-! ## Watches (R111–R113, R184) -/

/-- The objects, still ARMED or being revoked, whose watches a write of these bytes hits (R112). -/
def State.watchHits (s : State) (addrs : List Nat) : List Nat :=
  (s.watch.filter fun w =>
    ((match s.objs.get? w.obj with | some o => o.armed | none => false) ||
      (match s.revokes.get? w.obj with | some r => !r.done | none => false)) &&
    addrs.any fun a => w.first ≤ a / 4 && a / 4 ≤ w.last && s.sliceKey (lineOf a) = w.slice).map (·.obj)

/-- Start the revocation of an object, once (R188). -/
def State.startRevoke (s : State) (obj die : Nat) (free : Bool) : State :=
  match s.revokes.get? obj with
  | some r => { s with revokes := s.revokes.put obj { r with free := r.free || free } }
  | none => ({ s with revokes := s.revokes.put obj ⟨die, [], false, free⟩ }.dpmc die 0x47 1 [(s.objs.get? obj).elim 64 (·.ctx)]).post (.revocation obj die)

/-- The held request of a line, if there is one. -/
def State.heldOn (s : State) (line : Nat) : Option (Nat × Held) := s.held.find? fun p => p.2.line = line

/-- A request that satisfies `p` is in flight, or held or queued at its home slice. -/
def State.underway (s : State) (p : Instr → Bool) : Bool := s.pending.any p || s.held.any fun q => (q.2.req :: q.2.behind).any p

/-- A request queues behind a held one of its line (R113). -/
def State.queueBehind (s : State) (k : Nat) (h : Held) (req : Instr) : State :=
  { s with held := s.held.put k { h with behind := h.behind ++ [req] } }

/-- A request is held at its home slice for the revocations of some objects (R113), or reserves its line where there are
none (R378). -/
def State.hold (s : State) (line : Nat) (req : Instr) (objs : List Nat) : State :=
  let die := s.homeDie (line * 128)
  let s := if objs.isEmpty then s else objs.foldl (fun s o => s.dpmc die 0x46 1 [(s.objs.get? o).elim 64 (·.ctx)]) s
  let (k, s) := s.serial
  objs.foldl (fun s o => s.startRevoke o die false) { s with held := s.held.put k ⟨line, req, objs, []⟩ }

/-- What a write-class request meets before it is performed (R113): it queues behind a held request of its line, or it is
held and starts the revocations its hits call for, or none of these and it is performed. -/
def State.gate (s : State) (line : Nat) (addrs : List Nat) (req : Instr) (perform : State → State) : State :=
  match s.heldOn line with
  | some (k, h) => s.queueBehind k h req
  | none =>
    let objs := (s.watchHits addrs).eraseDups
    if objs.isEmpty then perform s else s.hold line req objs

/-- A write is issued: it is open until it is performed at its home or in an L1. One to an aperture counts as accepted by
its home slice (R116), which then waits for the link (R421). -/
def State.openWrite (s : State) (id die : Nat) (posted : Bool) : State :=
  { s with openWrites := s.openWrites.put id ⟨die, posted⟩ }
/-- Whether a write is still open. -/
def State.writeOpen (s : State) (id : Nat) : Bool := (s.openWrites.get? id).isSome
/-- A write serial number is complete: performed at home. -/
def State.closeWrite (s : State) (id : Nat) : State := { s with openWrites := s.openWrites.del id }

/-! ## Dirty words, write-backs and forced publish (R105, R106, R108) -/

/-- The dirty bytes of an L1 line, at their physical addresses. -/
def L1Line.dirtyBytes (l : L1Line) (line : Nat) : List (Nat × Byte) :=
  (List.range 128).filterMap fun o =>
    if l.dirty.getLsbD (o / 4) then some (128 * line + o, l.data.getD o 0) else none

/-- Perform a write-back at home (R106), with the grant given up where the L1 replaced the line. -/
def State.performBack (s : State) (r : StoreReq) (giveUp : Bool) : State :=
  let s := (s.request r.line r.ctx).performBytes r.line r.bytes r.stamp r.agent.dieOf r.core? r.ctx
  let s :=
    if giveUp then
      match r.core? with
      | none => s
      | some c =>
        let s := s.modGuest (dieOfCore c) r.line fun g => { g with dir := g.dir.giveUp (.core c) }
        match s.sharerFor c r.line with
        | .core n => s.setDir r.line ((s.dirOf r.line).giveUp (.core n))
        | .die d =>
          if (match s.guest? d r.line with | some g => decide (g.dir.st = DirSt.n) | none => false) then s
          else
            let e := s.dirOf r.line
            s.setDir r.line { e.giveUp (.die d) with ptrs := e.ptrs,
                                                     st := if e.st = DirSt.n && (e.narrow.erase (Sharer.die d)).isEmpty then DirSt.s else e.st }
    else s
  s.closeWrite r.id

/-- A write-back of dirty words at home, past the watch table (R106, R112). -/
def State.homeWriteBack (s : State) (r : StoreReq) (giveUp : Bool) : State :=
  s.gate r.line (r.bytes.map (·.1)) (.writeBack r giveUp) fun s => s.performBack r giveUp

/-- Write-backs of a line that are on their way reach the home before anything that follows them (R108). -/
def State.finishBacks (s : State) (line : Nat) : State :=
  let mine := s.pending.filter fun e => match e with | .writeBack r _ => decide (r.line = line) | _ => false
  mine.foldl (fun s e => match e with | .writeBack r g => (s.unpost e).performBack r g | _ => s) s

/-- A write-back of a core's line. -/
def backOf (core line : Nat) (e : Instr) : Bool :=
  match e with | .writeBack r _ => r.agent = .core core && r.line = line | _ => false
/-- A core's own write-backs of a line reach the home before the requests that it makes after them. -/
def State.ownBacks (s : State) (core line : Nat) : State :=
  (s.pending.filter (backOf core line)).foldl (fun s e => match e with
    | .writeBack r g => (s.unpost e).homeWriteBack r g
    | _ => s) s

/-- The cores that hold a narrow grant on a line, those behind guest dies included (R107, R108). -/
def State.narrowCores (s : State) (line : Nat) : List Nat :=
  (s.dirOf line).narrow.flatMap fun x =>
    match x with
    | .core n => [n]
    | .die d => match s.guest? d line with | some g => g.narrowCores | none => []

/-- One holder answers a forced publish (R108): its dirty words are performed, with their invalidations; a demotion ends its
grant. Its core counts the answer (R207), and the line's context one with dirty words (R108). -/
def State.publishCore (s : State) (line n : Nat) (demote : Bool) : State :=
  match s.l1? n line with
  | none => s.pmc n 0x0A 1 64
  | some l =>
    let bs := l.dirtyBytes line
    let s := (s.setL1 n line { l with dirty := 0, st := if demote then .s else l.st }).pmc n 0x0A 1 l.ctx
    if bs.isEmpty then s
    else (s.countCtx (dieOfCore n) l.ctx 0x871).performBytes line bs l.stamp (dieOfCore n) (some n) l.ctx

/-- Forced publish of a line (R108): write-backs on their way and then every narrow holder's dirty words are performed, each
followed by its invalidations; with `demote` the grants end and the line is in S (R103, R106). -/
def State.publish (s : State) (line : Nat) (demote : Bool) : State :=
  if (s.dirOf line).st ≠ .n then s
  else
    let ctxs := (s.narrowCores line).filterMap fun n => (s.l1? n line).map (·.ctx)
    let s := (s.dpmc (s.homeDie (line * 128)) 0x49 1 ctxs).finishBacks line
    let s := (s.narrowCores line).foldl (fun s n => s.publishCore line n demote) s
    if demote then
      let s := s.setDir line (s.dirOf line).demoted
      { s with dies := s.dies.map fun (k, d) =>
          (k, { d with guests := d.guests.modify line fun g => { g with dir := g.dir.demoted } }) }
    else s

/-- Whether a requester lies outside a page's scope at a line in N (R106): another core for CORE, a core of another
cluster for CLUSTER; guest dies and engines always, and a STREAM access, which meets the dirty words at home (R101). -/
def State.outside (s : State) (line : Nat) (who : Agent) (scope : Nat) : Bool :=
  match who with
  | .die _ => true
  | .core c =>
    if dieOfCore c ≠ s.homeDie (line * 128) || scope = Scope.stream then true
    else if scope = Scope.core then (s.narrowCores line).any fun n => n ≠ c
    else if scope = Scope.cluster then (s.narrowCores line).any fun n => cluOfCore n ≠ cluOfCore c
    else false

/-- Publish before serving a request from outside scope (R106). -/
def State.publishFor (s : State) (line : Nat) (who : Agent) (scope : Nat) : State :=
  if s.outside line who scope then s.publish line false else s

/-! ## Lines of an L1 (R90, R91, R105) -/

/-- Guard lines that the teams of a core hold in its L1 (R92). -/
def State.guardLines (s : State) (core : Nat) : Nat :=
  s.teams.foldl (fun n p => if p.2.core = core && p.2.place = .resident then n + p.2.gscopes.length else n) 0

/-- One of some lines of an L1, a choice of the device, is replaced (R105): from N it writes its dirty words back and gives up
its grant. None where each holds words of an unacknowledged store, which cannot be replaced. -/
def State.replaceOne (s : State) (core : Nat) (ls : Tab L1Line) : Option State :=
  let cands := ls.filter fun p => p.2.pins.isEmpty
  let (k, s) := s.draw
  match cands[Config.freeChoice k % max 1 cands.length]? with
  | none => none
  | some (v, l) =>
    let s := s.dropL1 core v
    if l.st = .n then
      let (id, s) := s.serial
      some ((s.openWrite id (dieOfCore core) false).post
        (.writeBack ⟨id, .core core, l.ctx, l.scope, v, l.dirtyBytes v, false, l.stamp, none⟩ true))
    else some s

/-- Make room for a line (R90, R92): in its set (PA [13:7], 16 ways), and among the 2,048 lines, of which guard lines hold
some. -/
def State.makeRoom (s : State) (core line : Nat) : Option State :=
  let others := (s.core core).l1.filter fun p => p.1 ≠ line
  let set := others.filter fun p => p.1 % 128 = line % 128
  if set.length ≥ 16 then s.replaceOne core set
  else if others.length + s.guardLines core ≥ Config.l1Lines then s.replaceOne core others
  else some s

/-- Guard lines take their room from ordinary ones, of which at least 1,024 remain (R92), at most `fuel`. DESIGN CHOICE
(log 31): a guard line may stand in any set. -/
def State.guardRoom (s : State) (core : Nat) : Nat → State
  | 0 => s
  | fuel + 1 =>
    if (s.core core).l1.length + s.guardLines core ≤ Config.l1Lines then s
    else match s.replaceOne core (s.core core).l1 with
      | some s => State.guardRoom s core fuel
      | none => s

/-- The line of an L1 with a line taken for it where it had none; none where no way is free. -/
def State.takeLine (s : State) (core line scope ctx : Nat) : Option (L1Line × State) :=
  match s.l1? core line with
  | some l => some (l, s)
  | none => (s.makeRoom core line).map fun s => (L1Line.fresh scope ctx, s)

/-- The words of a line that an uncorrectable error keeps from being read (R97). -/
def State.badWords (s : State) (line : Nat) : BitVec 32 :=
  (if s.mgmt.badBursts.contains (128 * line) then 0x0000FFFF else 0) |||
  (if s.mgmt.badBursts.contains (128 * line + 64) then 0xFFFF0000 else 0)

/-- A core's own stores that are not performed, with their serial numbers: waiting for a grant, in flight, or held or
queued at their home. -/
def State.ownStores (s : State) (core : Nat) : List (Nat × List (Nat × Byte)) :=
  let sent (e : Instr) : Option (Nat × List (Nat × Byte)) :=
    match e with
    | .writeThroughStore r => if r.agent = .core core then some (r.id, r.bytes) else none
    | .writeBack r _ => if r.agent = .core core then some (r.id, r.bytes) else none
    | _ => none
  ((s.core core).waiting.map fun w => (w.id, w.bytes)) ++ s.pending.filterMap sent ++
    s.held.flatMap fun p => (p.2.req :: p.2.behind).filterMap sent

/-- The latest own byte of a core that is not performed at its home (R124), the one of the highest serial number. -/
def State.ownByte? (s : State) (core pa : Nat) : Option Byte :=
  ((s.ownStores core).foldl (fun (acc : Option (Nat × Byte)) w =>
    match w.2.find? (fun p => p.1 = pa) with
    | some p => (match acc with | some (n, _) => if w.1 > n then some (w.1, p.2) else acc | none => some (w.1, p.2))
    | none => acc) none).map (·.2)

/-- Install words that an L1 lacks (R90), each with the stamp that comes with it (R118), and with the core's own bytes that are
not performed yet, since their performance will not invalidate the core's copy (R124). Where no way is free the L1 keeps
no copy. -/
def State.installL1 (s : State) (core line : Nat) (words : BitVec 32) (ctx scope : Nat) (rd : Nat → Byte) (st : Nat → Clock) :
    State :=
  match s.takeLine core line scope ctx with
  | none => s
  | some (l, s) =>
    let fresh := words &&& ~~~l.readable &&& ~~~(s.badWords line)
    if fresh = 0 then s
    else
      let data := (List.range 128).foldl (fun d o =>
        if fresh.getLsbD (o / 4) then d.put o ((s.ownByte? core (128 * line + o)).getD (rd (128 * line + o))) else d) l.data
      let stamps := (List.range 32).foldl (fun t w => if fresh.getLsbD w then t.put w (st w) else t) l.stamps
      s.setL1 core line { l with valid := l.valid ||| fresh, stale := l.stale &&& ~~~fresh, data := data, stamps := stamps,
                                 ctx := ctx }

/-! ## Fills (R105–R107, R90) -/

/-- A sharer is recorded at a line's home, if it can be (R104). -/
def State.recordAt (s : State) (line : Nat) (x : Sharer) : Option State :=
  ((s.dirOf line).share x).map fun e => (s.setDir line e).trimSlice (s.sliceKey line)

/-- Words of a guest copy come from the home (R107): other cores' dirty words are published first (R106). -/
def State.fillGuest (s : State) (die line ctx : Nat) (need : BitVec 32) : State :=
  let s := (s.request line ctx).publish line false
  match s.recordAt line (.die die) with
  | none => s
  | some s =>
    let g := (s.guest? die line).getD GuestCopy.empty
    let fresh := need &&& ~~~g.valid &&& ~~~(s.badWords line)
    let data := (List.range 128).foldl (fun d o =>
      if fresh.getLsbD (o / 4) then d.put o (s.homeByte (128 * line + o)) else d) g.data
    let st := s.stampOf line
    let stamps := (List.range 32).foldl (fun t w => if fresh.getLsbD w then t.put w st else t) g.stamps
    (s.modDie die fun d =>
      { d with guests := d.guests.put line { g with valid := g.valid ||| fresh, data := data, stamps := stamps } }).trimSlice
      (32 * die + sliceOf (128 * line))

/-- The guest copy of a line on a die holds some words. -/
def State.guestHas (s : State) (die line : Nat) (need : BitVec 32) : Bool :=
  match s.guest? die line with | some g => decide (need &&& ~~~g.valid = 0) | none => false
/-- The apply queue of a die holds an invalidation of the line for a write of that die itself. -/
def State.ownReturns (s : State) (e line : Nat) : Bool :=
  (s.die e).apply.any fun x => match x with | .inval o _ l _ _ _ _ _ => decide (o = e) && decide (l = line) | .marker .. => false

/-- The guest copy records a core and serves its valid words; where no pointer is left the L1 keeps no copy (R104). -/
def State.serveGuest (s : State) (r : LineReq) (ctx : Nat) (need : BitVec 32) : State :=
  let mine := dieOfCore r.core
  match s.guest? mine r.line with
  | none => s
  | some g =>
    match g.dir.share (.core r.core) with
    | none => s
    | some e =>
      (s.modGuest mine r.line fun g => { g with dir := e }).installL1 r.core r.line (need &&& g.valid) ctx r.scope
        (fun a => g.data.getD (a % 128) 0) fun w => g.stamps.getD w Clock.zero

/-- Serve a fill of a span to a core: at the home, or through the guest copy of the core's die, which serves its valid words
as they stand and fetches missing ones (R107). None when a fetched fill must wait behind an unapplied invalidation of the
line. Where no pointer is left the L1 keeps no copy (R104). DESIGN CHOICE (log 31): valid words too wait for an unapplied
invalidation of a write of the die itself, so that a lane reads its own writes (R124); a guest copy in GN serves its valid
words as one in G does. -/
def State.fill (s : State) (r : LineReq) (ctx : Nat) : Option State :=
  let home := s.homeDie (r.line * 128)
  let mine := dieOfCore r.core
  let need := spanMask r.first r.count
  if home = mine then
    let s := (s.request r.line ctx).publishFor r.line (.core r.core) r.scope
    match s.recordAt r.line (.core r.core) with
    | none => some s
    | some s => let st := s.stampOf r.line; some (s.installL1 r.core r.line need ctx r.scope s.homeByte fun _ => st)
  else
    let s := if s.ownReturns mine r.line || !s.guestHas mine r.line need then s.applyAll mine (s.die mine).apply.length else s
    if s.ownReturns mine r.line then none
    else if s.guestHas mine r.line need then some (s.serveGuest r ctx need)
    else if s.applyHolds mine r.line then none
    else some ((s.fillGuest mine r.line ctx need).serveGuest r ctx need)

/-- The maximal runs of set bits of a word mask: first word and count. -/
def wordRuns (m : BitVec 32) : List (Nat × Nat) :=
  (((List.range 32).foldl (fun acc w =>
    if m.getLsbD w then
      match acc with
      | (f, n) :: rest => if f + n = w then (f, n + 1) :: rest else (w, 1) :: acc
      | [] => [(w, 1)]
    else acc) ([] : List (Nat × Nat)))).reverse

/-- Request the words of a mask that a core's L1 lacks (R90), one request for each run. -/
def State.fillWords (s : State) (core line : Nat) (words : BitVec 32) (scope ctx : Nat) : Option State :=
  let missing := match s.l1? core line with | some l => words &&& ~~~l.readable | none => words
  (wordRuns missing).foldl (fun o r => o.bind fun s => s.fill (mkReq core line r scope) ctx) (some s)

/-- The byte a core's load is served below its L1: the guest copy of its die if it holds the word, else the home. -/
def State.belowByte (s : State) (core pa : Nat) : Byte :=
  let mine := dieOfCore core
  if s.homeDie pa = mine then s.homeByte pa
  else match s.guest? mine (lineOf pa) with
    | some g => if g.valid.getLsbD ((pa % 128) / 4) then g.data.getD (pa % 128) 0 else s.homeByte pa
    | none => s.homeByte pa

/-- The stamp that goes with it (R118): the one the guest copy keeps, or that of the line at its home. -/
def State.belowStamp (s : State) (core pa : Nat) : Clock :=
  let mine := dieOfCore core
  if s.homeDie pa = mine then s.stampOf (lineOf pa)
  else match s.guest? mine (lineOf pa) with
    | some g => if g.valid.getLsbD ((pa % 128) / 4) then g.stamps.getD ((pa % 128) / 4) Clock.zero else s.stampOf (lineOf pa)
    | none => s.stampOf (lineOf pa)

/-! ## Words that a core's store writes into its L1 (R91, R105) -/

/-- The words a store touches, and those it writes whole. -/
def touchedWords (bs : List (Nat × Byte)) : BitVec 32 := bs.foldl (fun m p => m ||| (1#32 <<< ((p.1 % 128) / 4))) 0
def wholeWords (bs : List (Nat × Byte)) : BitVec 32 :=
  (List.range 32).foldl (fun m w =>
    if (bs.filter fun p => (p.1 % 128) / 4 = w).length = 4 then m ||| (1#32 <<< w) else m) 0

/-- Bytes written into an L1 line (R91): words already valid take the bytes; a whole word written becomes valid, with the
stamp of its store. -/
def L1Line.takeBytes (l : L1Line) (bs : List (Nat × Byte)) (stamp : Clock) : L1Line :=
  let whole := wholeWords bs
  let words := touchedWords bs &&& (l.valid ||| whole)
  { l with data := bs.foldl (fun d p => if words.getLsbD ((p.1 % 128) / 4) then d.put (p.1 % 128) p.2 else d) l.data,
           valid := l.valid ||| words, stale := l.stale &&& ~~~whole,
           stamps := (List.range 32).foldl (fun t w => if whole.getLsbD w then t.put w stamp else t) l.stamps }

/-- A narrow store written into a line in N (R105): its words become valid and dirty, and the line remembers the clock of
its die as the latest of its dirty stores issued (R115). -/
def L1Line.takeDirty (l : L1Line) (bs : List (Nat × Byte)) (now scope ctx : Nat) (stamp : Clock) : L1Line :=
  { (l.takeBytes bs stamp) with dirty := l.dirty ||| touchedWords bs, dirtyAt := if l.dirty = 0 then now else l.dirtyAt,
                                scope := scope, ctx := ctx, stamp := l.stamp.max stamp }

/-- Send a store through to its home, updating the writer's L1 (R105): its written words are pinned there until the home
acknowledges, and from I the request asks to be recorded. -/
def State.sendThrough (s : State) (core : Nat) (r : StoreReq) : State :=
  let had := match s.l1? core r.line with | some l => decide (l.valid ≠ 0) | none => false
  let s := match s.l1? core r.line with
    | some l => s.setL1 core r.line (pin l)
    | none =>
      if wholeWords r.bytes = 0 then s
      else match s.takeLine core r.line r.scope r.ctx with
        | none => s
        | some (l, s) => s.setL1 core r.line (pin l)
  s.post (.writeThroughStore { r with sharer := r.sharer || !had })
where
  /-- The line with the store's bytes, pinned. -/
  pin (l : L1Line) : L1Line :=
    let l := l.takeBytes r.bytes r.stamp
    { l with pins := l.pins ++ [(r.id, touchedWords r.bytes &&& l.valid)] }

/-! ## Grants (R105, R106) -/

/-- The stores of a core that wait for a grant of a line. -/
def Core.waitingOn (c : Core) (line : Nat) : List WaitingStore := c.waiting.filter fun w => w.line = line
/-- A grant that a core has been given still stands: the line's directories record it, and the core has not given it up. -/
def State.grantStands (s : State) (core line : Nat) : Bool :=
  (s.narrowCores line).contains core && !(s.pending.any fun e => backOf core line e && (match e with | .writeBack _ g => g | _ => false))
/-- NREQ for the stores of a core that wait for a grant of a line (R105). -/
def State.askGrant (s : State) (core line : Nat) : State :=
  match (s.core core).waitingOn line with
  | [] => s
  | w :: ws => s.postOnce (.nreq (mkReq core line (spanOf ((w :: ws).flatMap (·.bytes))) w.scope))

/-- NGRANT reaches the L1 (R105): the line is in N and its waiting stores are written and dirty, a word written in part
being filled first (R91). Where no way is free, or the fill must wait, it is taken later. A grant that stands no longer
is none: stores that wait ask anew. -/
def State.takeGrant (s : State) (core line : Nat) : State :=
  if !s.grantStands core line then s.askGrant core line
  else match s.takeLine core line 0 0 with
  | none => s.post (.ngrant core line)
  | some (l, s) =>
    let s := s.setL1 core line { l with st := .n, wt := false }
    let mine := (s.core core).waitingOn line
    let (scope, ctx) := match mine with | w :: _ => (w.scope, w.ctx) | [] => (l.scope, l.ctx)
    match s.fillWords core line (mine.foldl (fun m w => m ||| (touchedWords w.bytes &&& ~~~(wholeWords w.bytes))) 0) scope ctx with
    | none => s.post (.ngrant core line)
    | some s =>
      let s := s.modCore core fun c => { c with waiting := c.waiting.filter fun w => w.line ≠ line }
      let now := s.ns
      let s := mine.foldl (fun s w =>
        let s := match s.l1? core line with
          | some l => s.setL1 core line (l.takeDirty w.bytes now w.scope w.ctx w.stamp)
          | none => s
        s.closeWrite w.id) s
      s.post (.narrowWritebackTimer core line)

/-- WTGRANT reaches the L1 (R105): the line is in S with the WT attribute, and its waiting stores go through. -/
def State.takeWtGrant (s : State) (core line : Nat) : State :=
  match s.takeLine core line 0 0 with
  | none => s.post (.wtgrant core line)
  | some (l, s) =>
    let mine := (s.core core).waitingOn line
    let s := s.modCore core fun c => { c with waiting := c.waiting.filter fun w => w.line ≠ line }
    let s := s.setL1 core line { l with wt := true }
    mine.foldl (fun s w =>
      s.sendThrough core { id := w.id, agent := .core core, ctx := w.ctx, scope := w.scope, line := line,
                           bytes := w.bytes, sharer := false, stamp := w.stamp, posted := none }) s

/-- Grants of a line to some cores that are on their way arrive before a demotion does (R103, R106, R111). One that cannot be
taken then never is: its stores ask anew. -/
def State.deliverGrants (s : State) (line : Nat) (to_ : Nat → Bool) : State :=
  let mine (s : State) := s.pending.filter fun e => match e with | .ngrant c l => decide (l = line) && to_ c | _ => false
  let s := (mine s).foldl (fun s e => match e with | .ngrant c _ => (s.unpost e).takeGrant c line | _ => s) s
  (mine s).foldl (fun s e => match e with | .ngrant c _ => (s.unpost e).askGrant c line | _ => s) s

/-- Forced publish with demotion of a line (R103, R106). -/
def State.demote (s : State) (line : Nat) : State :=
  if (s.dirOf line).st ≠ .n then s else (s.deliverGrants line fun _ => true).publish line true

/-! ## The requests themselves -/

/-- Whether an access by the bank or an engine may be performed at this aperture: links up or not an aperture. -/
def State.linkOf (s : State) (pa : Nat) : Option Nat :=
  if isFabricAp pa then some (apPort (s.apEntry 0 (apIndex pa))) else none
def State.linkState (s : State) (l : Nat) : Link := s.mgmt.links.getD l .up

/-- The posted-store entry of a store is freed (R419). -/
def State.freePosted (s : State) (r : StoreReq) : State :=
  match r.core?, r.posted with
  | some c, some tag => s.modCore c fun k => { k with posted := k.posted.del tag }
  | _, _ => s

/-- The writer of a store at its home (R105): recorded as a sharer if it asks, or if its L1 holds words of the line; a line in U
stays in U (R106). DESIGN CHOICE (log 31): where no pointer is left (R104) the L1 gives up its words, so that no copy is
unrecorded. -/
def State.recordWriter (s : State) (c : Nat) (r : StoreReq) : State :=
  let s := s.unpin c r.line r.id
  if !(r.sharer || s.keeps c r.line) || r.scope = Scope.stream then s
  else
    let x := s.sharerFor c r.line
    match (s.dirOf r.line).add x with
    | none => s.dropWords c r.line 0 32
    | some e =>
      let s := (s.setDir r.line e).trimSlice (s.sliceKey r.line)
      match x with
      | .core _ => s
      | .die d => s.modGuest d r.line fun g => { g with dir := (g.dir.add (.core c)).getD g.dir }

/-- A write-through store performed at its home (R106), past the watch table: dirty words are published where the writer is
outside scope, the store is performed, and its span is invalidated elsewhere. A STREAM store has not written its own L1. -/
def State.performStore (s : State) (r : StoreReq) : State :=
  let s := (s.request r.line r.ctx).publishFor r.line r.agent r.scope
  let s := match r.core? with | some c => s.recordWriter c r | none => s
  let s := s.performBytes r.line r.bytes r.stamp r.agent.dieOf (if r.scope = Scope.stream then none else r.core?) r.ctx
  let s := match r.core?, r.posted with
    | some c, some tag => s.post (.postedStoreAck c tag)
    | _, _ => s
  s.closeWrite r.id

/-- A store that waits for a link stays before the later stores that wait for it, so that stores to one location keep their
order (R122, R123). -/
def State.waitForLink (s : State) (l : Nat) (r : StoreReq) : State :=
  let (mine, rest) := s.pending.partition fun e => match e with
    | .writeThroughStore q => s.linkOf (128 * q.line) = some l
    | _ => false
  { s with pending := rest ++ .writeThroughStore r :: mine }

/-- A write-through store, or an engine's or the host's write, at its home (R106). A store to a link that is down is lost
(R419); one to a link that retrains waits. -/
def State.homeStore (s : State) (r : StoreReq) : State :=
  match (s.linkOf (128 * r.line)).map fun l => (l, s.linkState l) with
  | some (l, .retraining _) => s.waitForLink l r
  | some (l, .down) =>
    let s := match r.core? with | some c => s.unpin c r.line r.id | none => s
    ((s.modMgmt fun m => { m with lost := m.lost.put l (m.lost.getD l [] ++ [r.id]) }).closeWrite r.id).freePosted r
  | _ => s.gate r.line (r.bytes.map (·.1)) (.writeThroughStore r) fun s => s.performStore r

/-- A narrow-grant request at home (R106): NGRANT for an unwatched, exact entry with fewer than four holders; otherwise
the watch check and WTGRANT. It goes by the guest slice of the core's die, which records it (R107). DESIGN CHOICE (log
31): on a line in N with four pointers the requester of a WTGRANT is not recorded, since no fifth pointer exists (R104);
a guest slice that cannot record a holder gets WTGRANT; and one that holds no guest copy, of which the table of R107 says
nothing, takes an empty one to record the grant in. -/
def State.homeNreq (s : State) (r : LineReq) : State :=
  let s := s.ownBacks r.core r.line
  let e := s.dirOf r.line
  let x := s.sharerFor r.core r.line
  let guestOk := match x with
    | .core _ => true
    | .die d => (match s.guest? d r.line with | some g => g.dir.grantable (.core r.core) | none => true)
  let s := s.request r.line ((((s.core r.core).waiting.find? fun w => w.line = r.line).map (·.ctx)).getD 64)
  let noted (s : State) (f : DirEntry → DirEntry) : State := match x with
    | .core _ => s
    | .die d => (s.modDie d fun y =>
        let g := y.guests.getD r.line GuestCopy.empty
        { y with guests := y.guests.put r.line { g with dir := f g.dir } }).trimSlice (32 * d + sliceOf (128 * r.line))
  if !e.w && e.grantable x && guestOk && (s.heldOn r.line).isNone then
    let s := s.setDir r.line (e.grant x)
    (noted (s.trimSlice (s.sliceKey r.line)) fun g => g.grant (.core r.core)).post (.ngrant r.core r.line)
  else
    let span := (List.range (4 * r.count)).map fun i => 128 * r.line + 4 * r.first + i
    s.gate r.line span (.nreq r) fun s =>
      let s := (s.recordAt r.line x).getD s
      (noted s fun g => (g.share (.core r.core)).getD g).post (.wtgrant r.core r.line)

/-! ## The bank ALU (R95, R335) -/

/-- The floating-point format of a type's elements, and their number (R300, R338). -/
def fmtOfT (ty : Nat) : Fmt :=
  if ty = 5 then Fmt.fp64 else if ty = 6 || ty = 9 then Fmt.fp16 else if ty = 7 || ty = 10 then Fmt.bf16
  else if ty = 11 then Fmt.fE4m3 else if ty = 12 then Fmt.fE5m2 else Fmt.fp32
def elemsOfT (ty : Nat) : Nat := if ty = 8 || ty = 9 || ty = 10 then 2 else if ty = 11 || ty = 12 then 4 else 1

/-- The new value of an integer element (R335). -/
def bankInt (op : Nat) (ty : IntTy) (old y : Nat) : Nat :=
  if op = 0 then y
  else if op = 1 then (old + y) % 2 ^ ty.w
  else if op = 2 then old &&& y
  else if op = 3 then old ||| y
  else if op = 4 then old ^^^ y
  else if op = 5 then minElem ty old y
  else if op = 6 then maxElem ty old y
  else if op = 10 then (if old ≥ y then 0 else old + 1)
  else old

/-- The new value of a floating-point element (R335): RNE, canonical NaN, subnormals kept, no flags. -/
def bankFloat (op : Nat) (f : Fmt) (old y : Nat) : Nat :=
  if op = 7 then ((faddPre f FEnv.plain false (f.decode old) (f.decode y)).finish f FEnv.plain 0).1
  else (fminmax f FEnv.plain (op = 9) old y).1

/-- The new value at a location: codes 0–10 of R335, 11 a compare and swap (R337). -/
def bankNew (op ty old y expect : Nat) : Nat :=
  let w := 8 * bankBytes ty
  if op = 11 then (if old = expect % 2 ^ w then y % 2 ^ w else old)
  else if 7 ≤ op && op ≤ 9 then
    let f := fmtOfT ty
    (List.range (elemsOfT ty)).foldl (fun acc i =>
      acc + bankFloat op f (bits old (f.width * i) f.width) (bits y (f.width * i) f.width) * 2 ^ (f.width * i)) 0
  else if op = 0 then y % 2 ^ w
  else
    let t := intTy ty
    let t := if ty = 6 || ty = 7 then { t with w := 16 } else t
    (List.range t.elems).foldl (fun acc i =>
      acc + bankInt op t (bits old (t.w * i) t.w) (bits y (t.w * i) t.w) * 2 ^ (t.w * i)) 0

/-- Whether n bytes from an address meet a burst with an uncorrectable error (R97). -/
def State.badAt (s : State) (pa n : Nat) : Bool := s.mgmt.badBursts.any fun b => decide (b < pa + n) && decide (pa < b + 64)

/-- One lane performed at the bank: the old value, and the state (R95, R106). A failing CAS writes nothing (R337), and nor
does an operation whose burst cannot be read (R97). -/
def State.bankLane (s : State) (r : BankReq) (l : BankLane) : Nat × State :=
  let n := bankBytes r.ty
  if s.badAt l.addr n then (0, s) else
  let line := lineOf l.addr
  let old := leNat (readRun s.homeByte l.addr n)
  let new := bankNew r.op r.ty old (l.operand.toNat % 2 ^ (8 * n)) l.expect.toNat
  if r.op = 11 && old ≠ l.expect.toNat % 2 ^ (8 * n) then (old, s)
  else (old, s.performBytes line (atAddr l.addr (natLe n new)) r.stamp r.agent.dieOf none r.ctx)

/-- Every lane of a request, in order; the old values, first lane first. -/
def State.bankLanes (s : State) (r : BankReq) : List BankLane → List Nat × State
  | [] => ([], s)
  | l :: ls =>
    let (o, s) := s.bankLane r l
    let (os, s) := State.bankLanes s r ls
    (o :: os, s)

/-- The status of a started packet becomes its first failure (R191). -/
def State.failPacket (s : State) (packet : Option (Nat × Nat)) (cause : Byte) : State :=
  match packet with
  | none => s
  | some (q, idx) => s.modMgmt fun m =>
      { m with cmdq := m.cmdq.modify q fun x => { x with started := x.started.map fun p =>
          if p.index = idx && p.status = 0 then { p with status := cause } else p } }

/-- A graph's predecessor decrement has been performed on the old PRED (R43, R191): at 0 the node is due to dispatch,
below 0 the graph is marked GRAPH_INVALID. -/
def State.graphDecrement (s : State) (r : BankReq) (old : Nat) : State :=
  let c := s.ctx r.ctx
  match c.decs.get? r.id with
  | none => s
  | some (va, packet) =>
    let new : BitVec 32 := BitVec.ofNat 32 old - 1
    let s := s.setCtx r.ctx { c with decs := c.decs.del r.id }
    let s := if new.toInt < 0 then s.failPacket packet Cause.graphInvalid else s
    let s := match packet with | some (q, _) => s.post (.graphPacket q) | none => s
    if new = 0 then
      let (n, s) := s.serial
      (s.modCtx r.ctx fun c => { c with nodes := c.nodes.put n ⟨va, true, 0, false, 0, 0, packet⟩ }).post (.nodeRetire r.ctx n)
    else s

/-- A decrement whose count cannot be read (R97) is lost: its GRAPH packet ends with that cause. -/
def State.decrementLost (s : State) (r : BankReq) : State :=
  let c := s.ctx r.ctx
  match c.decs.get? r.id with
  | none => s
  | some (_, packet) =>
    let s := (s.setCtx r.ctx { c with decs := c.decs.del r.id }).failPacket packet Cause.eccUncorrectedMem
    match packet with | some (q, _) => s.post (.graphPacket q) | none => s

/-- An atomic that returns (R336, R337) has been performed for a lane: its old value, and the stamp of what it read, wait for
the path that issued it, and whether its bytes could not be read (R97). -/
def State.returnOld (s : State) (ret : Option (Nat × Nat × Nat)) (old : Nat) (stamp : Clock) (bad : Bool) : State :=
  match ret with
  | none => s
  | some (tid, pid, lane) => s.modTeam tid fun t => { t with rests := t.rests.modify pid fun x =>
      { x with left := x.left - 1, olds := x.olds.put lane old, stamp := x.stamp.max stamp,
               bad := if bad then x.bad ||| 1#1024 <<< lane else x.bad } }

/-- An answer goes to the peer of a port (R429). -/
def State.answer (s : State) (port : Nat) (a : PeerAnswer) : State := s.modMgmt fun m => { m with answers := (port, a) :: m.answers }

/-- A request at its bank ALU, watches permitting: narrow holders publish first; the operation is complete. -/
def State.homeBank (s : State) (r : BankReq) : State :=
  match r.lanes with
  | [] => s.closeWrite r.id
  | l :: _ =>
    s.gate (lineOf l.addr) r.addrs (.bankAluOperation r) fun s =>
      let s := (s.request (lineOf l.addr) r.ctx).publish (lineOf l.addr) false
      let stamp := s.stampOf (lineOf l.addr)
      let bad := s.badAt l.addr (bankBytes r.ty)
      let (olds, s) := s.bankLanes r r.lanes
      let s := (s.closeWrite r.id).returnOld r.ret (olds.headD 0) stamp bad
      let s := match r.peer with
        | some port => s.answer port (if bad then .fault Cause.eccUncorrectedMem else .olds olds)
        | none => s
      if !r.graph then s else if bad then s.decrementLost r else s.graphDecrement r (olds.headD 0)

/-! ## Evictions (R103, R107, R115) -/

/-- Eviction of a home line (R103): every copy is removed first, and then the slice's floor stamp is raised (R115). -/
def State.homeEvict (s : State) (line : Nat) : State :=
  let s := s.demote line
  let st := s.stampOf line
  let s := s.spread line (0, 32) (s.homeDie (line * 128)) st none 64 false
  let w := (s.dirOf line).w
  let key := s.sliceKey line
  { s with dir := if w then s.dir.put line { DirEntry.empty with w := w } else s.dir.del line,
           floors := s.floors.put key ((s.floors.getD key Clock.zero).max st),
           stamps := s.stamps.del line }

/-- Eviction of a guest copy: publish with demotion, drop the local copies, tell the home (R107). -/
def State.guestEvict (s : State) (die line : Nat) : State :=
  match s.guest? die line with
  | none => s
  | some _ =>
    let s := (s.deliverGrants line fun c => decide (dieOfCore c = die)).finishBacks line
    let holders := match s.guest? die line with | some g => g.narrowCores | none => []
    let s := if holders.isEmpty then s
      else s.dpmc die 0x49 1 (holders.filterMap fun n => (s.l1? n line).map (·.ctx))
    let s := holders.foldl (fun s n => s.publishCore line n true) s
    let s := (s.dropDie die line 0 32 none 64).modDie die fun d => { d with guests := d.guests.del line }
    s.setDir line ((s.dirOf line).giveUp (.die die))

/-! ## Running requests in flight -/

/-- A release marker enters the apply queue of its destination (R116). -/
def State.enterMarker (s : State) (o e : Nat) (n : BitVec 48) (st : Clock) (count : Nat) : State :=
  s.enterApply e (.marker o n st count)

/-- Run one coherence event that is in flight; any other event is left alone. -/
def State.runRequest (s : State) (e : Instr) : State :=
  match e with
  | .writeThroughStore r => s.homeStore r
  | .writeBack r g => s.homeWriteBack r g
  | .nreq r => s.homeNreq r
  | .ngrant c l => s.takeGrant c l
  | .wtgrant c l => s.takeWtGrant c l
  | .bankAluOperation r => s.homeBank r
  | .invalidation r => s.dropSpan r.core r.line r.first r.count 64
  | .postedStoreAck c tag => s.modCore c fun k => { k with posted := k.posted.del tag }
  | .releaseMarker o e n st k => s.enterMarker o e n st k
  | _ => s

/-- The store request of a serial number. -/
def isStore (id : Nat) : Instr → Bool
  | .writeThroughStore r => decide (r.id = id)
  | _ => false

/-- Take events that satisfy `p` out of flight and run them, oldest first, at most `fuel`. -/
def State.drain (s : State) (p : Instr → Bool) : Nat → State
  | 0 => s
  | fuel + 1 =>
    match s.pending.find? p with
    | none => s
    | some e => State.drain ((s.unpost e).runRequest e) p fuel

/-- Whether an event is a request of the coherence protocol that can be run now: a store towards a link that retrains
stays in flight (R421). -/
def State.runnable (s : State) (e : Instr) : Bool :=
  match e with
  | .writeThroughStore r =>
    (match s.linkOf (128 * r.line) with
     | some l => (match s.linkState l with | .retraining _ => false | _ => true)
     | none => true)
  | .writeBack _ _ => true
  | .nreq _ => true
  | .ngrant _ _ => true
  | .wtgrant _ _ => true
  | .bankAluOperation _ => true
  | .invalidation _ => true
  | .releaseMarker _ _ _ _ _ => true
  | _ => false

/-- Fuel for draining: every request in flight and what it may bring about. -/
def State.drainFuel (s : State) : Nat := 4 * s.pending.length + 64

/-- A core's own requests in flight, on one line or on all. -/
def ownRequest (core : Nat) (line : Option Nat) (e : Instr) : Bool :=
  let here (l : Nat) := match line with | none => true | some x => decide (l = x)
  match e with
  | .writeThroughStore r => r.agent = .core core && here r.line
  | .writeBack r _ => r.agent = .core core && here r.line
  | .nreq r => r.core = core && here r.line
  | .ngrant c l => c = core && here l
  | .wtgrant c l => c = core && here l
  | .bankAluOperation r => r.agent = .core core && (match r.lanes with | l :: _ => here (lineOf l.addr) | [] => true)
  | .postedStoreAck c _ => c = core && line.isNone
  | _ => false

/-- Run a core's own requests in flight. A request that a watch or a retraining link holds stays. -/
def State.drainOwn (s : State) (core : Nat) (line : Option Nat) : State :=
  s.drain (fun e => ownRequest core line e &&
    (match e with | .writeThroughStore _ => s.runnable e | _ => true)) s.drainFuel

/-- Requests in flight that a die issued: of its cores and its agents. -/
def fromDie (d : Nat) (e : Instr) : Bool :=
  match e with
  | .writeThroughStore r => r.agent.dieOf = d
  | .writeBack r _ => r.agent.dieOf = d
  | .nreq r => dieOfCore r.core = d
  | .ngrant c _ => dieOfCore c = d
  | .wtgrant c _ => dieOfCore c = d
  | .bankAluOperation r => r.agent.dieOf = d
  | _ => false

/-- Run every request of a die that is in flight and can be run. -/
def State.drainDie (s : State) (d : Nat) : State := s.drain (fun e => fromDie d e && s.runnable e) s.drainFuel

/-- A core's atomic on bytes of a line that is not yet performed: in flight, or held or queued at its slice. -/
def ownAtomic (core line : Nat) (e : Instr) : Bool :=
  match e with
  | .bankAluOperation r => r.agent = .core core && (r.lanes.any fun l => lineOf l.addr = line)
  | _ => false
def State.atomicOpen (s : State) (core line : Nat) : Bool := s.underway (ownAtomic core line)

/-- What a core's earlier accesses on a line leave in flight reaches the line's home before a request that was issued after
them, with serial number `id` (R122). -/
def earlierRequest (core line id : Nat) (e : Instr) : Bool :=
  match e with
  | .writeThroughStore r => r.agent = .core core && r.line = line && decide (r.id < id)
  | .nreq r => r.core = core && r.line = line
  | .wtgrant c l => c = core && l = line
  | _ => false
/-- Run a request that queued behind a held one (R113), once what its core issued before it on the line is done. -/
def State.runBehind (s : State) (e : Instr) : State :=
  let before (core line id : Nat) (s : State) : State :=
    s.drain (fun x => earlierRequest core line id x && s.runnable x) s.drainFuel
  match e with
  | .bankAluOperation r => (match r.agent, r.lanes with
      | .core c, l :: _ => (before c (lineOf l.addr) r.id s).runRequest e
      | _, _ => s.runRequest e)
  | .writeThroughStore r => (match r.agent with | .core c => (before c r.line r.id s).runRequest e | .die _ => s.runRequest e)
  | _ => s.runRequest e

/-! ## A core's stores (R91, R105) -/

/-- One store of a core's team to a page of the given scope (R82, R91, R105). The store's serial number becomes open
until it is performed at home or in its L1. What the core has in flight on the line goes first where the store would
overtake it (R122), and where the line finds no way free. A narrow store joins those of its line that wait for a grant, for
which a request is under way. -/
def State.coreStore (s : State) (core ctx scope : Nat) (bs : List (Nat × Byte)) (posted : Option Nat) (stamp : Clock) :
    Nat × State :=
  let (id, s) := s.serial
  let line := lineOf ((bs.map (·.1)).headD 0)
  let narrow := decide (scope < Scope.die)
  let waits (s : State) : Bool := (s.core core).waiting.any fun w => w.line = line
  let s := if (narrow && s.pending.any (ownAtomic core line)) || (!narrow && waits s) then s.drainOwn core (some line) else s
  let s := if (s.takeLine core line scope ctx).isNone then s.drainOwn core none else s
  let r : StoreReq := { id := id, agent := .core core, ctx := ctx, scope := scope, line := line, bytes := bs,
                        sharer := false, stamp := stamp, posted := posted }
  let s := s.openWrite id (dieOfCore core) posted.isSome
  if scope = Scope.stream then (id, s.post (.writeThroughStore r))
  else if !narrow then (id, s.sendThrough core r)
  else if waits s then (id, wait s id line)
  else
    let s' := wait s id line
    match s.l1? core line with
    | some l =>
      if l.st = .n then
        -- a word written in part that is not valid is filled first (R91)
        match s.fillWords core line (touchedWords bs &&& ~~~(wholeWords bs)) scope ctx with
        | none => (id, s'.post (.ngrant core line))
        | some s =>
          match s.l1? core line with
          | some l => (id, ((s.setL1 core line (l.takeDirty bs s.ns scope ctx stamp)).post (.narrowWritebackTimer core line)).closeWrite id)
          | none => (id, s'.post (.ngrant core line))
      else if l.wt then (id, s.sendThrough core r)
      else (id, s'.post (.nreq (mkReq core line (spanOf bs) scope)))
    | none => (id, s'.post (.nreq (mkReq core line (spanOf bs) scope)))
where
  /-- The bytes wait in the L1 for a grant (R105). -/
  wait (s : State) (id line : Nat) : State :=
    s.modCore core fun c => { c with waiting := c.waiting ++ [⟨id, line, bs, ctx, scope, stamp⟩] }

/-- Write back the dirty words of a core's line that a mask names (R105). -/
def State.writeBackWords (s : State) (core line : Nat) (words : BitVec 32) : State :=
  match s.l1? core line with
  | none => s
  | some l =>
    if l.dirty &&& words = 0 then s
    else
      let (id, s) := s.serial
      let s := s.openWrite id (dieOfCore core) false
      let s := s.setL1 core line { l with dirty := l.dirty &&& ~~~words }
      let out := { l with dirty := l.dirty &&& words }
      s.post (.writeBack ⟨id, .core core, l.ctx, l.scope, line, out.dirtyBytes line, false, l.stamp, none⟩ false)
/-- Write back every dirty word of a core's line (R105). -/
def State.writeBackLine (s : State) (core line : Nat) : State := s.writeBackWords core line (BitVec.allOnes 32)

/-! ## A core's loads (R90, R105, R124) -/

/-- What a load of a core needs before it reads: the span valid in the L1, or its missing words filled; none when it must
wait, for the apply queue (R107) or for an atomic of its own core on the line (R122). STREAM pages are published and read
at home. DESIGN CHOICE (log 22): L1 hits and misses are counted one for each lane's access, a prefetch's
among them; LDA, which reads a level and fills none, counts neither. -/
def State.prepareLoad (s : State) (core ctx scope pa n : Nat) : Option State :=
  let line := lineOf pa
  let first := (pa % 128) / 4
  let count := (pa % 128 + n - 1) / 4 + 1 - first
  let s := if s.pending.any (ownAtomic core line) then s.drainOwn core (some line) else s
  if s.atomicOpen core line then none
  else if scope = Scope.stream then
    some (((s.drainOwn core (some line)).request line ctx).publish line false)
  else
    let hit : Bool := match s.l1? core line with
      | some l => decide (spanMask first count &&& ~~~l.readable = 0)
      | none => false
    if hit then some (s.pmc core 0x07 1 ctx)
    else
      let s := (s.pmc core 0x08 1 ctx).drainOwn core (some line)
      s.fillWords core line (spanMask first count) scope ctx

/-- The byte a core's load returns once prepared: a dirty byte of its L1, else the latest of its own stores not yet
performed, else what the L1 or a copy below it holds (R124). -/
def State.loadByte (s : State) (core scope pa : Nat) : Byte :=
  let word := (pa % 128) / 4
  let below := if scope = Scope.stream then s.homeByte pa else s.belowByte core pa
  match s.l1? core (lineOf pa) with
  | some l =>
    if l.dirty.getLsbD word && scope ≠ Scope.stream then l.data.getD (pa % 128) 0
    else match s.ownByte? core pa with
      | some b => b
      | none => if l.readable.getLsbD word && scope ≠ Scope.stream then l.data.getD (pa % 128) 0 else below
  | none => (s.ownByte? core pa).getD below

/-- The stamp of the value that a core's load reads at an address (R118): what its L1 keeps with a word it serves, else that
of the copy or home below. -/
def State.loadStamp (s : State) (core scope pa : Nat) : Clock :=
  if scope = Scope.stream then s.stampOf (lineOf pa)
  else match s.l1? core (lineOf pa) with
    | some l => if (l.dirty ||| l.readable).getLsbD ((pa % 128) / 4) then l.stamps.getD ((pa % 128) / 4) Clock.zero
                else s.belowStamp core pa
    | none => s.belowStamp core pa
/-- The stamp of an access of n bytes: of its first word and of its last. -/
def State.accStamp (s : State) (core scope pa n : Nat) : Clock :=
  (s.loadStamp core scope pa).max (s.loadStamp core scope (pa + n - 1))

/-- A value read at home by an engine, a walker or a front end for a context: narrow holders publish first (R101). -/
def State.engineRead (s : State) (ctx pa n : Nat) : List Byte × State :=
  let s := (s.request (lineOf pa) ctx).publish (lineOf pa) false
  let s := if lineOf (pa + n - 1) = lineOf pa then s
    else (s.request (lineOf (pa + n - 1)) ctx).publish (lineOf (pa + n - 1)) false
  (readRun s.homeByte pa n, s)

/-- Cut a run of bytes into the pieces that lie in one line each. -/
def linePieces (bs : List (Nat × Byte)) : List (Nat × List (Nat × Byte)) :=
  ((bs.map fun p => lineOf p.1).eraseDups).map fun l => (l, bs.filter fun p => lineOf p.1 = l)

/-- Engine, front-end or host writes of a run of bytes at their homes, as PACKAGE-scope stores of an agent on a die; the
serial numbers that are still open say whether they are all performed. -/
def State.engineWrite (s : State) (die ctx : Nat) (bs : List (Nat × Byte)) : List Nat × State :=
  (linePieces bs).foldl (fun (acc : List Nat × State) p =>
    let (ids, s) := acc
    let (id, s) := s.serial
    let s := s.openWrite id die (!isHbm (128 * p.1))
    let s := s.homeStore { id := id, agent := .die die, ctx := ctx, scope := Scope.package, line := p.1, bytes := p.2,
                           sharer := false, stamp := (s.die die).clock, posted := none }
    (ids ++ [id], s)) ([], s)

/-! ## Releases (R116, R126, R127) -/

/-- Send the release marker of die o's release to every other die (R116), with the number of the ended epoch's
invalidations sent to it; the next epoch's count begins. -/
def State.sendMarkers (s : State) (o : Nat) : State :=
  let d := s.die o
  let s := ((List.range 4).filter (· ≠ o)).foldl (fun s e =>
    s.post (.releaseMarker o e (d.clock.get o) d.clock (d.sent.getD e 0))) s
  s.modDie o fun d => { d with sent := [] }

end Sys2Proof.Machine
end

