-- ==== Sys2Proof/Machine/Translate.lean ====
section
/-!
DEFINITION. Sys2Proof/Machine/Translate.lean: page tables, walks and TLBs (R78–R84), the aperture checks of R428, and
the identity translation that the firmware slot uses (log 14).
-/
namespace Sys2Proof.Machine

/-- What a translation gives: a physical address with its page's scope, or a cause with its level. -/
inductive Xlat where
  | ok (pa scope : Nat)
  | fault (cause : Byte) (level : Nat)
  deriving DecidableEq, Repr

/-- Offset bits of a leaf at a level (R78). -/
def leafBits (level : Nat) : Nat := 16 + 10 * level

/-- The end of the populated range that holds a physical address (R76), if one does. -/
def rangeEnd? (pa : Nat) : Option Nat :=
  if isHbm pa then some Config.hbmBytes
  else if isHostAp pa then some 0x2000000000000
  else if isFabricAp pa then some 0x10000000000000
  else none

/-- The scopes a leaf may carry in its range (R76). -/
def scopeAllowed (pa scope : Nat) : Bool :=
  if isHbm pa then scope ≤ 6
  else if isHostAp pa then scope = Scope.host || scope = Scope.stream
  else scope = Scope.fabric || scope = Scope.stream

def pteTable (e : Nat) : Nat := bits e 16 36 * 2 ^ 16 + bits e 13 3 * 2 ^ 13
def ptePa (e : Nat) : Nat := bits e 16 36 * 2 ^ 16

/-- What one entry raises at its level, in the order of R80, rows 1 to 3; `none` goes on. -/
def pteCause (level e : Nat) : Option Byte :=
  let leaf := level = 0 || bits e 1 1 = 1
  if bits e 0 1 = 0 then some Cause.pageNotPresent
  else if bits e 9 4 ≠ 0 || bits e 52 12 ≠ 0 then some Cause.pageFormat
  else if leaf then
    if level = 3 || bits e 13 3 ≠ 0 || ptePa e % 2 ^ leafBits level ≠ 0 ||
        (match rangeEnd? (ptePa e) with | none => true | some r => decide (ptePa e + 2 ^ leafBits level > r)) then
      some Cause.pageFormat
    else if bits e 4 3 = 7 || !scopeAllowed (ptePa e) (bits e 4 3) then some Cause.pageScopeInvalid
    else none
  else if !isHbm (pteTable e) then some Cause.pageFormat
  else none

/-- Where a walk ends: at a leaf (its address, value and level), or with a cause. -/
inductive Walked where
  | leaf (addr pte level : Nat)
  | fault (cause : Byte) (level : Nat)
  deriving DecidableEq, Repr

/-- The walk from a table at `level` (R78, R80), entries read at their home slices. One that cannot be read (R97) ends it with
that cause. -/
def State.walkFrom (s : State) (ctx table va : Nat) : Nat → Walked × State
  | 0 =>
    let a := table + 8 * bits va 16 10
    if s.badAt a 8 then (.fault Cause.eccUncorrectedMem 0, s)
    else
      let (bs, s) := s.engineRead ctx a 8
      match pteCause 0 (leNat bs) with
      | some c => (.fault c 0, s)
      | none => (.leaf a (leNat bs) 0, s)
  | level + 1 =>
    let a := table + 8 * bits va (26 + 10 * level) 10
    if s.badAt a 8 then (.fault Cause.eccUncorrectedMem (level + 1), s)
    else
      let (bs, s) := s.engineRead ctx a 8
      let e := leNat bs
      match pteCause (level + 1) e with
      | some c => (.fault c (level + 1), s)
      | none => if bits e 1 1 = 1 then (.leaf a e (level + 1), s) else State.walkFrom s ctx (pteTable e) va level

/-- Set A, or A and D, with an atomic OR at the entry's home bank ALU (R81), which checks the watch table (R106): an update
that a watch holds is performed once the revocations are done (log 32). -/
def State.setPteBits (s : State) (ctx addr old new : Nat) : State :=
  if old ||| new = old then s
  else
    let (id, s) := s.serial
    let die := s.homeDie addr
    s.homeBank { id := id, agent := .die die, ctx := ctx, scope := Scope.package, op := 3, ty := 3,
                 lanes := [⟨addr, BitVec.ofNat 64 new, 0⟩], graph := false, stamp := (s.die die).clock }

/-- A walk for an access (R80, R81), asked for on a die, which counts it: the leaf as a TLB entry, A set, and D set for a
write that W permits. -/
def State.walk (s : State) (die ctx va : Nat) (write fetch : Bool) : Sum TlbEntry (Byte × Nat) × State :=
  let s := s.dpmc die 0x45 1 [ctx]
  let e := (s.ctx ctx).entry.toNat
  if bits e 0 1 = 0 then (.inr (Cause.pageNotPresent, 3), s)
  else
    match s.walkFrom ctx (bits e 13 39 * 2 ^ 13) va 3 with
    | (.fault c l, s) => (.inr (c, l), s)
    | (.leaf a pte l, s) =>
      let w := bits pte 2 1 = 1
      let x := bits pte 3 1 = 1
      if write && !w then (.inr (Cause.pageWrite, l), s)
      else if fetch && !x then (.inr (Cause.pageExec, l), s)
      else
        let s := s.setPteBits ctx a pte (if write then 0x180 else 0x80)
        let size := 2 ^ leafBits l
        (.inl ⟨ctx, va / size * size, size, ptePa pte, w, x, bits pte 4 3, write || bits pte 8 1 = 1⟩, s)

def TlbEntry.covers (t : TlbEntry) (ctx va : Nat) : Bool := t.ctx = ctx && t.base ≤ va && va < t.base + t.size

/-- Put an entry at the front of a TLB of `n` entries; the oldest falls out (R74, replacement is the device's). -/
def tlbFill (n : Nat) (l : List TlbEntry) (e : TlbEntry) : List TlbEntry :=
  (e :: l.filter fun t => !(t.ctx = e.ctx && t.base = e.base && t.size = e.size)).take n

def State.installTlb (s : State) (core : Nat) (e : TlbEntry) : State :=
  let s := s.modCore core fun c => { c with tlb := tlbFill 256 c.tlb e }
  s.modClu (cluOfCore core) fun c => { c with tlb := tlbFill 4096 c.tlb e }

/-- Rows 4 and 5 of R80 and the D bit on a cached entry: use it, fault, or walk again to set D. -/
inductive TlbUse where
  | hit (pa scope : Nat)
  | fault (cause : Byte)
  | again
  deriving DecidableEq, Repr

def TlbEntry.use (t : TlbEntry) (va : Nat) (write fetch : Bool) : TlbUse :=
  if write && !t.w then .fault Cause.pageWrite
  else if fetch && !t.x then .fault Cause.pageExec
  else if write && !t.d then .again
  else .hit (t.pa + (va - t.base)) t.scope

/-- The aperture entry's own checks (R428). -/
def State.apCheck (s : State) (die pa : Nat) (write : Bool) : Option Byte :=
  if !isFabricAp pa then none
  else
    let e := (s.apEntry die (apIndex pa)).toNat
    if bits e 0 1 = 0 || bits pa 0 41 ≥ bits e 38 26 * 65536 then some Cause.pageNotPresent
    else if bits e 6 10 ≠ 0 || bits e 120 8 ≠ 0 then some Cause.pageFormat
    else if write && bits e 1 1 = 0 then some Cause.pageWrite
    else none

/-- The die caches an aperture entry it has used (R428). -/
def State.apCache (s : State) (die pa : Nat) : State :=
  if !isFabricAp pa then s
  else
    let e := s.apEntry die (apIndex pa)
    s.modDie die fun d => { d with apcache := d.apcache.put (apIndex pa) e }

/-- Finish a translation with the aperture's checks. -/
def State.finishXlat (s : State) (die pa scope : Nat) (write : Bool) : Xlat × State :=
  match s.apCheck die pa write with
  | some c => (.fault c 0, s)
  | none => (.ok pa scope, s.apCache die pa)

/-- The firmware slot's addresses: physical, as PACKAGE, HOST or FABRIC by range (log 14). -/
def State.fwXlat (s : State) (die va : Nat) (write : Bool) : Xlat × State :=
  if isHbm va then (.ok va Scope.package, s)
  else if isHostAp va then (.ok va Scope.host, s)
  else if isFabricAp va then s.finishXlat die va Scope.fabric write
  else (.fault Cause.pageNotPresent 0, s)

/-- Translate an access of a core's team (R83): L1 TLB, cluster TLB, walk. -/
def State.translate (s : State) (core ctx : Nat) (fw : Bool) (va : Nat) (write fetch : Bool) : Xlat × State :=
  let die := dieOfCore core
  if fw then s.fwXlat die va write
  else
    let near := (s.core core).tlb.find? fun t => t.covers ctx va
    let far := (s.clu (cluOfCore core)).tlb.find? fun t => t.covers ctx va
    let cached := match near with | some t => some t | none => far
    let s := if near.isSome then s else s.pmc core 0x0C 1 ctx
    let s := if near.isSome || far.isSome then s else s.dpmc die 0x4B 1 [ctx]
    let s := match near, far with
      | none, some t => s.modCore core fun c => { c with tlb := tlbFill 256 c.tlb t }
      | _, _ => s
    let first := match cached with | some t => t.use va write fetch | none => .again
    match first with
    | .hit pa scope => s.finishXlat die pa scope write
    | .fault c => (.fault c 0, s)
    | .again =>
      match s.walk die ctx va write fetch with
      | (.inr (c, l), s) => (.fault c l, s)
      | (.inl t, s) => (s.installTlb core t).finishXlat die (t.pa + (va - t.base)) t.scope write

/-- The number that stands for the firmware slot where an engine's context is asked for: it has no page tables (R343). -/
def fwCtx : Nat := 64

/-- Translate for an engine of a cluster or for the front end on die 0: the cluster's TLB only, then a walk (R83). -/
def State.engineXlat (s : State) (clu ctx va : Nat) (write : Bool) : Xlat × State :=
  let die := dieOfClu clu
  if ctx = fwCtx then s.fwXlat die va write
  else
    let first := match (s.clu clu).tlb.find? (fun t => t.covers ctx va) with
      | some t => t.use va write false
      | none => .again
    match first with
    | .hit pa scope => s.finishXlat die pa scope write
    | .fault c => (.fault c 0, s)
    | .again =>
      let s := s.dpmc die 0x4B 1 [ctx]
      match s.walk die ctx va write false with
      | (.inr (c, l), s) => (.fault c l, s)
      | (.inl t, s) =>
        let s := s.modClu clu fun c => { c with tlb := tlbFill 4096 c.tlb t }
        s.finishXlat die (t.pa + (va - t.base)) t.scope write

/-- The front end's and the firmware's translation in a context: a walk (R158, R170). -/
def State.frontXlat (s : State) (ctx va : Nat) (write : Bool) : Xlat × State :=
  if ctx = fwCtx then s.fwXlat 0 va write
  else match s.walk 0 ctx va write false with
  | (.inr (c, l), s) => (.fault c l, s)
  | (.inl t, s) => s.finishXlat 0 (t.pa + (va - t.base)) t.scope write

/-- A read at home by an engine or a front end: the bytes, or the cause of R97 where they cannot be read. -/
def State.cleanRead (s : State) (ctx pa n : Nat) : Sum (List Byte) Byte × State :=
  if s.badAt pa n then (.inr Cause.eccUncorrectedMem, s)
  else
    let (bs, s) := s.engineRead ctx pa n
    (.inl bs, s)

/-- Read n bytes at a virtual address through a per-byte translation that stays within pages: the first cause met, or
the bytes. -/
def State.frontRead (s : State) (ctx va n : Nat) : Sum (List Byte) Byte × State :=
  match s.frontXlat ctx va false with
  | (.fault c _, s) => (.inr c, s)
  | (.ok pa _, s) =>
    if va / 65536 = (va + n - 1) / 65536 then
      s.cleanRead ctx pa n
    else
      let k := 65536 - va % 65536
      match s.cleanRead ctx pa k with
      | (.inr c, s) => (.inr c, s)
      | (.inl b1, s) =>
        match s.frontXlat ctx (va + k) false with
        | (.fault c _, s) => (.inr c, s)
        | (.ok pb _, s) =>
          match s.cleanRead ctx pb (n - k) with
          | (.inr c, s) => (.inr c, s)
          | (.inl b2, s) => (.inl (b1 ++ b2), s)

/-- A signal address of a waiter or updater in a context (R201): aligned, translated, on a PACKAGE or HOST page, and one that
can be read (R97). -/
def State.signalXlat (s : State) (ctx va : Nat) (write : Bool) : Sum Nat Byte × State :=
  if va % 8 ≠ 0 then (.inr Cause.align, s)
  else match s.frontXlat ctx va write with
    | (.fault c _, s) => (.inr c, s)
    | (.ok pa scope, s) =>
      if scope ≠ Scope.package && scope ≠ Scope.host then (.inr Cause.pageScopeInvalid, s)
      else if s.badAt pa 8 then (.inr Cause.eccUncorrectedMem, s)
      else (.inl pa, s)

/-- TINV (R382): every TLB entry of the context whose page meets [lo, hi) is dropped, in every core and cluster. -/
def State.dropTranslations (s : State) (ctx lo hi : Nat) : State :=
  let keep (t : TlbEntry) : Bool := !(t.ctx = ctx && t.base < hi && lo < t.base + t.size)
  { s with cores := s.cores.map (fun (k, c) => (k, { c with tlb := c.tlb.filter keep })),
           clus := s.clus.map (fun (k, c) => (k, { c with tlb := c.tlb.filter keep })) }

end Sys2Proof.Machine
end

