-- ==== Sys2Proof/Machine/Trace.lean ====
section
/-!
DEFINITION. Sys2Proof/Machine/Trace.lean: the Quartz trace rings (R163–R165, R445), as operations on the state.
-/
namespace Sys2Proof.Machine

/-! ## The trace ring of a die (R163, R210) -/

def Die.csrAt (d : Die) (n : Nat) : Nat := (d.csr.getD n 0).toNat
/-- Ring size in bytes: TRSIZE in 64 KiB units, 0 read as 65,536. -/
def Die.traceSize (d : Die) : Nat :=
  (if d.csrAt 0x882 % 2 ^ 16 = 0 then 65536 else d.csrAt 0x882 % 2 ^ 16) * 65536
def Die.traceBase (d : Die) : Nat := d.csrAt 0x880 / 65536 * 65536 + d.csrAt 0x881 % 2 ^ 20 * 2 ^ 32
/-- Free bytes: (TRRIDX − TRWIDX − 16) mod size. -/
def Die.traceFree (d : Die) : Nat :=
  (d.csrAt 0x884 % d.traceSize + 2 * d.traceSize - d.csrAt 0x883 % d.traceSize - 16) % d.traceSize

/-- ns since the previous packet of the die's stream, saturating (R164). -/
def State.traceDelta (s : State) (die : Nat) : Nat := min (2 ^ 32 - 1) (s.ns - (s.die die).lastPacket)

/-- Put 16-byte units at TRWIDX. -/
def State.tracePut (s : State) (die : Nat) (units : List (BitVec 128)) : State :=
  let s := units.foldl (fun s u =>
    let d := s.die die
    let at_ := d.csrAt 0x883 % d.traceSize
    let (_, s) := s.engineWrite die 0 (atAddr (d.traceBase + at_) (natLe 16 u.toNat))
    s.modDie die fun d => { d with csr := Tab.store 0 d.csr 0x883 (BitVec.ofNat 32 ((at_ + 16) % d.traceSize)) }) s
  s.modDie die fun d => { d with lastPacket := s.ns, packets := d.packets + 1 }

/-- A LOSS packet (R164). -/
def lossPacket (delta drops : Nat) : BitVec 128 := BitVec.ofNat 128 (3 + delta * 2 ^ 32 + drops * 2 ^ 64)

/-- Emit a packet: dropped when it does not fit, and preceded by a LOSS once there is room for both (R163). -/
def State.traceEmit (s : State) (die : Nat) (size : Nat) (packet : Nat → List (BitVec 128)) : State :=
  let d := s.die die
  let drops := d.csrAt 0x885
  if drops = 0 then
    if size ≤ d.traceFree then s.tracePut die (packet (s.traceDelta die))
    else s.modDie die fun d => { d with csr := Tab.store 0 d.csr 0x885 1 }
  else if size + 16 ≤ d.traceFree then
    let s := s.tracePut die [lossPacket (s.traceDelta die) drops]
    let s := s.modDie die fun d => { d with csr := Tab.store 0 d.csr 0x885 0 }
    s.tracePut die (packet (s.traceDelta die))
  else s.modDie die fun d => { d with csr := Tab.store 0 d.csr 0x885 (BitVec.ofNat 32 (drops + 1)) }

/-- Whether a team's context is traced on its die (R387). -/
def State.traced (s : State) (t : Team) : Bool := !t.fw && (s.die (dieOfCore t.core)).traced.getLsbD t.ctx

/-- The low half common to BM and SYNC: kind, slot, path, core. -/
def packetHead (kind : Nat) (t : Team) (pid : Nat) : Nat :=
  kind + t.slot * 2 ^ 4 + pid * 2 ^ 9 + t.core % 168 * 2 ^ 16

/-- A branch packet for a path (R164). -/
def State.traceBm (s : State) (t : Team) (pid : Nat) (taken split : Bool) (mask : LaneMask) : State :=
  if s.traced t then
    s.traceEmit (dieOfCore t.core) 16 fun delta =>
      [BitVec.ofNat 128 (packetHead 1 t pid + (if taken then 2 ^ 13 else 0) + (if split then 2 ^ 14 else 0) +
        delta * 2 ^ 32 + (wordMask mask).toNat * 2 ^ 64)]
  else s

/-- A SYNC packet for a path at an instruction address (R164, R165), from which the next one's time runs. -/
def State.traceSync (s : State) (tid : Nat) (t : Team) (pid pc : Nat) (mask : LaneMask) : State :=
  if s.traced t then
    let die := dieOfCore t.core
    let s := s.traceEmit die 32 fun _ =>
      [BitVec.ofNat 128 (packetHead 2 t pid + t.ctx * 2 ^ 24 + t.group % 2 ^ 32 * 2 ^ 32 + t.index * 2 ^ 64 +
         pc % 2 ^ 56 * 2 ^ 72),
       BitVec.ofNat 128 ((wordMask mask).toNat + s.ns * 2 ^ 32)]
    let d := s.die die
    (s.modPath tid pid fun p => { p with needSync := false, syncPackets := d.packets, syncTime := s.ns }).postOnce
      (.traceSyncTimer tid pid)
  else s

/-- A path's SYNC is due: its first issue under tracing, or 4,096 packets or 64 µs since its last (R165). -/
def State.syncDue (s : State) (t : Team) (p : Path) : Bool :=
  let d := s.die (dieOfCore t.core)
  s.traced t && (p.needSync || decide (d.packets ≥ p.syncPackets + 4096) || decide (s.ns ≥ p.syncTime + 64000))

/-- Emit the SYNC a path owes. -/
def State.syncIfDue (s : State) (tid pid : Nat) : State :=
  match s.team? tid with
  | none => s
  | some t =>
    match t.paths.get? pid with
    | none => s
    | some p => if s.syncDue t p then s.traceSync tid t pid (slotAddr p.pc) p.mask else s

end Sys2Proof.Machine
end

