-- ==== Sys2Proof/Machine/Ops.lean ====
section
/-!
DEFINITION. Sys2Proof/Machine/Ops.lean: the named operations over the state that the instructions and events share:
taking a trap and returning from one (R54, R55, R285, R414–R416), fault jobs (R84), the end of teams, groups, records
and pools (R42, R45, R170–R172, R276, R418), guarded aborts (R187), and posting to completion queues (R160).
-/
namespace Sys2Proof.Machine

/-! ## Exit records (R171, R172) -/

/-- Write one of the hardware's words of a pool's entry (R170). -/
def State.poolPut (s : State) (ctx pool off x : Nat) : State :=
  (s.engineWrite 0 ctx (atAddr (s.poolAddr ctx pool + off) (natLe 4 x))).2

/-- Write an exit record to the pool's exit ring as R171 lays it out, in two writes of 16 bytes; EXITIDX rises by one. -/
def State.exitRecord (s : State) (ctx pool : Nat) (cause flags : Nat) (index role : Nat) (faultSum : Nat) (pc : Nat)
    (serial core : Nat) (inner : Nat) (work : Nat) : State :=
  let e := s.poolEntry ctx pool
  let idx := bits e 384 32
  let slot := bits e 256 56 + 32 * (idx % (128 * 2 ^ bits e 312 4))
  let bytes := natLe 1 cause ++ natLe 1 flags ++ natLe 1 index ++ natLe 1 role ++ natLe 4 faultSum ++ natLe 8 pc ++
    natLe 4 serial ++ natLe 2 core ++ natLe 1 ctx ++ natLe 1 inner ++ natLe 8 work
  ((s.engineWrite 0 ctx (atAddr slot (bytes.take 16))).2.engineWrite 0 ctx (atAddr (slot + 16) (bytes.drop 16))).2.poolPut
    ctx pool 48 (idx + 1)

/-- The work identifier that an exit record carries: the team's lane 0 with fields 0 and 1 zero (R171). -/
def Team.exitWork (t : Team) : Nat :=
  let lo := (t.widths.getD 0 0) + (t.widths.getD 1 0)
  let w := (t.workIds.getD 0 0).toNat
  w / 2 ^ lo * 2 ^ lo

def State.teamExitRecord (s : State) (t : Team) (cause : Byte) (terminated : Bool) (pc : Nat) (inner : Byte) : State :=
  if t.fw then s
  else s.exitRecord t.ctx (t.pool % 64) cause.toNat
    ((if terminated then 2 else 0) + (if t.faultSum = 0 then 0 else 4)) t.index t.role t.faultSum.toNat pc t.group
    t.core inner.toNat t.exitWork

/-! ## Completion queues (R159, R160) -/

/-- QASSIGN and CTXMASK of a function (R424), registers of the PF: first queue and count; the contexts that are its own. -/
def State.qAssign (s : State) (f : Nat) : Nat × Nat :=
  let x := (s.mgmt.bar0.getD (0x100 + 4 * f) 0).toNat
  (bits x 0 8, bits x 8 8)
def State.ctxMask (s : State) (f : Nat) : Nat := (s.mgmt.bar0.getD (0x200 + 8 * f) 0).toNat
/-- The function that owns a device queue, command or completion (log 40); the one that owns a context, the PF where none is
named. -/
def State.funcOfQueue (s : State) (q : Nat) : Option Nat :=
  (List.range 17).find? fun f => decide ((s.qAssign f).1 ≤ q) && decide (q < (s.qAssign f).1 + (s.qAssign f).2)
def State.funcOfCtx (s : State) (ctx : Nat) : Nat :=
  ((List.range 17).find? fun f => bits (s.ctxMask f) ctx 1 = 1).getD 0

/-- The descriptor of one of the device's 256 completion queues (R141, R159); every one is present after reset with zero
fields. -/
def Mgmt.cpl (m : Mgmt) (q : Nat) : CplQueue :=
  m.cplq.getD q ⟨0, 0, 0, 0, 0, false, 0, 0, [], 0, 0⟩
def Mgmt.cmd (m : Mgmt) (q : Nat) : CmdQueue :=
  m.cmdq.getD q ⟨0, 0, 0, 0, 0, 0, 0, 0, [], []⟩

/-- A completion entry's bits other than PHASE (R160). -/
def completionEntry (tag cqnum status type index appended : Nat) : BitVec 128 :=
  BitVec.ofNat 128 (tag % 2 ^ 32 + cqnum % 256 * 2 ^ 32 + status % 256 * 2 ^ 40 + type % 256 * 2 ^ 48 +
    index % 2 ^ 32 * 2 ^ 64 + appended % 2 ^ 16 * 2 ^ 96)

/-- A completion entry joins those that wait for their queue, in order; COMPLETION_ENTRY_POST writes it (R160). -/
def State.complete (s : State) (q : Nat) (e : BitVec 128) : State :=
  (s.modMgmt fun m => { m with cplq := m.cplq.put q { m.cpl q with waiting := (m.cpl q).waiting ++ [e] } }).post
    (.completionEntryPost q)

/-! ## Draining requests in flight -/

/-- Perform every request in flight that can be performed. -/
def State.drainAll (s : State) : State := s.drain s.runnable s.drainFuel

/-- Write back and perform the dirty words of every line of a core that holds some (R105, R127). -/
def State.writeBackCore (s : State) (core : Nat) : State :=
  let lines := ((s.core core).l1.filter fun p => p.2.dirty ≠ 0).map (·.1)
  (lines.foldl (fun s l => s.writeBackLine core l) s).drainOwn core none

/-- Apply what a die can apply. -/
def State.applyDie (s : State) (die : Nat) : State := s.applyAll die (s.die die).apply.length

/-- Make every write issued so far visible wherever nothing holds it: requests and markers in flight are run, dirty words
of every core are written back, and every die applies what it can. The releases that are no release-class operations of a
team (a card's or TSTORE's completion, a graph node's retirement: R43, R135, R137) use it in place of a vector-clock entry,
which they do not raise (R114, R126). -/
def State.settleAll (s : State) : State :=
  let s := s.drainAll
  let s := (s.cores.map (·.1)).foldl State.writeBackCore s
  let s := s.drainAll
  (List.range 16).foldl (fun s k => s.applyDie (k % 4)) s

/-- An atomic update of a signal at its home bank ALU, by an agent of a die (R201): operation 0 store, 1 add. -/
def State.signalUpdate (s : State) (die ctx pa op : Nat) (v : DWord) : State :=
  let (id, s) := s.serial
  s.homeBank { id := id, agent := .die die, ctx := ctx, scope := Scope.package, op := op, ty := 2,
               lanes := [⟨pa, v, 0⟩], graph := false, stamp := (s.die die).clock }

/-- A store to a signal as a write whose performing is waited for: its serial number. -/
def State.signalStore (s : State) (die ctx pa : Nat) (v : DWord) : Nat × State :=
  let (id, s) := s.serial
  (id, (s.openWrite id die false).homeBank
    { id := id, agent := .die die, ctx := ctx, scope := Scope.package, op := 0, ty := 2,
      lanes := [⟨pa, v, 0⟩], graph := false, stamp := (s.die die).clock })

/-- The device wakes for work (R439). -/
def State.wake (s : State) : State := s.modMgmt fun m => { m with power := 0, idleSince := s.ns }

/-! ## What a release of all that was done waits for (R43, R116, R127, R170) -/

/-- An invalidation of a write that issued on a die, which a die has not applied. -/
def unappliedOf (o : Nat) (x : ApplyEnt) : Bool := match x with | .inval o' _ _ _ _ _ _ _ => decide (o' = o) | .marker .. => false
/-- Some die has yet to apply an invalidation of a write of die `o`. -/
def State.unapplied (s : State) (o : Nat) : Bool := s.dies.any fun p => p.2.apply.any (unappliedOf o)
/-- A write that issued on a die and that its home has not accepted (R116): in flight, or a dirty narrow word. -/
def State.epochOpen (s : State) (die : Nat) : Bool :=
  (s.openWrites.any fun p => decide (p.2.die = die) && !p.2.posted) ||
  s.cores.any fun p => decide (dieOfCore p.1 = die) && p.2.l1.any fun q => q.2.dirty ≠ 0
/-- Every write issued so far is performed, and applied on every die. -/
def State.allVisible (s : State) : Bool := (List.range Config.dies).all fun d => !s.epochOpen d && !s.unapplied d

/-! ## Records and pools (R43–R45, R170) -/

/-- What follows a pool's signal (R170): the completion entry with its status, or a cause in class 5. -/
def State.poolStatus (s : State) (ctx pool : Nat) (status : Byte) : State :=
  let e := s.poolEntry ctx pool
  if bits e 192 1 = 1 then s.complete (bits e 184 8) (completionEntry pool 0xFF status.toNat 0 0 0)
  else if status = 0 then s else s.postCause 0 status ctx 0

/-- Pool completion (R45, R170): the signal rises by 1 as a release of all the pool's work, then the completion entry is
posted. A signal that fails is not updated and its cause becomes the status, or is posted in class 5. Until the work's
writes are visible the completion waits, and RECORD_DISTRIBUTE of the pool tries it again. -/
def State.poolComplete (s : State) (ctx pool : Nat) : State :=
  let sig := bits (s.poolEntry ctx pool) 128 56
  if sig = 0 then s.poolStatus ctx pool 0
  else match s.signalXlat ctx sig true with
    | (.inr c, s) => s.poolStatus ctx pool c
    | (.inl pa, s) =>
      let s := s.settleAll
      if s.allVisible then (s.signalUpdate 0 ctx pa 1 1).poolStatus ctx pool 0
      else (s.modCtx ctx fun c => { c with completing := c.completing ++ [pool] }).postOnce (.recordDistribute ctx pool)

/-- Try a completion of a pool again that waits (R170). -/
def State.retryCompletion (s : State) (ctx pool : Nat) : State :=
  if (s.ctx ctx).completing.contains pool then
    (s.modCtx ctx fun c => { c with completing := c.completing.erase pool }).poolComplete ctx pool
  else s

/-- A graph node's share of work ends (R43): its count falls, and at 0 it may retire. -/
def State.nodeShare (s : State) (ctx : Nat) (src : Origin) : State :=
  match src with
  | .node n =>
    (s.modCtx ctx fun c => { c with nodes := c.nodes.modify n fun x => { x with left := x.left - 1 } }).post (.nodeRetire ctx n)
  | _ => s

/-- Records of a pool end (R45), each with its origin; the pool completes when none is left. -/
def State.recordsEnd (s : State) (pool : Nat) (srcs : List Origin) : State :=
  if srcs.isEmpty then s
  else
    let n := s.live pool
    let s := s.setLive pool (n - srcs.length)
    let s := srcs.foldl (fun s x => s.nodeShare (pool / 64) x) s
    if n = srcs.length then s.poolComplete (pool / 64) (pool % 64) else s

/-! ## Barriers (R275, R276) -/

/-- EXPECT: teams of the group that have not ended. -/
def State.expect (s : State) (g : Group) : Nat :=
  (g.teams.filter fun i => match s.team? i with | some t => decide (t.place ≠ .ended) | none => false).length

/-- Complete the open generation of barrier b: COUNT and every ARRIVED bit clear; waiters see the generation move. -/
def State.barrierComplete (s : State) (clu serial b : Nat) : State :=
  match s.group? clu serial with
  | none => s
  | some g =>
    let s := s.modGroup clu serial fun g => { g with counts := Tab.store 0 g.counts b 0, gens := g.gens.put b (g.gens.getD b 0 + 1) }
    g.teams.foldl (fun s i => s.modTeam i fun t => { t with arrived := t.arrived &&& ~~~(1#8 <<< b) }) s

/-- Complete the generation if COUNT = EXPECT > 0. -/
def State.barrierTest (s : State) (clu serial b : Nat) : State :=
  match s.group? clu serial with
  | none => s
  | some g =>
    if g.counts.getD b 0 = s.expect g && decide (g.counts.getD b 0 > 0) then s.barrierComplete clu serial b else s

/-! ## Tile names that die (R177, R180) -/

/-- A name never taken: FREE, generation 0. -/
def Name.fresh : Name := ⟨.free, 0, 0, 0, 0, 0, 0, false, 0, none, ⟨0, false, 0, 0, 0⟩, [], 0⟩

/-- The staged copies of a name that dies, or whose value is discarded, go (R74, R96). -/
def State.unstage (s : State) (clu name : Nat) : State :=
  (List.range 12).foldl (fun s i =>
    if (s.core (12 * clu + i)).garnet.any fun g => g.name = name then
      s.modCore (12 * clu + i) fun c => { c with garnet := c.garnet.filter fun g => g.name ≠ name }
    else s) s

/-- A name whose reads and definitions have ended returns from DYING to the free list (R177). DESIGN CHOICE (log 37): its
OWNER, SHAPE and TIER are cleared then; the table says only that it is appended to the list. -/
def State.freeName (s : State) (clu name : Nat) : State :=
  match (s.clu clu).names.get? name with
  | some n =>
    if n.st = .dying && n.reads = 0 && n.defn.isNone then
      let n := { n with st := .free, owner := 0, prov := false, shape := ⟨0, false, 0, 0, 0⟩, value := [], tier := 0, base := 0 }
      (s.unstage clu name).modClu clu fun c => { c with names := c.names.put name n, freed := c.freed ++ [name] }
    else s
  | none => s

/-- A read of a name completes (R177). -/
def State.endRead (s : State) (clu name : Nat) : State :=
  (s.modClu clu fun c => { c with names := c.names.modify name fun n => { n with reads := n.reads - 1 } }).freeName clu name

/-- A tile-task record leaves the queue, and its reads of operands are over. -/
def State.dropTask (s : State) (id : Nat) : State :=
  match s.tasks.get? id with
  | none => s
  | some k => k.reads.foldl (fun s n => s.endRead k.clu n) { s with tasks := s.tasks.del id }

/-- The name a tile task defines. -/
def Task.dest (k : Task) : Nat := (k.d.extractLsb' 0 12).toNat
/-- The 64 bytes of a record in the cluster task queue (R365). -/
def Task.record (k : Task) : BitVec 512 :=
  let st : Nat := match k.st with | .waiting => 0 | .ready => 1 | .running _ => 2 | .cancelled => 2 | .paused => 3
  BitVec.ofNat 512 (k.d.toNat + k.c.toNat * 2 ^ 16 + k.a.toNat * 2 ^ 32 + k.b.toNat * 2 ^ 48 +
    k.ctl.toNat % 2 ^ 16 * 2 ^ 64 + k.slot % 256 * 2 ^ 80 + k.core % 12 * 2 ^ 88 + k.group % 2 ^ 32 * 2 ^ 96 +
    k.step % 2 ^ 32 * 2 ^ 128 + st * 2 ^ 160 + k.cause.toNat * 2 ^ 168 + k.addr % 2 ^ 64 * 2 ^ 192)

/-- The names of a task's operands: C's only where zeroC is 0 (R364). -/
def Task.operands (k : Task) : List Nat :=
  ([k.a, k.b] ++ (if k.ctl.getLsbD 14 then [] else [k.c])).map fun h => (h.extractLsb' 0 12).toNat

/-- Drop a task and post the failure of the definition that it makes, if the name still has it (R179, R187). -/
def State.failTask (s : State) (id : Nat) (cause : Byte) : State :=
  match s.tasks.get? id with
  | none => s
  | some k =>
    let s := { s with tasks := s.tasks.put id { k with cause := cause } }.dropTask id
    match (s.clu k.clu).names.get? k.dest with
    | some n =>
      if n.defn = some (.task id) then
        (s.modClu k.clu fun c => { c with names := c.names.put k.dest { n with defn := some (.failed cause) } }).post
          (.tileDefinitionFail k.clu k.dest cause)
      else s
    | none => s

/-- A cancelled task stops at its step-block boundary (R368): it writes nothing, and a name that is dying of its kill is
rid of the definition. -/
def State.stopTask (s : State) (id : Nat) : State :=
  match s.tasks.get? id with
  | none => s
  | some k =>
    let s := s.dropTask id
    match (s.clu k.clu).names.get? k.dest with
    | some n =>
      if n.defn = some (.task id) then
        (s.modClu k.clu fun c => { c with names := c.names.put k.dest { n with defn := none } }).freeName k.clu k.dest
      else s
    | none => s

/-- The definition in flight on a name is cancelled: a running tile task stops at its next step-block boundary, anything
else at once. -/
def State.cancelDefn (s : State) (clu name : Nat) : State :=
  match (s.clu clu).names.get? name with
  | none => s
  | some n =>
    match n.defn with
    | some (.task id) =>
      match s.tasks.get? id with
      | some k =>
        match k.st with
        | .running _ => { s with tasks := s.tasks.put id { k with st := .cancelled } }
        | _ => (s.dropTask id).modClu clu fun c =>
            { c with names := c.names.modify name fun n => { n with defn := none } }
      | none => s.modClu clu fun c => { c with names := c.names.modify name fun n => { n with defn := none } }
    | _ => s.modClu clu fun c => { c with names := c.names.modify name fun n => { n with defn := none } }

/-- Tasks that wait on a name: those that read it and have not yet been given it. -/
def State.waitingTasks (s : State) (clu name : Nat) : List Nat :=
  (s.tasks.filter fun p => p.2.clu = clu && p.2.st = .waiting && !p.2.reads.contains name &&
    p.2.operands.contains name).map (·.1)

/-- The effect of TKILL on the name itself and on waiting tasks; parked paths are the caller's matter. -/
def State.dieName (s : State) (clu name : Nat) : State :=
  match (s.clu clu).names.get? name with
  | none => s
  | some n =>
    if n.st = .free || n.st = .dying then s
    else
      let s := s.cancelDefn clu name
      let s := (s.waitingTasks clu name).foldl (fun s i => s.failTask i Cause.tileKilledWait) s
      let s := s.modClu clu fun c => { c with names := c.names.modify name fun n => { n with st := .dying, prov := false } }
      s.freeName clu name

/-- Discard a team's provisional definitions (R187): each name returns to PENDING with DEFP and PROV 0, and the team's
tasks of the region are cancelled. -/
def State.discardProvisional (s : State) (tid clu : Nat) : State :=
  let mine := ((s.clu clu).names.filter fun p => p.2.prov && p.2.definer = tid).map (·.1)
  let s := mine.foldl (fun s n =>
    ((s.cancelDefn clu n).unstage clu n).modClu clu fun c =>
      { c with names := c.names.modify n fun x =>
          { x with st := .pending, prov := false, defn := none, value := [], tier := 0, base := 0 } }) s
  let tasks := (s.tasks.filter fun p => p.2.team = tid && p.2.region).map (·.1)
  tasks.foldl (fun s i =>
    match s.tasks.get? i with
    | some k => (match k.st with
      | .running _ => { s with tasks := s.tasks.put i { k with st := .cancelled } }
      | _ => s.dropTask i)
    | none => s) s

/-! ## Passes of an instruction, and what it leaves outstanding (R19, R22, R63, R70) -/

/-- Passes of an instruction: one for each non-empty word of its path (R22). -/
def passes (p : Path) : Nat := (wordsOf p.mask).length

/-- An outstanding instruction is entered against its flag and its blocks (R63, R68), and completes by event. -/
def State.enterOutst (s : State) (tid setf : Nat) (blocks : BitVec 22) (k : Cond) : State :=
  let (id, s) := s.serial
  (s.modTeam tid fun t => { t with outst := t.outst ++ [⟨id, setf, blocks, k⟩] }).post (.instructionComplete tid id)

/-- The key of the front end that serves a team. -/
def Team.front (t : Team) : Nat := 2 * t.core + if t.xfront && !t.fw then 1 else 0

/-- DROOPCFG (R70). -/
def State.droopLimit (s : State) (core : Nat) : Nat := ((s.core core).csr.getD 0x800 0).toNat

/-- The passes of the core's other front end, where their bank reads and these go over the limit in one cycle (R70). -/
def State.droopClash (s : State) (t : Team) (reads : Nat) : Option Sweep :=
  match s.sweep? t.core (!(t.xfront && !t.fw)) with
  | some w => if decide (reads > 0) && decide (w.reads > 0) && decide (w.reads + reads > s.droopLimit t.core) then some w else none
  | none => none

/-- Cycles that the governor holds back the n passes that an instruction makes now (R70): each once where its own reads go
over the limit, and an A-front's first until the X-front's passes that it clashes with are over. -/
def State.droopHold (s : State) (t : Team) (n reads : Nat) : Nat :=
  (if reads > s.droopLimit t.core then n else 0) +
    if t.front % 2 = 1 then 0 else match s.droopClash t reads with | some w => w.stop - s.cycle | none => 0

/-- The first cycle after the passes of an instruction that issues now (R19), behind those of JOINs that have just ended. -/
def State.sweepStop (s : State) (t : Team) (n reads : Nat) : Nat :=
  (match s.sweep? t.core (t.xfront && !t.fw) with | some w => w.stop | none => s.cycle) + n + s.droopHold t n reads

/-- Droop bubbles of a core (R70, R207). -/
def State.bubbles (s : State) (core n ctx : Nat) : State :=
  if n = 0 then s
  else (s.modCore core fun c =>
    { c with csr := Tab.store 0 c.csr 0x091 (c.csr.getD 0x091 0 + BitVec.ofNat 32 n) }).pmc core 0x06 n ctx

/-- An instruction's n passes are counted (R207) and occupy its front end (R19). Those of an A-front that clash with an
X-front's new passes are held back behind them (R70). -/
def State.spend (s : State) (t : Team) (n reads : Nat) : State :=
  let stop := s.sweepStop t n reads
  let behind := if t.front % 2 = 1 then s.droopClash t reads else none
  let s := (s.pmc t.core (if t.front % 2 = 1 then 0x04 else 0x03) n t.ctx).bubbles t.core (s.droopHold t n reads) t.ctx
  let s := match behind with
    | some w => { s with sweeps := s.sweeps.put (2 * t.core) { w with stop := w.stop + n } }.bubbles t.core n w.ctx
    | none => s
  { s with sweeps := s.sweeps.put t.front ⟨stop, reads, t.ctx⟩ }

/-- The instruction that a parked path waits in issues as its wait ends (R261): the SYNC that the path owes goes out (R165), it
makes its passes and raises the count of its SETF flag; the first cycle after its passes. A team off its core occupies no front
end. -/
def State.endWait (s : State) (tid pid : Nat) (t : Team) (p : Path) : Nat × State :=
  let here := decide (t.place = .resident)
  let s := if s.syncDue t p then s.traceSync tid t pid (slotAddr p.pc) p.mask else s
  let stop := if here then s.sweepStop t (passes p) 0 else s.cycle
  let s := if here then s.spend t (passes p) 0 else s
  (stop, if p.waitSetf = 15 then s else s.enterOutst tid p.waitSetf 0 (.atCycle stop))

/-- A path goes on where the instruction that it waited in sends it. -/
def Path.goOn (p : Path) (stop : Nat) : Path :=
  { p with pc := p.waitPc, entered := decide (p.waitPc % 16 ≠ 0), st := .ready, prog := 0, lastPass := stop, since := stop,
           yielded := p.yielded || p.waitYield }

/-! ## Register pools (R27, R280) -/

/-- The parked CLAIMs of a group on one core, in order. -/
def State.claimsOn (s : State) (g : Group) (core : Nat) : List (Nat × Nat × Nat) :=
  g.claims.filter fun p => match s.team? p.1 with | some t => decide (t.core = core) | none => false

/-- Whether a slot with this set-flag field may issue: no flag's count goes past 15 (R63). -/
def Team.flagRoom (t : Team) (now setf : Nat) : Bool := decide (setf ≥ 12) || decide (t.flagCount now setf < 15)

/-- A group's pool on a core serves parked CLAIMs from the head for as long as it holds all that the head needs (R280), and the
head may issue: one whose flag's count stands at 15 waits in issue (R63), and goes on from there. -/
def State.serveClaims (clu serial core : Nat) : Nat → State → State
  | 0, s => s
  | fuel + 1, s =>
    match s.group? clu serial with
    | none => s
    | some g =>
      match s.claimsOn g core with
      | [] => s
      | (tid, pid, k) :: _ =>
        match s.team? tid with
        | none => s
        | some t =>
          let need := k * (t.lanes / 32)
          let room := match t.paths.get? pid with | some p => t.flagRoom s.cycle p.waitSetf | none => true
          if g.blocks.getD core 0 < need || !room then s
          else
            let s := s.modGroup clu serial fun g =>
              { g with blocks := Tab.store 0 g.blocks core (g.blocks.getD core 0 - need), claims := g.claims.erase (tid, pid, k) }
            let s := s.modTeam tid fun t => { t with vcount := t.vcount + 8 * k }
            let s := match t.paths.get? pid with
              | some p => let (stop, s) := s.endWait tid pid t p; s.modPath tid pid fun p => p.goOn stop
              | none => s
            State.serveClaims clu serial core fuel s

/-- Serve what a group's pool on a core can. -/
def State.servePool (s : State) (clu serial core : Nat) : State :=
  match s.group? clu serial with | some g => State.serveClaims clu serial core g.claims.length s | none => s

/-! ## Ends (R42, R46, R142, R172, R418) -/

/-- The lanes of a team that no path has lost: the union of its paths' masks. -/
def Team.liveLanes (t : Team) : LaneMask := t.paths.foldl (fun m p => m ||| p.2.mask) 0

/-- Paths parked on some queues of a cluster are woken (R151). -/
def State.wakeQueues (s : State) (clu : Nat) (ns : List Nat) : State :=
  if ns.isEmpty then s
  else s.modClu clu fun c => { c with qserial := ns.foldl (fun t n => t.put n (t.getD n 0 + 1)) c.qserial }

/-- Free a queue (R142, R145): ports of its group's teams that are bound to it become unbound, parked paths are woken. -/
def State.freeQueue (s : State) (clu q : Nat) : State :=
  let owner := ((s.clu clu).queues.get? q).map (·.owner)
  let s := s.modClu clu fun c =>
    { c with queues := c.queues.del q, qserial := c.qserial.put q (c.qserial.getD q 0 + 1) }
  { s with teams := s.teams.map fun (i, t) =>
      (i, if cluOfCore t.core = clu && !t.fw && owner = some t.group then { t with ports := t.ports.filter fun p => p.2 ≠ q } else t) }

/-- A group ends (R42): exit records for lane faults, its names are killed, its queues freed, its resources returned,
and the record that launched it stops counting. -/
def State.endGroup (s : State) (clu serial : Nat) : State :=
  match s.group? clu serial with
  | none => s
  | some g =>
    let s := g.teams.foldl (fun s i =>
      match s.team? i with
      | some t =>
        if t.faultSum ≠ 0 && !t.terminated then
          s.teamExitRecord t Cause.localRange false (t.firstFault.getD 0) 0
        else s
      | none => s) s
    let names := ((s.clu clu).names.filter fun p => p.2.st ≠ .free && p.2.owner = serial).map (·.1)
    let s := names.foldl (fun s n => s.dieName clu n) s
    let qs := ((s.clu clu).queues.filter fun p => p.2.owner = serial).map (·.1)
    let s := qs.foldl (fun s q => s.freeQueue clu q) s
    let s := s.modClu clu fun c => { c with groups := c.groups.del serial }
    let s := { s with teams := s.teams.filter fun p => !g.teams.contains p.1 }
    let s := if g.whole && !g.crew then s.recordsEnd g.pool g.srcs else s
    s.post (.groupAdmission clu)

/-- A tile read of a path that was woken and has not issued is over (R177). -/
def State.endWoken (s : State) (clu tid : Nat) (p : Nat × Path) : State :=
  match p.2.st with
  | .parked (.tile n) => if p.2.prog = 1 then (s.endRead clu n).modPath tid p.1 fun q => { q with prog := 0 } else s
  | _ => s

/-- A path leaves the lists it is parked on. -/
def State.leavePath (s : State) (tid pid : Nat) (t : Team) (p : Path) : State :=
  let clu := cluOfCore t.core
  let s := (s.endWoken clu tid (pid, p)).modClu clu fun c =>
    { c with tallocs := c.tallocs.filter fun q => q ≠ (tid, pid),
             groups := c.groups.map fun (k, g) => (k, { g with claims := g.claims.filter fun q => (q.1, q.2.1) ≠ (tid, pid) }) }
  if p.st = .parked .claim then s.servePool clu t.group t.core else s

/-- A team's paths leave every list they are parked on, the pool then serves the next CLAIMs (R280), and the team's fault jobs
are withdrawn (R418, R420). -/
def State.leaveLists (s : State) (tid : Nat) (t : Team) : State :=
  let clu := cluOfCore t.core
  let s := t.paths.foldl (fun s p => s.endWoken clu tid p) s
  let s := s.modClu clu fun c =>
    { c with tallocs := c.tallocs.filter fun p => p.1 ≠ tid,
             groups := c.groups.map fun (k, g) => (k, { g with claims := g.claims.filter fun p => p.1 ≠ tid }) }
  let s := s.servePool clu t.group t.core
  s.modDie (dieOfCore t.core) fun d =>
    { d with jobs := d.jobs.map fun (k, l) => (k, if k = 0 || k = 7 then l.filter fun j => j.team ≠ tid else l) }

/-- Whether a request is of a team's commit group (R378). -/
def isCommit (tid : Nat) : Instr → Bool
  | .commitGroup t => decide (t = tid)
  | _ => false

/-- A commit that is not to happen is withdrawn (R378): its reservations are released, its held lines are discarded
unperformed, what queued behind them goes on in order, and the revocations they started go on without them. -/
def State.withdrawCommit (s : State) (tid : Nat) : State :=
  let others (h : Held) : List Instr := h.behind.filter fun e => !isCommit tid e
  let (mine, rest) := s.held.partition fun p => isCommit tid p.2.req
  let s := { s with held := rest.map fun (k, h) => (k, { h with behind := others h }),
                    pending := (mine.flatMap fun p => others p.2) ++ s.pending.filter fun e => !isCommit tid e }
  (mine.flatMap fun p => p.2.objs).eraseDups.foldl (fun s o =>
    match s.revokes.get? o with | some r => s.postOnce (.revocation o r.die) | none => s) s

/-- A team ends (R42, R46): with a TERMINATED exit record where a cause ended it. Its slot and blocks stay held until
its group ends. -/
def State.endTeam (s : State) (tid : Nat) (why : Option (Byte × Nat × Byte)) : State :=
  match s.team? tid with
  | none => s
  | some t =>
    let s := match why with | some (c, pc, inner) => s.teamExitRecord t c true pc inner | none => s
    let s := if t.guard.isEmpty then s else (s.withdrawCommit tid).discardProvisional tid (cluOfCore t.core)
    let s := s.leaveLists tid t
    if t.fw then { s with teams := s.teams.del tid }
    else
      let clu := cluOfCore t.core
      let s := s.wakeQueues clu (t.rests.flatMap fun r => r.2.locks)
      let s := s.modTeam tid fun t =>
        { t with place := .ended, paths := [], recs := [], deferred := [], guard := [], gbytes := [], gscopes := [], rests := [],
                 terminated := t.terminated || why.isSome }
      -- R276: a counted arrival is taken back with the expected one
      let s := (List.range 8).foldl (fun s b =>
        let s := if t.arrived.getLsbD b then
            s.modGroup clu t.group fun g => { g with counts := Tab.store 0 g.counts b (g.counts.getD b 0 - 1) }
          else s
        s.barrierTest clu t.group b) s
      match s.group? clu t.group with
      | none => s
      | some g =>
        let s := if g.whole then s
          else
            let lanes := (lanesOf (t.liveLanes ||| t.faultmask)).filter fun l => l < t.carried
            s.recordsEnd t.pool (lanes.map fun l => g.srcs.getD l .code)
        if s.expect g = 0 then s.endGroup clu t.group else s

/-! ## Paths that merge (R41) -/

/-- A record whose JOIN every path it encloses has reached. -/
def Team.joinReady (t : Team) (r : Nat) : Bool :=
  let inside := t.paths.filter fun p => p.2.chain.contains r
  !inside.isEmpty && inside.all fun p => decide (p.2.st = .parked (.join r))

/-- Whether the JOINs of a record's paths may all issue: none takes a flag's count past 15 (R63). -/
def Team.joinRoom (t : Team) (now r : Nat) : Bool :=
  let inside := t.paths.filter fun p => p.2.chain.contains r
  (List.range 12).all fun f =>
    let n := (inside.filter fun p => p.2.waitSetf = f).length
    decide (n = 0) || decide (t.flagCount now f + n ≤ 15)

/-- A guarded region's path (R55) is renumbered. -/
def Team.renumber (t : Team) (gone : Nat → Bool) (to_ : Nat) : Team :=
  { t with guard := t.guard.map fun g => if gone g.path then { g with path := to_ } else g }

/-- Merge the paths of a record into one, under the owner's number: it goes on after the owner's JOIN, or after that of
the first path to arrive, gives way as that JOIN's bundle says (R238) and counts distances from that JOIN's last pass (R242);
the record and every record inside it close. A region's path keeps its ownership through the merge (R55). -/
def Team.mergeRecord (t : Team) (r : Nat) (stop : Nat) : Team :=
  let ps := t.paths.filter fun p => p.2.chain.contains r
  let owner := match t.recs.get? r with | some x => x.owner | none => 0
  let first := ps.foldl (fun (acc : Option Path) p =>
    match acc with | none => some p.2 | some q => if p.2.prog < q.prog then some p.2 else acc) none
  match (match ps.find? fun p => p.1 = owner with | some p => some p.2 | none => first) with
  | none => t
  | some base =>
    let closed := ps.flatMap fun p => p.2.chain.takeWhile (· ≠ r)
    let merged : Path := { base with
      pc := base.waitPc, entered := base.waitPc % 16 ≠ 0, mask := ps.foldl (fun m p => m ||| p.2.mask) 0,
      chain := (base.chain.dropWhile (· ≠ r)).drop 1, st := .ready, prog := 0, lastPass := stop, since := stop,
      yielded := base.yielded || base.waitYield }
    let t := t.renumber (fun k => ps.any fun p => p.1 = k) owner
    { t with paths := Tab.put (t.paths.filter fun p => !(p.2.chain.contains r)) owner merged,
             recs := t.recs.filter fun x => x.1 ≠ r && !closed.contains x.1 }

/-- Records that enclose no path any more are closed: every path of theirs has exited. -/
def Team.dropEmptyRecords (t : Team) : Team :=
  { t with recs := t.recs.filter fun x => t.paths.any fun p => p.2.chain.contains x.1 }

/-- The JOINs of a record's paths issue as their wait ends (R261): each makes its passes and raises the count of its SETF
flag. That of path `me`, which is at issue itself, does so as it retires. -/
def State.issueJoins (s : State) (tid : Nat) (t : Team) (me : Option Nat) (r : Nat) : State :=
  (t.paths.filter fun p => p.2.chain.contains r && me ≠ some p.1).foldl (fun s p => (s.endWait tid p.1 t p.2).2) s

/-- Merge whatever can merge, innermost first; a record of which a JOIN would take a flag's count past 15 waits (R63). The passes
of the JOIN at issue, path `me`'s, are the last (R242). -/
def State.mergeJoins (tid : Nat) (me : Option Nat) : Nat → State → State
  | 0, s => s
  | fuel + 1, s =>
    match s.team? tid with
    | none => s
    | some t =>
      match t.recs.find? fun x => t.joinReady x.1 && t.joinRoom s.cycle x.1 with
      | none => s.modTeam tid Team.dropEmptyRecords
      | some x =>
        let s := s.issueJoins tid t me x.1
        let mine := match me.bind t.paths.get? with
          | some p => if p.chain.contains x.1 then passes p else 0
          | none => 0
        let stop := s.sweepStop t mine 0
        State.mergeJoins tid me fuel ((s.modTeam tid fun t => t.mergeRecord x.1 stop).pmc t.core 0x0F 1 t.ctx)

/-- JOINs that can end do so; `me` is the path whose JOIN is at issue, if one is. -/
def State.joinPaths (s : State) (tid : Nat) (me : Option Nat) : State := State.mergeJoins tid me 9 s

/-- The number that stands for a path that has exited. -/
def noPath : Nat := 64

/-- Lanes leave a team for good (R42), by EXIT or by a lane fault: their path's mask loses them, a path without lanes
ends (R272), and the team ends with its last lane. Records of exited lanes stop counting (R45). -/
def State.removeLanes (s : State) (tid : Nat) (m : LaneMask) (exited : Bool) : State :=
  match s.team? tid with
  | none => s
  | some t =>
    let g := s.group? (cluOfCore t.core) t.group
    let s := s.modTeam tid fun t =>
      let left : Tab Path := (t.paths.map fun (k, p) => (k, { p with mask := p.mask &&& ~~~m })).filter fun p => p.2.mask ≠ 0
      { t.renumber (fun k => (left.get? k).isNone) noPath with paths := left }
    let s := match g with
      | some g =>
        if exited && !g.whole && !t.fw then
          s.recordsEnd t.pool (((lanesOf m).filter fun l => l < t.carried).map fun l => g.srcs.getD l .code)
        else s
      | none => s
    match s.team? tid with
    | some t => if t.paths.isEmpty then s.endTeam tid none else s.joinPaths tid none
    | none => s

/-! ## Taking a trap (R54, R55, R414, R415) -/

/-- A trap to deliver: cause, detail for h1, faulting virtual address, the lanes at fault where the spec names them, and
the address at which RFT resumes. -/
structure TrapReq where
  cause  : Byte
  h1     : Word
  addr   : Nat
  lanes  : Option LaneMask
  resume : Nat
  deriving DecidableEq, Repr

/-- The context's handler address as the team's die holds it (R413); 0 for none. -/
def State.handler (s : State) (t : Team) : Nat :=
  let lo := s.ctxCsr (dieOfCore t.core) t.ctx 0x876
  let hi := s.ctxCsr (dieOfCore t.core) t.ctx 0x877
  (lo.toNat / 16) * 16 + bits hi.toNat 0 24 * 2 ^ 32

/-- The faulting word of R55: the lowest word with a faulting lane. -/
def lowWord (m : LaneMask) : Nat := (wordsOf m).headD 0

/-- Fill the h bank at a trap (R55), with HCAUSE and HFLT copied from it (R72). -/
def Team.fillBank (t : Team) (r : TrapReq) (lanes : LaneMask) : Team :=
  let w := lowWord lanes
  let t := t.setH 0 (r.cause.setWidth 32)
  let t := t.setH 1 r.h1
  let t := t.setH 2 (BitVec.ofNat 32 r.resume)
  let t := t.setH 3 (BitVec.ofNat 32 (bits r.resume 32 24))
  let t := t.setH 4 (BitVec.ofNat 32 r.addr)
  let t := t.setH 5 (BitVec.ofNat 32 (bits r.addr 32 24))
  let t := t.setH 6 (t.mode.setWidth 32 ||| (BitVec.ofNat 32 w <<< 16))
  let t := t.setH 7 (wordOfMask lanes w)
  { t with hcause := r.cause.setWidth 32, hflt := lanes }

/-- An instruction has written n registers from an operand code on, in some lanes: they hold no error any more (R446). -/
def Team.mend (t : Team) (code n : Nat) (lanes : LaneMask) : Team :=
  { t with flaws := t.flaws.filter fun f => !(decide (code ≤ f.1) && decide (f.1 < code + n) &&
      ((decide (0x80 ≤ f.1) && decide (f.1 < 0x100)) || lanes.getLsbD f.2)) }

/-- Enter the handler (R414 steps 3 to 5): the bank is filled, the mode register becomes 0, the window opens, and the
path enters the handler's bundle, its distances counting from the trapping instruction (R242). -/
def Team.enterHandler (t : Team) (pid vec now : Nat) (r : TrapReq) (lanes : LaneMask) : Team :=
  let t := (t.fillBank r lanes).mend 0xE0 8 0
  { t with mode := 0,
           paths := t.paths.modify pid fun p =>
             { p with pc := vec, entered := false, win := .trap, st := .ready, prog := 0, yielded := false, heldFrom := none,
                      lastPass := now + 1, since := now + 1,
                      hitAt := if r.cause = Cause.watch then some (4 * r.resume + r.h1.toNat % 4) else none } }

/-- Take a trap on a path (R414, R415): the handler is entered; without one, or inside one (HANDLER_NEST), the team ends
with a TERMINATED exit record. `pc` is the instruction at fault. An agent of the firmware slot has no handler: a trap
ends it (log 15). -/
def State.takeTrap (s : State) (tid pid pc : Nat) (r : TrapReq) : State :=
  match s.team? tid with
  | none => s
  | some t =>
    match t.paths.get? pid with
    | none => s
    | some p =>
      let s := s.pmc t.core 0x15 1 t.ctx
      if t.fw then s.endTeam tid none
      else if p.win = .trap then s.endTeam tid (some (Cause.handlerNest, pc, r.cause))
      else if s.handler t = 0 then s.endTeam tid (some (r.cause, pc, 0))
      else
        let (lanes, s) := match r.lanes with
          | some m => (m, s)
          | none => let (k, s) := s.draw; (Config.freeLanes k &&& p.mask, s)
        let s := s.leavePath tid pid t p
        s.modTeam tid fun t => t.enterHandler pid (s.handler t) s.cycle r lanes

/-- Whether a handler of the team runs. -/
def Team.inHandler (t : Team) : Bool := t.paths.any fun p => p.2.win = .trap

/-- A cause that does not come from the instruction that issues waits for the team's next instruction boundary (R416). -/
def State.deferTrap (s : State) (tid : Nat) (d : Deferred) : State :=
  (s.modTeam tid fun t => { t with deferred := t.deferred ++ [d] }).postOnce (.deferredTrap tid)

/-- A wait of a path ends in a fault (R46): the path takes it now, or after the handler that runs (R416). -/
def State.faultParked (s : State) (tid pid : Nat) (cause : Byte) (h1 : Word) (addr : Nat) (lanes : Option LaneMask) :
    State :=
  match s.team? tid with
  | none => s
  | some t =>
    match t.paths.get? pid with
    | none => s
    | some p =>
      if (t.inHandler && p.win ≠ .trap) || t.place ≠ .resident then s.deferTrap tid ⟨cause, h1, addr, some pid, lanes⟩
      else s.takeTrap tid pid (slotAddr p.pc) ⟨cause, h1, addr, lanes, slotAddr p.pc⟩

/-- Whether a path is inside an AEXIT whose group has been performed, or an AREG that has taken its object: no boundary of the
team lies there (R376, R378, R416), nor inside an instruction of which a part is left to do. -/
def Path.midCommit (p : Path) : Bool := (p.st = .parked .commit && p.prog = 2) || p.st = .parked .registered

/-- Where a team's first held cause is delivered at a boundary of path `pid` (R416): at the path it names, or, where it names none
or that one has gone, at `pid`. Nowhere while a handler runs, the team is off its core or that path is inside an instruction. -/
def Team.deliverTo (t : Team) (pid : Nat) : Option (Deferred × Nat × Path) :=
  match t.deferred with
  | [] => none
  | d :: _ =>
    if t.inHandler || t.place ≠ .resident then none
    else
      let q := match d.path with | some k => if (t.paths.get? k).isSome then k else pid | none => pid
      match t.paths.get? q with
      | none => none
      | some p => if p.midCommit || (t.rests.get? q).isSome then none else some (d, q, p)

/-- Deliver the first of a team's held causes at an instruction boundary (R416). It comes from no instruction of the path, so the
path's distances count as before. -/
def State.deliverDeferred (s : State) (tid pid : Nat) : State :=
  match s.team? tid with
  | none => s
  | some t =>
    match t.deliverTo pid with
    | none => s
    | some (d, q, p) =>
      let s := (s.modTeam tid fun t => { t with deferred := t.deferred.drop 1 }).takeTrap tid q (slotAddr p.pc)
        ⟨d.cause, d.h1, d.addr, d.lanes, slotAddr p.pc⟩
      s.modPath tid q fun x => { x with lastPass := p.lastPass }

/-! ## Return from a trap (R285) -/

/-- What RFT checks and does. -/
inductive Return where
  | priv
  | align
  | modeInvalid
  | resume (t : Team)
  deriving DecidableEq, Repr

/-- RFT (R241, R285): h3:h2 must name a slot, h6 [15:0] a valid mode; then the mode is restored, the window closes and
the path resumes at h3:h2, with a breakpoint there, or the watchpoint whose hit there the handler was entered for, passed over
once (R441, R442). -/
def Team.returnFromTrap (t : Team) (pid : Nat) : Return :=
  match t.paths.get? pid with
  | none => .priv
  | some p =>
    if p.win ≠ .trap then .priv
    else
      let a := (t.hreg 2).toNat + bits (t.hreg 3).toNat 0 24 * 2 ^ 32
      let m := (t.hreg 6).extractLsb' 0 16
      if a % 4 ≠ 0 || a % 16 = 0 then .align
      else if !modeValid m then .modeInvalid
      else
        .resume { t with
          mode := m,
          paths := t.paths.modify pid fun p =>
            { p with pc := a, entered := false, win := .closed, bpSkip := some a,
                     wpSkip := p.hitAt.filter fun h => decide (h / 4 = a), hitAt := none } }

/-! ## Faults that firmware repairs (R84) -/

/-- The failure that a requester's access to a physical address meets (R427). -/
def State.apFail (s : State) (who : Requester) (pa : Nat) : Option ApFail :=
  s.mgmt.fails.find? fun f => decide (f.who = who) && (if f.fabric then isFabricAp pa else isHostAp pa)
/-- When a request that no completion answers times out (R427): 50 ms after it went out. -/
def State.failTime (s : State) (f : ApFail) : Nat := f.sent.getD s.ns + 50000000
/-- The failure is known now. -/
def State.failDue (s : State) (f : ApFail) : Bool := !f.late || decide (s.ns ≥ s.failTime f)
/-- The request goes out whose completion will not come. -/
def State.sendFail (s : State) (f : ApFail) : State :=
  s.modMgmt fun m => { m with fails := m.fails.map fun x => if x = f then { x with sent := some (x.sent.getD s.ns) } else x }
/-- A requester has met a failure with a cause. -/
def State.metFail (s : State) (who : Requester) (cause : Byte) : State :=
  s.modMgmt fun m => { m with fails := m.fails.eraseP fun f => decide (f.who = who) && decide (f.cause = cause) }

/-- The words of a class-0 job (R433). -/
def faultWords (t : Team) (pid : Nat) (cause : Byte) (write : Bool) (va : Nat) : Word × Word × Word :=
  (BitVec.ofNat 32 (t.core + t.slot * 2 ^ 10 + pid * 2 ^ 15 + cause.toNat * 2 ^ 19 + (if write then 2 ^ 27 else 0)),
   BitVec.ofNat 32 va, BitVec.ofNat 32 (bits va 32 24 + t.ctx * 2 ^ 24))

/-- A memory instruction or a fetch meets a condition of R80: the path parks, held as unissued, and a class-0 job is
posted; a full job queue holds the posting back until it has room (R383). The firmware slot's agents serve those jobs
themselves, so a fault of their own ends them (log 15). -/
def State.faultPark (s : State) (tid pid : Nat) (cause : Byte) (write : Bool) (va level : Nat)
    (lanes : Option LaneMask) : State :=
  match s.team? tid with
  | none => s
  | some t =>
    if t.fw then s.endTeam tid none
    else
      let s := s.pmc t.core 0x0D 1 t.ctx
      let (w1, w2, w3) := faultWords t pid cause write va
      let s := s.postJob (dieOfCore t.core) 0 w1 w2 w3 tid pid none
      let s := match t.paths.get? pid with | some p => s.endWoken (cluOfCore t.core) tid (pid, p) | none => s
      s.modPath tid pid fun p => { p with st := .parked (.fault level lanes) }

/-! ## Guarded aborts (R187, R189) -/

/-- The path that stands for the team at an abort (R55): the AENTER's own path, which stays on the original path at
every split and keeps that through merges, or, if it has exited, the live path whose lowest lane is lowest. -/
def Team.abortPath (t : Team) (g : GuardEntry) : Option (Nat × Path) :=
  match t.paths.get? g.path with
  | some p => some (g.path, p)
  | none => t.paths.foldl (fun acc q =>
      match acc with
      | none => some q
      | some r => if (lanesOf q.2.mask).headD 1024 < (lanesOf r.2.mask).headD 1024 then some q else acc) none

/-- Abort a team's regions (R187): guard lines and provisional definitions go, and the team stands as one path at the
fallback of the outermost entry, with that entry's mode, predicates and lanes. With `deliver` the h bank is filled and
the fallback window opens; without it (R189) the path stands at the outermost AENTER. With `hold` it waits for the
release of step 5 of R188. -/
def State.abortTeam (s : State) (tid : Nat) (cause : Byte) (obj : Nat) (deliver : Bool) (hold : Option Nat) : State :=
  match s.team? tid with
  | none => s
  | some t =>
    match t.guard.getLast? with
    | none => s
    | some g =>
      match t.abortPath g with
      | none => s
      | some (own, p) =>
        let s := (s.pmc t.core 0x14 1 t.ctx).withdrawCommit tid
        let s := s.discardProvisional tid (cluOfCore t.core)
        let s := s.leaveLists tid t
        let stop := slotAddr p.pc
        let np : Path := { p with
          pc := if deliver then g.fallback else g.addr, entered := false, mask := g.mask &&& ~~~t.faultmask,
          chain := g.chain.filter fun r => (t.recs.get? r).isSome, st := (match hold with | some o => .parked (.release o) | none => .ready),
          prog := 0, win := if deliver then .fallback else p.win, yielded := false, since := s.cycle,
          bpSkip := none, wpSkip := none }
        s.modTeam tid fun t =>
          let t := { t with mode := g.mode, p := g.preds, guard := [], gbytes := [], gscopes := [], rests := [],
                            recs := t.recs.filter fun r => g.chain.contains r.1,
                            paths := [(own, np)] }
          if deliver then
            let t := t.setH 0 (cause.setWidth 32)
            let t := t.setH 1 (BitVec.ofNat 32 obj)
            let t := t.setH 2 (BitVec.ofNat 32 stop)
            let t := t.setH 3 (BitVec.ofNat 32 (bits stop 32 24))
            let t := t.setH 4 0
            let t := t.setH 5 0
            let t := t.setH 6 (g.mode.setWidth 32)
            let t := t.setH 7 0
            { t with hcause := cause.setWidth 32, hflt := 0 }.mend 0xE0 8 0
          else t

/-! ## Cross trigger (R443, R444) -/

/-- The state code of a stop-report record. -/
def stopState (t : Team) (p : Path) : Nat :=
  if t.place ≠ .resident then 2 else if p.win = .trap then 3 else match p.st with | .ready => 0 | .parked _ => 1

/-- One stop-report record (R444). -/
def stopRecord (t : Team) (pid : Nat) (p : Path) : List Byte :=
  natLe 2 t.core ++ natLe 1 t.slot ++ natLe 1 pid ++ natLe 1 (stopState t p) ++ natLe 3 0 ++ natLe 8 (slotAddr p.pc) ++
  natLe 4 (wordMask p.mask).toNat ++ natLe 4 t.group ++ natLe 8 0

/-- Write one record into a die's ring for the context, if it has one. -/
def State.stopReport (s : State) (die ctx : Nat) (rec_ : List Byte) : State :=
  let size := (s.ctxCsr die ctx 0x532).toNat
  if size = 0 then s
  else
    let base := (s.ctxCsr die ctx 0x530).toNat / 32 * 32 + bits (s.ctxCsr die ctx 0x531).toNat 0 20 * 2 ^ 32
    let idx := (s.ctxCsr die ctx 0x533).toNat
    let (_, s) := s.engineWrite die ctx (atAddr (base + 32 * (idx % size)) rec_)
    s.setCtxCsr die ctx 0x533 (BitVec.ofNat 32 (idx + 1))

/-- Whether a path parked for this reason keeps its place on a halt: a JOIN is no list that R420 names, and an AEXIT whose
commit has been performed completes first. -/
def haltKeeps : Wait → Nat → Bool
  | .join _, _ => true
  | .commit, n => n = 2
  | .registered, _ => true
  | _, _ => false

/-- Whether a parked instruction that a halt takes off its list starts afresh when it issues again: its revocation or job was withdrawn
or goes on without it (R420). -/
def haltRestarts : PathSt → Bool
  | .parked (.revoke _) => true
  | .parked (.translations ..) => true
  | .parked .fwcall => true
  | _ => false

/-- A team holds an XTRIG_HALT that it has not taken. -/
def Team.halting (t : Team) : Bool := t.deferred.any fun d => decide (d.cause = Cause.xtrigHalt)

/-- Halt a context on all dies (R443): stop reports, then XTRIG_HALT for every team but the one that takes its own
cause; a team that already holds one takes no second. Parked paths leave their lists. DESIGN CHOICE (log 47): a trigger
that comes while a halt is on its way to every other team belongs to that halt, and writes no second set of records. -/
def State.haltContext (s : State) (ctx die : Nat) (except : Option Nat) : State :=
  let mine := s.teams.filter fun p => p.2.ctx = ctx && !p.2.fw && decide (p.2.place ≠ .ended)
  let report := (mine.any fun p => decide (except ≠ some p.1) && !p.2.halting) || !(mine.any fun p => p.2.halting)
  let s := if !report then s else mine.foldl (fun s p =>
    p.2.paths.foldl (fun s q => s.stopReport (dieOfCore p.2.core) ctx (stopRecord p.2 q.1 q.2)) s) s
  mine.foldl (fun s p =>
    if except = some p.1 then s
    else if p.2.halting then s
    else
      let s := s.leaveLists p.1 p.2
      let s := s.modTeam p.1 fun t =>
        { t with paths := t.paths.map fun (k, q) => (k, { q with
            st := (match q.st with | .parked w => if haltKeeps w q.prog then q.st else .ready | .ready => .ready),
            prog := if haltRestarts q.st then 0 else q.prog }) }
      s.deferTrap p.1 ⟨Cause.xtrigHalt, BitVec.ofNat 32 die, 0, none, none⟩) s

end Sys2Proof.Machine
end

