-- ==== Sys2Proof/Machine/Operands.lean ====
section
/-!
DEFINITION. Sys2Proof/Machine/Operands.lean: what every instruction names (R236, R257–R260, and each entry's operand
kinds), as data; and the checks at issue that need nothing else: steps 3 to 7 of R247, the register blocks of the
interlock (R68), and the queue occurrences (R146).
-/
namespace Sys2Proof.Machine

/-- Which kinds of code a value field accepts (R257): v, s, q, uniform specials, per-lane specials, h, zr. -/
structure Accept where
  v    : Bool
  s    : Bool
  q    : Bool
  spec : Bool
  lane : Bool
  h    : Bool
  z    : Bool
  deriving DecidableEq, Repr

/-- Every value code (R236). -/
def Accept.value : Accept := ⟨true, true, true, true, true, true, true⟩
/-- An address or offset operand: any but a q code (R85). -/
def Accept.noQ : Accept := ⟨true, true, false, true, true, true, true⟩
/-- A uniform value operand: an L32 port is told apart at the queue tests (R147). -/
def Accept.uni : Accept := ⟨false, true, true, true, false, true, true⟩
/-- A uniform address or offset operand. -/
def Accept.uniNoQ : Accept := ⟨false, true, false, true, false, true, true⟩
/-- A destination that must be per lane: v, q or zr. -/
def Accept.perLane : Accept := ⟨true, false, true, false, false, false, true⟩
/-- A v code only, an s code only, v or zr (CALLX's link), and v, s or h (CAS). -/
def Accept.v_ : Accept := ⟨true, false, false, false, false, false, false⟩
def Accept.s_ : Accept := ⟨false, true, false, false, false, false, false⟩
def Accept.vz : Accept := ⟨true, false, false, false, false, false, true⟩
def Accept.vsh : Accept := ⟨true, true, false, false, false, true, false⟩
/-- A global address: a v or s pair, or zr (R325); an h pair while its window is open (R54). -/
def Accept.addr : Accept := ⟨true, true, false, false, false, true, true⟩
/-- A uniform global address. -/
def Accept.addrU : Accept := ⟨false, true, false, false, false, true, true⟩

/-- A value operand: its field (0 A, 1 B, 2 C), code, whether it is read and written, whether it is a 64-bit pair, how
many registers it covers, and what its field accepts. -/
structure Opnd where
  fld  : Nat
  code : Code
  src  : Bool
  dst  : Bool
  wide : Bool
  regs : Nat
  acc  : Accept
  deriving DecidableEq, Repr

def regsOf (wide : Bool) : Nat := if wide then 2 else 1
def sCode (r : BitVec 5) : Code := 0x4#3 ++ r
def vCode (r : BitVec 7) : Code := 0x0#1 ++ r

/-- The common operands: a value destination, one that is also read, and value sources. -/
def dstD (d : Code) (wide : Bool) (acc : Accept := Accept.value) : Opnd := ⟨0, d, false, true, wide, regsOf wide, acc⟩
def updD (d : Code) (wide : Bool) (acc : Accept := Accept.value) : Opnd := ⟨0, d, true, true, wide, regsOf wide, acc⟩
def srcA (x : Code) (wide : Bool) (acc : Accept := Accept.value) : Opnd := ⟨0, x, true, false, wide, regsOf wide, acc⟩
def srcB (x : Code) (wide : Bool) (acc : Accept := Accept.value) : Opnd := ⟨1, x, true, false, wide, regsOf wide, acc⟩
def srcC (y : Code) (wide : Bool) (acc : Accept := Accept.value) : Opnd := ⟨2, y, true, false, wide, regsOf wide, acc⟩
/-- n registers from an s or v code on. -/
def spanS (fld : Nat) (r : BitVec 5) (n : Nat) (src dst wide : Bool) : Opnd := ⟨fld, sCode r, src, dst, wide, n, Accept.s_⟩
def spanV (fld : Nat) (r : BitVec 7) (n : Nat) (src dst : Bool) : Opnd := ⟨fld, vCode r, src, dst, false, n, Accept.v_⟩

/-- What an instruction names and where it may issue. -/
structure Info where
  /-- Value operands in field order. -/
  ops    : List Opnd := []
  /-- The sub-fields, immediates and mode.T are ones the entry accepts (step 5). -/
  fields : Bool := true
  /-- Predicates read, and the one written. -/
  predR  : List Nat := []
  predW  : Option Nat := none
  /-- It computes one value from per-lane sources (R258). -/
  single : Bool := false
  /-- Kinds of destination port that are ILLEGAL_OPERAND at step 5: U32 and TNAME of RAND (R316), L32 of a BALLOT that names a
  word (R321). Other instructions raise QUEUE_KIND. -/
  badKinds : List Nat := []
  /-- 0 anywhere, 1 firmware slot only, 2 firmware slot or an open trap-handler window (R246). -/
  priv   : Nat := 0
  /-- The CSR it writes, which its view must hold (R71, R246). -/
  csr    : Option Nat := none
  /-- The firmware slot may not issue it (R343). -/
  noFw   : Bool := false
  xonly  : Bool := false
  /-- A v register that no field names (CALL's link, R268). -/
  top    : Option Nat := none
  /-- It reads its guard predicate (R68). -/
  guard  : Bool := true
  /-- Not allowed inside a guarded region (R186, R344). -/
  ban    : Bool := false
  /-- Register blocks it reads and writes that no operand names (R68). -/
  also   : BitVec 22 := 0
  /-- Result latency L (R243); 0 for "flag". -/
  lat    : Nat := 0
  deriving DecidableEq, Repr

/-- The T that floating-point instructions accept (R300): f32, f64, f16, bf16, f16x2, bf16x2. -/
def isFloatT (t : Nat) : Bool := t = 4 || t = 5 || t = 6 || t = 7 || t = 9 || t = 10
/-- Whether a scalar type's register is a pair (R312). -/
def pairT (t : Nat) : Bool := t = 2 || t = 3 || t = 5

/-- Register forms of the integer family: D, X, Y of W bits; D, X; and D, X with an immediate. -/
def int3 (t : Nat) (d x y : Code) (lat : Nat) : Info := { ops := [dstD d (wideT t), srcB x (wideT t), srcC y (wideT t)], lat := lat }
def int2 (t : Nat) (d x : Code) : Info := { ops := [dstD d (wideT t), srcB x (wideT t)], lat := 1 }
def intShift (t : Nat) (d x i : Code) : Info :=
  { ops := [dstD d (wideT t), srcB x (wideT t)], fields := i.toNat < (intTy t).w, lat := 1 }
def intCmp (t : Nat) (p : BitVec 4) (x y : Code) : Info :=
  { ops := [srcB x (wideT t), srcC y (wideT t)], predW := some p.toNat, lat := 1 }
/-- Floating-point forms (R300). -/
def fp3 (t : Nat) (d x y : Code) (lat : Nat) : Info :=
  { ops := [dstD d (t = 5), srcB x (t = 5), srcC y (t = 5)], fields := isFloatT t, xonly := true, lat := lat }
def fpAcc (t : Nat) (d x y : Code) : Info :=
  { ops := [updD d (t = 5), srcB x (t = 5), srcC y (t = 5)], fields := isFloatT t, xonly := true, lat := 3 }
def fp2 (t : Nat) (d x : Code) (lat : Nat) : Info :=
  { ops := [dstD d (t = 5), srcB x (t = 5)], fields := isFloatT t, xonly := true, lat := lat }
def fpSpecial (t : Nat) (d x : Code) : Info := { fp2 t d x 0 with fields := isFloatT t && t ≠ 5 }
def fpCmp (t : Nat) (p : BitVec 4) (x y : Code) : Info :=
  { ops := [srcB x (t = 5), srcC y (t = 5)], predW := some p.toNat, fields := isFloatT t, xonly := true, lat := 3 }

/-- Access size of the SZ field under mode.T (R325), and whether the data register is a pair. -/
def szBytes (t sz : Nat) : Nat := if sz = 0 then leaSize t else if sz = 1 then 1 else if sz = 2 then 2 else 4
def szWide (t sz : Nat) : Bool := sz = 0 && pairT t

/-- Types and widths of the atomics (R335). -/
def atomT (t : Nat) : Bool := t = 0 || t = 1 || t = 4 || t = 2 || t = 3 || t = 5
def atomOp (t op : Nat) : Bool := op ≤ 10 && (!(7 ≤ op && op ≤ 9) || t = 4 || t = 5)
/-- RED's own types (R338). -/
def redOp (t op : Nat) : Bool :=
  1 ≤ op && op ≤ 9 &&
  (if t = 6 || t = 7 || t = 9 || t = 10 then 7 ≤ op
   else if t = 8 then op ≤ 6
   else atomT t && (op ≤ 6 || t = 4 || t = 5))

/-- A queue selector's value operand (R345): field B is unused for a port, a uniform operand for 0x1F. -/
def selOps (x c : Code) : List Opnd := if c = 0x1F then [srcB x false Accept.uni] else []
def selFields (x c : Code) : Bool := (c.toNat < 16 && x = 0) || c = 0x1F

/-- CAS's operand D (R337): expected and new value, 2 or 4 registers. -/
def casOp (t : Nat) (d : Code) : Opnd := ⟨0, d, true, true, wideT t, 2 * regsOf (wideT t), Accept.vsh⟩
def casAligned (t : Nat) (d : Code) : Bool := !wideT t || d.toNat % 4 = 0 || (0xC0 ≤ d.toNat && d.toNat < 0xE0)

/-- The control and integer families (chapter 11). -/
def infoA (t : Nat) : Instr → Option Info
  | .nop => some { guard := false }
  | .mode _ => some { guard := false, lat := 1 }
  | .bra p _ => some { predR := [p.toNat] }
  | .bran p _ => some { predR := [p.toNat] }
  | .brx p x => some { ops := [srcB x true], predR := [p.toNat] }
  | .call _ => some { top := some 13 }
  | .callx d x => some { ops := [dstD d true Accept.vz, srcB x true] }
  | .ret x => some { ops := [srcB x true] }
  | .join _ => some { guard := false }
  | .exit => some { ban := true }
  | .yield => some {}
  | .sleep _ => some { guard := false }
  | .loop s _ => some { ops := [⟨0, sCode s, true, true, false, 1, Accept.s_⟩] }
  | .bar _ => some { guard := false, ban := true }
  | .bara _ => some { guard := false, ban := true }
  | .barw _ => some { guard := false, ban := true }
  | .waitf x => some { ops := [srcB x false Accept.uni], guard := false }
  | .give k => some { fields := k ≠ 0, guard := false }
  | .claim k => some { fields := k ≠ 0, guard := false }
  | .spawn x => some { ops := [spanV 1 x 16 true false], ban := true }
  | .svc _ => some { ban := true }
  | .trap _ => some {}
  | .rft => some {}
  | .brk _ => some {}
  | .pmark _ => some {}
  | .ldi d _ => some { ops := [dstD d false], lat := 1 }
  | .ldih d _ => some { ops := [updD d false], lat := 1 }
  | .mov d x => some (int2 t d x)
  | .sel d x p => some { ops := [⟨0, d, false, true, wideT t, regsOf (wideT t), Accept.perLane⟩, srcB x (wideT t)], predR := [p.toNat], lat := 1 }
  | .add d x y => some (int3 t d x y 1)
  | .sub d x y => some (int3 t d x y 1)
  | .mul d x y => some (int3 t d x y 2)
  | .mulh d x y => some (int3 t d x y 2)
  | .mad d x y => some { ops := [updD d (wideT t), srcB x (wideT t), srcC y (wideT t)], lat := 2 }
  | .div d x y => some (int3 t d x y 0)
  | .rem d x y => some (int3 t d x y 0)
  | .min d x y => some (int3 t d x y 1)
  | .max d x y => some (int3 t d x y 1)
  | .abs d x => some (int2 t d x)
  | .neg d x => some (int2 t d x)
  | .and d x y => some (int3 t d x y 1)
  | .or d x y => some (int3 t d x y 1)
  | .xor d x y => some (int3 t d x y 1)
  | .not d x => some (int2 t d x)
  | .shl d x y => some (int3 t d x y 1)
  | .shr d x y => some (int3 t d x y 1)
  | .rot d x y => some (int3 t d x y 1)
  | .bfx d x y => some (int3 t d x y 1)
  | .bfi d x y => some { ops := [updD d (wideT t), srcB x (wideT t), srcC y (wideT t)], lat := 1 }
  | .clz d x => some (int2 t d x)
  | .popc d x => some (int2 t d x)
  | .brev d x => some (int2 t d x)
  | .addi d x _ => some (int2 t d x)
  | .shli d x i => some (intShift t d x i)
  | .shri d x i => some (intShift t d x i)
  | .andi d x _ => some (int2 t d x)
  | .lea d x y => some { ops := [dstD d true, srcB x true, srcC y false], lat := 1 }
  | .ceq p x y => some (intCmp t p x y)
  | .cne p x y => some (intCmp t p x y)
  | .clt p x y => some (intCmp t p x y)
  | .cle p x y => some (intCmp t p x y)
  | .cgt p x y => some (intCmp t p x y)
  | .cge p x y => some (intCmp t p x y)
  | .pand d x y => some { predR := [x.toNat, y.toNat], predW := some d.toNat, lat := 1 }
  | .por d x y => some { predR := [x.toNat, y.toNat], predW := some d.toNat, lat := 1 }
  | .pxor d x y => some { predR := [x.toNat, y.toNat], predW := some d.toNat, lat := 1 }
  | .pnot d x => some { predR := [x.toNat], predW := some d.toNat, lat := 1 }
  | .pfrom d x => some { ops := [srcB x false], predW := some d.toNat, lat := 1 }
  | .pset d _ => some { predW := some d.toNat, lat := 1 }
  | _ => none

/-- The floating-point, conversion and cross-lane families (chapter 12). -/
def infoB (t : Nat) : Instr → Option Info
  | .fadd d x y => some (fp3 t d x y 3)
  | .fsub d x y => some (fp3 t d x y 3)
  | .fmul d x y => some (fp3 t d x y 3)
  | .fma d x y => some (fpAcc t d x y)
  | .fms d x y => some (fpAcc t d x y)
  | .fnma d x y => some (fpAcc t d x y)
  | .fmin d x y => some (fp3 t d x y 3)
  | .fmax d x y => some (fp3 t d x y 3)
  | .fabs d x => some (fp2 t d x 3)
  | .fneg d x => some (fp2 t d x 3)
  | .fdiv d x y => some (fp3 t d x y 0)
  | .fsqrt d x => some (fp2 t d x 0)
  | .frcp d x => some (fp2 t d x 0)
  | .frsq d x => some (fp2 t d x 0)
  | .fexp2 d x => some (fpSpecial t d x)
  | .flog2 d x => some (fpSpecial t d x)
  | .fsin d x => some (fpSpecial t d x)
  | .fcos d x => some (fpSpecial t d x)
  | .ftanh d x => some (fpSpecial t d x)
  | .fceq p x y => some (fpCmp t p x y)
  | .fclt p x y => some (fpCmp t p x y)
  | .fcle p x y => some (fpCmp t p x y)
  | .fcun p x y => some (fpCmp t p x y)
  | .fclass d x => some { ops := [dstD d false, srcB x (t = 5)], fields := isFloatT t, xonly := true, lat := 3 }
  | .frnd d x => some (fp2 t d x 3)
  | .fcps d x y => some (fp3 t d x y 3)
  | .fscale d x y => some { ops := [dstD d (t = 5), srcB x (t = 5), srcC y false], fields := isFloatT t, xonly := true, lat := 3 }
  | .cvt d x s => some { ops := [dstD d (pairT t), srcB x (pairT s.toNat)], fields := t ≤ 7 && s.toNat ≤ 7, xonly := true, lat := 3 }
  | .cvts d x s => some { ops := [dstD d (pairT t), srcB x (pairT s.toNat)], fields := t ≤ 7 && s.toNat ≤ 7, xonly := true, lat := 3 }
  | .pack d x i => some { ops := [updD d false, srcB x false], xonly := true, lat := 3,
                          fields := 8 ≤ t && t ≤ 12 && i.toNat < elemsOfT t }
  | .unpk d x i => some { ops := [dstD d false, srcB x false], xonly := true, lat := 3,
                          fields := 8 ≤ t && t ≤ 12 && i.toNat < elemsOfT t }
  | .qnt d x _ => some { ops := [spanV 0 d 2 false true, spanV 1 x 8 true false], fields := t = 4 || t = 6 || t = 7, xonly := true }
  | .dqnt d x _ => some { ops := [spanV 0 d 8 false true, spanV 1 x 2 true false], fields := t = 4 || t = 6 || t = 7, xonly := true }
  | .rand d => some { ops := [dstD d false Accept.perLane], xonly := true, lat := 3, badKinds := [0, 2] }
  | .shfl d x y => some { ops := [dstD d (wideT t) Accept.perLane, srcB x (wideT t), srcC y false], lat := 4 }
  | .shfx d x y => some { ops := [dstD d (wideT t) Accept.perLane, srcB x (wideT t), srcC y false], lat := 4 }
  | .shup d x _ => some { ops := [dstD d (wideT t) Accept.perLane, srcB x (wideT t)], lat := 4 }
  | .shdn d x _ => some { ops := [dstD d (wideT t) Accept.perLane, srcB x (wideT t)], lat := 4 }
  | .vota d x _ => some { predR := [x.toNat], predW := some d.toNat, lat := 4 }
  | .voty d x _ => some { predR := [x.toNat], predW := some d.toNat, lat := 4 }
  | .ballot d x w => some { ops := [dstD d false], predR := [x.toNat], single := true, lat := 4,
                            fields := w = 0 || !(d.toNat < 0x80 || d = 0xFF), badKinds := if w = 0 then [] else [1] }
  | .redu d x w o => some { ops := [dstD d (wideT t) (if w = 0 then Accept.value else Accept.perLane), srcB x (wideT t)],
                            single := w = 0, lat := 4, fields := o.toNat ≤ 8 && (o.toNat < 6 || isFloatT t),
                            xonly := 6 ≤ o.toNat && o.toNat ≤ 8 }
  | .scan d x _ _ o => some { ops := [dstD d (wideT t) Accept.perLane, srcB x (wideT t)], lat := 4,
                              fields := o.toNat ≤ 8 && (o.toNat < 6 || isFloatT t),
                              xonly := 6 ≤ o.toNat && o.toNat ≤ 8 }
  | .bcast d x y => some { ops := [dstD d (wideT t), srcB x (wideT t), srcC y false Accept.uni], single := true, lat := 4 }
  | .matchLanes d x => some { ops := [dstD d false Accept.perLane, srcB x (wideT t)], lat := 4 }
  | .acnt d x w r => some { ops := [dstD d false (if w = 0 && r = 0 then Accept.value else Accept.perLane)],
                            predR := [x.toNat], single := w = 0 && r = 0, lat := 4 }
  | _ => none

/-- The memory family (chapter 12). -/
def infoC (t : Nat) : Instr → Option Info
  | .ld d x s _ => some { ops := [dstD d (szWide t s.toNat), srcB x true Accept.addr] }
  | .st d x s _ => some { ops := [srcA d (szWide t s.toNat), srcB x true Accept.addr] }
  | .ldu d x s _ => some { ops := [dstD d (szWide t s.toNat), srcB x true Accept.addrU] }
  | .stu d x s _ => some { ops := [srcA d (szWide t s.toNat) Accept.uni, srcB x true Accept.addrU] }
  | .ldl d x s _ => some { ops := [dstD d (szWide t s.toNat), srcB x false Accept.noQ] }
  | .stl d x s _ => some { ops := [srcA d (szWide t s.toNat), srcB x false Accept.noQ], ban := true }
  | .ldp d x s _ => some { ops := [dstD d (szWide t s.toNat), srcB x false Accept.noQ] }
  | .lda _ x _ => some { ops := [srcB x true Accept.addr] }
  | .commit d _ => some { ops := [spanV 0 d 1 false true] }
  | .ldq d x s _ => some { ops := [dstD d (szWide t s.toNat), srcB x true Accept.addr] }
  | .str d x s _ => some { ops := [srcA d (szWide t s.toNat), srcB x true Accept.addr] }
  | .fence k => some { fields := k ≠ 0, guard := false }
  | .atom d x _ _ o => some { ops := [srcA d (wideT t), srcB x true Accept.addr], fields := atomT t && atomOp t o.toNat }
  | .atomr d x _ _ o => some { ops := [updD d (wideT t), srcB x true Accept.addr], fields := atomT t && atomOp t o.toNat }
  | .cas d x _ _ => some { ops := [casOp t d, srcB x true Accept.addr], fields := atomT t && casAligned t d }
  | .red d x o => some { ops := [srcA d (wideT t), srcB x true Accept.addr], fields := redOp t o.toNat }
  | .pref x _ => some { ops := [srcB x true Accept.addr] }
  | .arma d x y => some { ops := [dstD d false, srcB x false Accept.uniNoQ, srcC y false Accept.uni] }
  | .waita x y => some { ops := [srcB x false Accept.uniNoQ, srcC y false Accept.uni] }
  | .polla p x y => some { ops := [srcB x false Accept.uniNoQ, srcC y false Accept.uni], predW := some p.toNat }
  | _ => none

/-- The queue and tile families (chapter 13). -/
def infoD : Instr → Option Info
  | .qcfg d x y => some { ops := [spanS 0 d 1 false true false, srcB x false Accept.uni, srcC y false Accept.uni], noFw := true, ban := true }
  | .qfree x c => some { ops := selOps x c, fields := selFields x c, noFw := true, ban := true }
  | .qdrain x c => some { ops := selOps x c, fields := selFields x c, noFw := true, ban := true }
  | .qcnt d x c => some { ops := dstD d false :: selOps x c, fields := selFields x c, noFw := true }
  | .qtry d p _ _ => some { ops := [dstD d false ⟨true, true, false, false, false, true, true⟩], predW := some p.toNat, noFw := true, ban := true }
  | .qoffr p x _ => some { ops := [srcB x false Accept.noQ], predW := some p.toNat, noFw := true, ban := true }
  | .qclose x c => some { ops := selOps x c, fields := selFields x c, noFw := true, ban := true }
  | .qlink x _ => some { ops := [srcB x false Accept.uni], noFw := true, ban := true }
  | .talloc d n => some { ops := [spanS 0 d (n.toNat + 1) false true false], noFw := true }
  | .tload d x y => some { ops := [spanS 0 d 1 true false false, spanS 1 x 1 true false false, spanS 2 y 2 true false true], noFw := true }
  | .tstore d x y => some { ops := [spanS 0 d 1 true false false, spanS 1 x 1 true false false, spanS 2 y 2 true false true], noFw := true, ban := true }
  | .ttask d x y => some { ops := [spanS 0 d 1 true false false, spanS 1 x 1 true false false, spanS 2 y 1 true false false], noFw := true }
  | .tget d x y => some { ops := [spanV 0 d 1 false true, spanS 1 x 1 true false false, spanS 2 y 1 true false false], noFw := true }
  | .tdef d x y => some { ops := [spanS 0 d 1 true false false, spanS 1 x 1 true false false, srcC y false Accept.uni], noFw := true }
  | .tkill x => some { ops := [spanS 1 x 1 true false false], noFw := true, ban := true }
  | .twait x => some { ops := [spanS 1 x 1 true false false], noFw := true }
  | .tstat d x => some { ops := [dstD d false, spanS 1 x 1 true false false], noFw := true }
  | .thint x c h => some { ops := [spanS 1 x 1 true false false], fields := h.toNat ≤ 4 && c.toNat ≤ 11, noFw := true }
  | .tdesc x _ => some { ops := [spanS 1 x 4 true false false], noFw := true }
  | .tdescr d _ => some { ops := [spanS 0 d 4 false true false], noFw := true }
  | _ => none

/-- The engine, assumption and system families (chapter 13). -/
def infoE : Instr → Option Info
  | .card x => some { ops := [spanS 1 x 2 true false true], ban := true }
  | .cardw d x => some { ops := [spanS 0 d 1 false true false, spanS 1 x 2 true false true], ban := true }
  | .garm x _ => some { ops := [spanS 1 x 2 true false true], noFw := true, ban := true }
  | .gdone x => some { ops := [spanS 1 x 2 true false true], noFw := true, ban := true }
  | .subm x y => some { ops := [spanS 1 x 2 true false true, srcC y false Accept.uni], ban := true }
  | .sigw d x c => some { ops := [spanS 0 d 2 true true true, spanS 1 x 2 true false true], fields := 1 ≤ c.toNat && c.toNat ≤ 4 }
  | .siga d x _ o => some { ops := [spanS 0 d 2 true false true, spanS 1 x 2 true false true], fields := o ≠ 3, ban := true }
  | .areg d x k => some { ops := [dstD d false, spanS 1 x 8 true false true], fields := k ≠ 3, noFw := true }
  | .aenter x _ => some { ops := [srcA x false Accept.uni], noFw := true, guard := false }
  | .aexit => some { noFw := true }
  | .adrop x => some { ops := [srcB x false Accept.uni], noFw := true }
  | .atest p x => some { ops := [srcB x false Accept.uni], predW := some p.toNat, noFw := true }
  | .arevk x => some { ops := [srcB x false Accept.uni], noFw := true }
  | .csrr d _ => some { ops := [dstD d false] }
  | .csrw x k => some { ops := [srcA x false Accept.uni], csr := some k.toNat }
  | .csrs x k => some { ops := [srcA x false Accept.uni], csr := some k.toNat }
  | .csrc x k => some { ops := [srcA x false Accept.uni], csr := some k.toNat }
  | .fwcall x _ => some { ops := [srcB x false Accept.uni], priv := 2 }
  | .fwcallReg a x => some { ops := [spanS 0 a 1 true false false, srcB x false Accept.uni], priv := 2 }
  | .tinv x y => some { ops := [spanS 1 x 2 true false true, srcC y false Accept.uni], priv := 2 }
  | .svcr d x => some { ops := [spanS 0 d 1 false true false, srcB x false Accept.uni], priv := 1 }
  | .ctxs d x => some { ops := [spanS 0 d 1 false true false, srcB x false Accept.uni], priv := 1, ban := true }
  | .ctxl d x => some { ops := [spanS 0 d 1 false true false, srcB x false Accept.uni], priv := 1, ban := true }
  | .ticketClaim d _ => some { ops := [spanS 0 d 4 false true false], priv := 1, ban := true }
  | .ticketDone d _ => some { ops := [spanS 0 d 4 true false false], priv := 1, ban := true }
  | .xtrig => some { noFw := true, ban := true }
  | .tron x => some { ops := [srcB x false Accept.uni], ban := true }
  | .expd x => some { ops := [spanS 1 x 2 true false true], noFw := true, ban := true }
  | _ => none

/-- What an instruction names under a mode; an event names nothing. -/
def infoOf (m : BitVec 16) (i : Instr) : Info :=
  let t := modeT m
  match infoA t i with
  | some n => n
  | none => match infoB t i with
    | some n => n
    | none => match infoC t i with
      | some n => n
      | none => match infoD i with
        | some n => n
        | none => (infoE i).getD {}

/-! ## Step 5: operand codes (R236, R257, R258) -/

def Code.isQ (c : Code) : Bool := 0xA0 ≤ c.toNat && c.toNat < 0xB0
def Code.port (c : Code) : Nat := c.toNat - 0xA0
/-- %lane, %word and the work-identifier fields are per lane (R56). -/
def Code.laneSpecial (c : Code) : Bool :=
  c = 0xC0 || c = 0xC1 || (0xC4 ≤ c.toNat && c.toNat ≤ 0xC9)
/-- A source known to be per lane from its code. -/
def Code.perLane (c : Code) : Bool := c.toNat < 0x80 || Code.laneSpecial c
/-- An s or h destination is uniform (R258). -/
def Code.uniformDst (c : Code) : Bool := (0x80 ≤ c.toNat && c.toNat < 0xA0) || (0xE0 ≤ c.toNat && c.toNat < 0xE8)

inductive CodeTest where
  | fine
  | illegalOperand
  | illegalDest
  deriving DecidableEq, Repr

/-- One operand's code against its field (R236, R257), with the h-bank window open or not. -/
def Opnd.test (o : Opnd) (window : Bool) : CodeTest :=
  let c := o.code.toNat
  let odd := o.wide && c % 2 = 1
  if c < 0x80 then if o.acc.v && !odd then .fine else .illegalOperand
  else if c < 0xA0 then if o.acc.s && !odd then .fine else .illegalOperand
  else if c < 0xB0 then if o.acc.q && !o.wide then .fine else .illegalOperand
  else if c < 0xC0 then .illegalOperand
  else if c < 0xE0 then
    if o.dst then .illegalDest
    else if c < 0xD4 && (if Code.laneSpecial o.code then o.acc.lane else o.acc.spec) then .fine
    else .illegalOperand
  else if c < 0xE8 then
    if window && o.acc.h && !odd && c + o.regs ≤ 0xE8 then .fine else .illegalOperand
  else if c = 0xFF then if o.acc.z then .fine else .illegalOperand
  else .illegalOperand

/-- The first failure in field order. -/
def firstTest (window : Bool) : List Opnd → CodeTest
  | [] => .fine
  | o :: os => match o.test window with
    | .fine => firstTest window os
    | e => e

/-- A uniform destination whose instruction reads a per-lane source, unless it is one of R258's four. -/
def Info.mixes (n : Info) : Bool :=
  !n.single && (n.ops.any fun o => o.dst && Code.uniformDst o.code) && (n.ops.any fun o => o.src && Code.perLane o.code)

/-- Step 5 of R247: the cause, if any. -/
def Info.codes (n : Info) (window : Bool) : Option Byte :=
  match firstTest window n.ops with
  | .illegalDest => some Cause.illegalDest
  | .illegalOperand => some Cause.illegalOperand
  | .fine => if n.fields && !n.mixes then none else some Cause.illegalOperand

/-! ## Step 6: register counts (R24) -/

/-- The code of the highest register an operand covers, if it lies at or above the team's count. -/
def Opnd.beyond (o : Opnd) (vc sc : Nat) : Option Nat :=
  let top := o.code.toNat + o.regs - 1
  if o.code.toNat < 0x80 then if top ≥ vc then some top else none
  else if o.code.toNat < 0xA0 then if top - 0x80 ≥ sc then some top else none
  else none

def firstOver (vc sc : Nat) : List Opnd → Option Nat
  | [] => none
  | o :: os => match o.beyond vc sc with | some t => some t | none => firstOver vc sc os

/-- Step 6 of R247, implicit registers last: the code for h1. -/
def Info.budget (n : Info) (vc sc : Nat) : Option Nat :=
  match firstOver vc sc n.ops with
  | some t => some t
  | none => match n.top with | some t => if t ≥ vc then some t else none | none => none

/-! ## The interlock's blocks (R68) -/

def blockOfCode (c : Nat) : BitVec 22 :=
  if c < 0x80 then 1#22 <<< (c / 8) else if c < 0xA0 then 1#22 <<< (16 + (c - 0x80) / 8) else 0
def Opnd.blocks (o : Opnd) : BitVec 22 := (List.range o.regs).foldl (fun m k => m ||| blockOfCode (o.code.toNat + k)) 0
def predBlock (p : Nat) : BitVec 22 := 1#22 <<< (20 + p / 8)
def linkBlocks (n : Info) : BitVec 22 := match n.top with | some _ => blockOfCode 12 | none => 0

/-- Blocks an instruction writes. -/
def Info.writes (n : Info) : BitVec 22 :=
  (n.ops.foldl (fun m o => if o.dst then m ||| o.blocks else m) 0) |||
  (match n.predW with | some p => if p = 0 then 0 else predBlock p | none => 0) ||| linkBlocks n ||| n.also
/-- Blocks it reads or writes, its guard predicate's included. -/
def Info.touches (n : Info) (m : BitVec 16) : BitVec 22 :=
  (n.ops.foldl (fun b o => b ||| o.blocks) 0) ||| (n.predR.foldl (fun b p => b ||| predBlock p) 0) |||
  (match n.predW with | some p => predBlock p | none => 0) ||| linkBlocks n ||| n.also |||
  (if n.guard then predBlock (m.extractLsb' 0 4).toNat else 0)

/-- What an instruction of a team names: the registers that a COMMIT writes from its tag (R333), a service call's v0 and v1
(R282) and the firmware's s30 and s31 (R381) are among its blocks. -/
def Team.info (t : Team) (i : Instr) : Info :=
  let n := infoOf t.mode i
  match i with
  | .commit d k => { n with also := match t.tags.get? k.toNat with | some g => (spanV 0 d g.words false true).blocks | none => 0 }
  | .svc _ => { n with also := blockOfCode 0 }
  | .trap _ => { n with also := if t.scount = 0 then 0 else blockOfCode 0x80 }
  | .fwcall _ _ => { n with also := if t.fw then blockOfCode 0x9E else 0 }
  | .fwcallReg _ _ => { n with also := if t.fw then blockOfCode 0x9E else 0 }
  | _ => n

/-! ## Queue occurrences (R146) -/

/-- The q codes that pop, in the order B, C, A. -/
def Info.pops (n : Info) : List Opnd :=
  let qs := n.ops.filter fun o => o.src && Code.isQ o.code
  (qs.filter fun o => o.fld = 1) ++ (qs.filter fun o => o.fld = 2) ++ (qs.filter fun o => o.fld = 0)
/-- The q codes that push. -/
def Info.pushes (n : Info) : List Opnd := n.ops.filter fun o => o.dst && Code.isQ o.code
/-- The q codes in field order. -/
def Info.ports (n : Info) : List Opnd := n.ops.filter fun o => Code.isQ o.code

end Sys2Proof.Machine
end

