-- ==== Sys2Proof/Machine/Issue.lean ====
section
/-!
DEFINITION. Sys2Proof/Machine/Issue.lean: one instruction at issue. `admission` makes the checks of R247 steps 3 to 8 and
the queue pops; `issue` runs an instruction's own part on what was admitted, and then completes, traps, faults or parks
it (R11, R63, R84, R242, R261).
-/
namespace Sys2Proof.Machine

/-! ## Queue entries (R144–R150) -/

/-- What a q code delivered: one uniform word, or a word for each lane. -/
inductive Popped where
  | nothing
  | uni (w : Word)
  | lanes (t : Tab Word)
  deriving DecidableEq, Repr

def kindU32 : Nat := 0
def kindL32 : Nat := 1
def kindTname : Nat := 2

/-- Bytes of an entry (R144). -/
def entryBytes (kind : Nat) : Nat := if kind = kindL32 then 136 else 4
def queueCore (clu : Nat) (q : Queue) : Nat := clu * Config.coresPerCluster + q.core

/-- Take the head entry: its bytes, and the state with HEAD and COUNT moved; on an empty CLOSED queue a zero entry
(R150), the queue unchanged. -/
def State.popEntry (s : State) (clu n : Nat) : List Byte × State :=
  match (s.clu clu).queues.get? n with
  | none => ([], s)
  | some q =>
    if q.count = 0 then (List.replicate (entryBytes q.kind) 0, s)
    else
      (s.lread (queueCore clu q) (q.base + q.head * entryBytes q.kind) (entryBytes q.kind),
       s.modClu clu fun c =>
         { c with queues := c.queues.put n { q with head := (q.head + 1) % q.depth, count := q.count - 1 },
                  qserial := c.qserial.put n (c.qserial.getD n 0 + 1) })

/-- Put an entry at the tail. -/
def State.pushEntry (s : State) (clu n : Nat) (bs : List Byte) : State :=
  match (s.clu clu).queues.get? n with
  | none => s
  | some q =>
    (s.lwrite (queueCore clu q) (q.base + q.tail * entryBytes q.kind) bs).modClu clu fun c =>
      { c with queues := c.queues.put n { q with tail := (q.tail + 1) % q.depth, count := q.count + 1 },
               qserial := c.qserial.put n (c.qserial.getD n 0 + 1) }

/-- The lanes' words of an L32 entry that goes to word w (R148). -/
def l32Lanes (w : Nat) (bs : List Byte) : Tab Word :=
  let valid := BitVec.ofNat 32 (leNat ((bs.drop 128).take 4))
  (List.range 32).filterMap fun k =>
    let x := BitVec.ofNat 32 (leNat ((bs.drop (4 * k)).take 4))
    if valid.getLsbD k && x ≠ 0 then some (32 * w + k, x) else none

/-- The L32 entry that a word's active lanes push (R148). -/
def l32Entry (w : Nat) (active : LaneMask) (f : Nat → Word) : List Byte :=
  let m := wordOfMask active w
  ((List.range 32).flatMap fun k => if m.getLsbD k then natLe 4 (f (32 * w + k)).toNat else [0, 0, 0, 0]) ++
    natLe 4 m.toNat ++ [0, 0, 0, 0]

/-- The key of a feed queue's records among those of its cluster: a saved queue keeps them while another context uses its
number (R152). -/
def feedKey (q : Queue) (n : Nat) : Nat := 64 * q.owner + n

/-- Records of a feed queue that will not be popped any more: no pop ends them, so they count on (R45). -/
def State.loseFeeds (s : State) (clu key : Nat) : State :=
  s.modClu clu fun c =>
    { c with feeds := (c.feeds.del key).put (key + 2 ^ 64) (c.feeds.getD (key + 2 ^ 64) [] ++ c.feeds.getD key []) }

/-- Feed records leave the quiescence tree with their sixteenth word (R45). -/
def State.feedPopped (s : State) (clu key : Nat) : State :=
  match (s.clu clu).feeds.getD key [] with
  | [] => s
  | (pool, src, left) :: rest =>
    if left ≤ 1 then
      (s.modClu clu fun c => { c with feeds := c.feeds.put key rest }).recordsEnd pool [src]
    else s.modClu clu fun c => { c with feeds := c.feeds.put key ((pool, src, left - 1) :: rest) }

/-- One occurrence of a q source (R146): one entry, or one for each word of the path. -/
def State.popOcc (s : State) (clu n : Nat) (words : List Nat) : Popped × State :=
  match (s.clu clu).queues.get? n with
  | none => (.nothing, s)
  | some q =>
    if q.kind = kindL32 then
      let (t, s) := words.foldl (fun (acc : Tab Word × State) w =>
        let (bs, s) := acc.2.popEntry clu n
        (acc.1 ++ l32Lanes w bs, s)) ([], s)
      (.lanes t, s)
    else
      let s := if q.feed && decide (q.count > 0) then s.feedPopped clu (feedKey q n) else s
      let (bs, s) := s.popEntry clu n
      (.uni (BitVec.ofNat 32 (leNat bs)), s)

/-- An undefined word (log 6), told from others by a counter and a lane. -/
def freeWord (k lane : Nat) : Word := BitVec.ofNat 32 (leNat (readRun (Config.freeByte k) (4 * lane) 4))

/-! ## The admitted instruction -/

/-- An instruction past the shared checks: who issues it, the state its sources are read from, and what its q codes
delivered by field. -/
structure Ctx where
  f  : Focus
  s  : State
  t  : Team
  p  : Path
  n  : Info
  popA : Popped
  popB : Popped
  popC : Popped
  deriving DecidableEq, Repr

def Ctx.tid (c : Ctx) : Nat := c.f.team
def Ctx.pid (c : Ctx) : Nat := c.f.path
def Ctx.core (c : Ctx) : Nat := c.t.core
def Ctx.clu (c : Ctx) : Nat := cluOfCore c.t.core
def Ctx.die (c : Ctx) : Nat := dieOfCore c.t.core
/-- The lanes that act, their list, and whether there are any. -/
def Ctx.active (c : Ctx) : LaneMask := c.t.active c.p
def Ctx.lanes (c : Ctx) : List Nat := lanesOf c.active
def Ctx.acts (c : Ctx) : Bool := c.active ≠ 0
def Ctx.words (c : Ctx) : List Nat := wordsOf c.p.mask
def Ctx.T (c : Ctx) : Nat := modeT c.t.mode
def Ctx.ity (c : Ctx) : IntTy := intTy c.T
def Ctx.sat (c : Ctx) : Bool := modeSat c.t.mode
def Ctx.inRegion (c : Ctx) : Bool := !c.t.guard.isEmpty
/-- The bundle that holds the instruction. -/
def Ctx.bundle (c : Ctx) : Nat := c.f.addr / 16 * 16
/-- The address of the next slot (R55): the next slot of the bundle, or slot 1 of the next one. -/
def nextSlotAddr (a : Nat) : Nat := if a % 16 = 12 then a + 8 else a + 4

/-- A special's value in a lane (R56, R57). -/
def Ctx.special (c : Ctx) (code lane : Nat) : Word :=
  if code = 0xC0 then BitVec.ofNat 32 lane
  else if code = 0xC1 then BitVec.ofNat 32 (lane / 32)
  else if code = 0xC2 then BitVec.ofNat 32 c.t.index
  else if code = 0xC3 then BitVec.ofNat 32 c.t.group
  else if code ≤ 0xC9 then workField c.t.widths (c.t.workIds.getD lane 0) (code - 0xC4)
  else if code = 0xCA then BitVec.ofNat 32 c.t.role
  else if code = 0xCB then BitVec.ofNat 32 c.t.core
  else if code = 0xCC then BitVec.ofNat 32 c.clu
  else if code = 0xCD then BitVec.ofNat 32 c.die
  else if code = 0xCE then BitVec.ofNat 32 c.s.cycle
  else if code = 0xCF then wordMask c.p.mask
  else if code = 0xD0 then c.t.status.setWidth 32
  else if code = 0xD1 then (c.t.flags c.s.cycle).setWidth 32
  else if code = 0xD2 then BitVec.ofNat 32 c.t.pscope
  else BitVec.ofNat 32 c.t.ctx

/-- A 32-bit source in a lane. A lane at or above the lane count reads 0 (R317). -/
def Ctx.word (c : Ctx) (code : Code) (pop : Popped) (lane : Nat) : Word :=
  let k := code.toNat
  if k < 0x80 then c.t.vreg k lane
  else if k < 0xA0 then c.t.sreg (k - 0x80)
  else if k < 0xB0 then (match pop with | .uni w => w | .lanes t => t.getD lane 0 | .nothing => 0)
  else if 0xC0 ≤ k && k < 0xD4 then c.special k lane
  else if 0xE0 ≤ k && k < 0xE8 then c.t.hreg (k - 0xE0)
  else 0

/-- A 64-bit source in a lane (R50, R260): a pair, or a 32-bit special extended by the type's signedness. -/
def Ctx.dword (c : Ctx) (signed : Bool) (code : Code) (pop : Popped) (lane : Nat) : DWord :=
  let k := code.toNat
  if k < 0xA0 || (0xE0 ≤ k && k < 0xE8) then c.word (code + 1) pop lane ++ c.word code pop lane
  else if signed then (c.word code pop lane).signExtend 64 else (c.word code pop lane).setWidth 64

/-- A source operand of the given width in a lane, a 32-bit one in the low half. -/
def Ctx.read (c : Ctx) (wide signed : Bool) (code : Code) (pop : Popped) (lane : Nat) : DWord :=
  if wide then c.dword signed code pop lane else (c.word code pop lane).setWidth 64

/-- Sources by field. -/
def Ctx.a (c : Ctx) (wide : Bool) (code : Code) (l : Nat) : DWord := c.read wide c.ity.signed code c.popA l
def Ctx.b (c : Ctx) (wide : Bool) (code : Code) (l : Nat) : DWord := c.read wide c.ity.signed code c.popB l
def Ctx.c (c : Ctx) (wide : Bool) (code : Code) (l : Nat) : DWord := c.read wide c.ity.signed code c.popC l
/-- Uniform 32-bit sources by field, and s registers. -/
def Ctx.ua (c : Ctx) (code : Code) : Word := c.word code c.popA 0
def Ctx.ub (c : Ctx) (code : Code) : Word := c.word code c.popB 0
def Ctx.uc (c : Ctx) (code : Code) : Word := c.word code c.popC 0
def Ctx.s1 (c : Ctx) (r : BitVec 5) : Word := c.t.sreg r.toNat
def Ctx.s2 (c : Ctx) (r : BitVec 5) : DWord := c.t.sreg (r.toNat + 1) ++ c.t.sreg r.toNat
/-- The lane a uniform result is computed from: the lowest active one (R258, R301). -/
def Ctx.lane0 (c : Ctx) : Nat := c.lanes.headD 0

/-- Whether an operand is per lane, its port's kind included. -/
def Ctx.isLane (code : Code) (pop : Popped) : Bool :=
  Code.perLane code || (match pop with | .lanes _ => true | _ => false)

/-! ## What an instruction's own part answers -/

inductive Res where
  /-- It is done; its result is written at its latency. -/
  | done (s : State)
  /-- It is issued and completes under a condition (R198). -/
  | later (s : State) (k : Cond)
  /-- It has placed its paths itself (R264, R271, R285) or ended them. -/
  | jump (s : State)
  /-- A precise trap (R11): nothing of the instruction stays. -/
  | trap (r : TrapReq)
  /-- A condition of R80: the path parks, held as unissued (R84). -/
  | fault (cause : Byte) (write : Bool) (va level : Nat) (lanes : Option LaneMask)
  /-- The path parks (R261); the state holds what the entry does before the wait. -/
  | park (s : State) (w : Wait)
  /-- The region aborts (R187). -/
  | abort (cause : Byte) (obj : Nat)
  /-- The state after it, whole: a trap or an ended team that leaves more behind than the trap itself. -/
  | final (s : State)
  deriving DecidableEq, Repr

/-- A trap at the instruction, with h1 and no lanes named. -/
def Ctx.trap (c : Ctx) (cause : Byte) (h1 : Word) : Res := .trap ⟨cause, h1, 0, none, c.f.addr⟩
/-- A trap that names lanes at fault. -/
def Ctx.trapLanes (c : Ctx) (cause : Byte) (h1 : Word) (lanes : LaneMask) : Res := .trap ⟨cause, h1, 0, some lanes, c.f.addr⟩
/-- A memory trap: the faulting address of the lowest faulting lane (R55). -/
def Ctx.trapMem (c : Ctx) (cause : Byte) (addr : Nat) (lanes : LaneMask) : Res := .trap ⟨cause, 0, addr, some lanes, c.f.addr⟩
/-- The instruction's word, for h1 of the illegal-instruction causes (R195). -/
def wordOf (i : Instr) : Word := (encode i).getD 0
def Ctx.modTeam (c : Ctx) (s : State) (f : Team → Team) : State := s.modTeam c.tid f
def Ctx.modPath (c : Ctx) (s : State) (f : Path → Path) : State := s.modPath c.tid c.pid f

/-! ## Writing results (R22, R51, R52, R148, R258) -/

/-- Write a 32-bit or 64-bit value to one lane's v register or pair. -/
def Team.putV (t : Team) (wide : Bool) (r lane : Nat) (x : DWord) : Team :=
  let t := t.setV r lane (x.setWidth 32)
  if wide then t.setV (r + 1) lane (x.extractLsb' 32 32) else t
def Team.putS (t : Team) (wide : Bool) (r : Nat) (x : DWord) : Team :=
  let t := t.setS r (x.setWidth 32)
  if wide then t.setS (r + 1) (x.extractLsb' 32 32) else t
def Team.putH (t : Team) (wide : Bool) (r : Nat) (x : DWord) : Team :=
  let t := t.setH r (x.setWidth 32)
  if wide then t.setH (r + 1) (x.extractLsb' 32 32) else t

/-- The registers a destination code writes, without its queue: v in the lanes that act, s or h once if any acts. -/
def Team.putReg (t : Team) (lanes : List Nat) (d : Code) (wide : Bool) (f : Nat → DWord) : Team :=
  let k := d.toNat
  if k < 0x80 then lanes.foldl (fun t l => t.putV wide k l (f l)) t
  else if k < 0xA0 then (match lanes with | [] => t | l :: _ => t.putS wide (k - 0x80) (f l))
  else if 0xE0 ≤ k && k < 0xE8 then (match lanes with | [] => t | l :: _ => t.putH wide (k - 0xE0) (f l))
  else t

/-- The queue a port of the team is bound to. -/
def Ctx.queue (c : Ctx) (port : Nat) : Option (Nat × Queue) :=
  match c.t.ports.get? port with
  | none => none
  | some n => match (c.s.clu c.clu).queues.get? n with | some q => some (n, q) | none => none

/-- Push a result (R148): an entry for each word, or the one uniform value; a TNAME value of more than 16 bits traps. -/
def Ctx.push (c : Ctx) (s : State) (port : Nat) (f : Nat → DWord) : Res :=
  match c.queue port with
  | none => c.trap Cause.queueUnbound (BitVec.ofNat 32 port)
  | some (n, q) =>
    if q.kind = kindL32 then
      .done (c.words.foldl (fun s w => s.pushEntry c.clu n (l32Entry w c.active fun l => (f l).setWidth 32)) s)
    else
      let x : Word := (f c.lane0).setWidth 32
      if q.kind = kindTname && x.toNat ≥ 2 ^ 16 then c.trap Cause.queueKind (BitVec.ofNat 32 port)
      else .done (s.pushEntry c.clu n (natLe 4 x.toNat))

/-- Write a destination. -/
def Ctx.put (c : Ctx) (s : State) (d : Code) (wide : Bool) (f : Nat → DWord) : Res :=
  if Code.isQ d then c.push s (Code.port d) f
  else .done (c.modTeam s fun t => t.putReg c.lanes d wide f)

/-- A predicate written in the path's active lanes (R52). -/
def Team.putPred (t : Team) (active : LaneMask) (r : Nat) (m : LaneMask) : Team :=
  t.setP r ((t.preg r &&& ~~~active) ||| (m &&& active))
def Ctx.putP (c : Ctx) (s : State) (r : Nat) (f : Nat → Bool) : State :=
  c.modTeam s fun t => t.putPred c.active r (maskOf (c.lanes.filter f))

/-- Set n s registers from r on. -/
def Team.setSs (t : Team) (r : Nat) (xs : List Word) : Team :=
  (xs.zip (List.range xs.length)).foldl (fun t p => t.setS (r + p.2) p.1) t

/-! ## Admission: R247 steps 3 to 8 -/

/-- Whether a CSR number lies in the view of code (R71): all code, handlers and firmware, firmware. -/
def csrInView (fw handler : Bool) (n : Nat) : Bool := fw || decide (n < 0x400) || (handler && decide (n < 0x800))

/-- Privilege (R246, R343), a CSR's view among it (R71): the h1 of the PRIV that the instruction takes, if it does. -/
def Info.privFault (n : Info) (t : Team) (p : Path) (w : Word) : Option Word :=
  if (n.priv = 1 && !t.fw) || (n.priv = 2 && !t.fw && p.win ≠ .trap) || (n.noFw && t.fw) then some w
  else match n.csr with
    | some k => if csrInView t.fw (p.win = .trap) k then none else some (BitVec.ofNat 32 k)
    | none => none

/-- Whether an instruction that a path waits in has begun: it has made its pops and acted on them before the wait (R149, R261). -/
def Path.begun (p : Path) : Bool :=
  decide (p.prog ≠ 0) && (match p.st with
    | .parked (.revoke _) => true
    | .parked (.translations ..) => true
    | .parked .fwcall => true
    | _ => false)
/-- What an instruction that has begun waits for. -/
def Ctx.waiting (c : Ctx) : Option Wait :=
  if c.p.begun then (match c.p.st with | .parked w => some w | .ready => none) else none

/-- Whether an instruction that has popped a queue and is yet to push to it keeps every other off it (R149). -/
def State.queueLocked (s : State) (clu n : Nat) : Bool :=
  s.teams.any fun t => cluOfCore t.2.core = clu && t.2.rests.any fun r => r.2.locks.contains n

/-- What the shared checks say. -/
inductive Adm where
  | refused
  | trap (cause : Byte) (h1 : Word)
  /-- A queue pushed to is CLOSED, or a queue holds the instruction back: unless the value that it would push breaks a kind rule,
  which is tested first (R149) on the context and state after the pops, where these can be made. -/
  | closed (port : Nat) (probe : Option (Ctx × State))
  | park (w : Wait) (probe : Option (Ctx × State))
  /-- A source register, or an entry to be popped, has an uncorrectable error (R446). -/
  | ecc (cause : Byte) (h1 : Word) (addr : Nat)
  | ok (c : Ctx) (s : State)
  deriving DecidableEq, Repr

/-- Entries an occurrence moves (R146). -/
def occEntries (q : Queue) (words : List Nat) : Nat := if q.kind = kindL32 then words.length else 1

/-- An unbound port among those an instruction names (R149). -/
def Ctx.unbound (c : Ctx) : Option Nat :=
  (c.n.ports.find? fun o => (c.queue (Code.port o.code)).isNone).map fun o => Code.port o.code

/-- The kind rules (R147): the port that breaks them. -/
def Ctx.kindFault (c : Ctx) : Option Nat :=
  let kind (o : Opnd) : Nat := match c.queue (Code.port o.code) with | some (_, q) => q.kind | none => 0
  let laneSrc := c.n.ops.any fun o => o.src && (Code.perLane o.code || (Code.isQ o.code && kind o = kindL32))
  let uniDst := c.n.ops.any fun o => o.dst && Code.uniformDst o.code
  (c.n.ports.find? fun o =>
    (o.src && kind o = kindL32 && (!o.acc.v || (uniDst && !c.n.single))) ||
    (o.dst && kind o ≠ kindL32 && !c.n.single && (laneSrc || o.acc = Accept.perLane))).map fun o => Code.port o.code

/-- A destination port of a kind that its instruction does not accept (R247 step 5). -/
def Ctx.portIllegal (c : Ctx) : Bool :=
  c.n.pushes.any fun o => match c.queue (Code.port o.code) with | some (_, q) => c.n.badKinds.contains q.kind | none => false

/-- The queues the instruction touches, in field order of its ports. -/
def Ctx.queues (c : Ctx) : List (Nat × Queue) :=
  (c.n.ports.filterMap fun o => c.queue (Code.port o.code)).foldl
    (fun acc p => if acc.any fun x => x.1 = p.1 then acc else acc ++ [p]) []

/-- Entries popped from and pushed to a queue, over every port bound to it. -/
def Ctx.moves (c : Ctx) (os : List Opnd) (n : Nat) (q : Queue) : Nat :=
  (os.filter fun o => match c.queue (Code.port o.code) with | some (k, _) => decide (k = n) | none => false).length *
    occEntries q c.words

/-- A push to a CLOSED queue: the first port at fault. -/
def Ctx.closedPush (c : Ctx) : Option Nat :=
  (c.n.pushes.find? fun o => match c.queue (Code.port o.code) with | some (_, q) => q.closed | none => false).map
    fun o => Code.port o.code

/-- The first queue that holds too few entries or has too little room (R149), or that an instruction in progress keeps to itself. -/
def Ctx.shortQueue (c : Ctx) : Option Nat :=
  (c.queues.find? fun p => c.s.queueLocked c.clu p.1 ||
    let pops := c.moves c.n.pops p.1 p.2
    let pushes := c.moves c.n.pushes p.1 p.2
    (decide (p.2.count < pops) && !p.2.closed) ||
      decide (p.2.depth - p.2.count + min pops p.2.count < pushes)).map (·.1)

/-- The first queue that has too little room for what the instruction still pushes, once its pops are done. -/
def Ctx.shortPush (c : Ctx) : Option Nat :=
  (c.queues.find? fun p => decide (p.2.depth - p.2.count < c.moves c.n.pushes p.1 p.2)).map (·.1)

/-- Whether the instruction's pops meet an end-of-stream mark (R150). -/
def Ctx.meetsEos (c : Ctx) : Bool := c.queues.any fun p => decide (p.2.count < c.moves c.n.pops p.1 p.2)

/-- The address part of a local-store error (R446): the offset in the group's range, and 0xFF_FFFF for h5. -/
def State.localErr (s : State) (t : Team) (a : Nat) : Nat :=
  let base := match s.group? (cluOfCore t.core) t.group with | some g => g.ranges.getD t.core 0 | none => 0
  a - base + 0xFFFFFF * 2 ^ 32

/-- The code of a source register with an uncorrectable error in a lane that is read, or the number of such a predicate
(R446). `Team.flaws` holds predicate p of a lane as 0x100 + p. -/
def Ctx.badReg (c : Ctx) : Option Word :=
  if c.t.flaws.isEmpty then none
  else match c.n.ops.find? fun o => o.src && !Code.isQ o.code && c.t.flaws.any fun f =>
    decide (o.code.toNat ≤ f.1) && decide (f.1 < o.code.toNat + o.regs) &&
      (decide (0x80 ≤ f.1) || c.active.getLsbD f.2) with
  | some o => some (o.code.setWidth 32)
  | none => ((c.n.predR ++ if c.n.guard then [(c.t.mode.extractLsb' 0 4).toNat] else []).find? fun p =>
      c.t.flaws.any fun f => decide (f.1 = 0x100 + p) && c.p.mask.getLsbD f.2).map (BitVec.ofNat 32 ·)

/-- The first byte with an uncorrectable error among the entries to be popped (R446). -/
def Ctx.badPop (c : Ctx) : Option Nat :=
  c.queues.findSome? fun p =>
    (List.range (min (c.moves c.n.pops p.1 p.2) p.2.count)).findSome? fun k =>
      (c.s.core (queueCore c.clu p.2)).badLocal
        (p.2.base + (p.2.head + k) % p.2.depth * entryBytes p.2.kind) (entryBytes p.2.kind)

/-- Perform every pop, in the order B, C, A (R146). -/
def Ctx.takePops (c : Ctx) : Ctx × State :=
  let s := if c.meetsEos then c.s.modTeam c.tid fun t => t.raise statusEos else c.s
  c.n.pops.foldl (fun (acc : Ctx × State) o =>
    match c.queue (Code.port o.code) with
    | none => acc
    | some (n, _) =>
      let (x, s) := acc.2.popOcc c.clu n c.words
      (if o.fld = 0 then { acc.1 with popA := x } else if o.fld = 1 then { acc.1 with popB := x } else { acc.1 with popC := x }, s)) (c, s)

/-- What the value test of a TNAME push works on (R147, R149): none where no such queue is pushed to, or an entry that the
instruction needs is not there. -/
def Ctx.probe (c : Ctx) : Option (Ctx × State) :=
  let tname := c.n.pushes.any fun o => match c.queue (Code.port o.code) with | some (_, q) => decide (q.kind = kindTname) | none => false
  let ready := c.queues.all fun p => decide (c.moves c.n.pops p.1 p.2 ≤ p.2.count) || p.2.closed
  if tname && ready then some c.takePops else none

/-- Steps 3 to 8 of R247 for the instruction in focus. One that has begun and waits has passed them and made its pops; it
needs only the room for its pushes. DESIGN CHOICE (log 6): an instruction with a q source that acts before its wait (AREVK, ADROP, TINV,
a handler's FWCALL) pops as it acts; one that only waits (WAITF, WAITA, SUBM) pops as its wait ends, and reads what then is the head. -/
def admission (i : Instr) (s : State) : Adm :=
  match s.focus with
  | none => .refused
  | some f =>
    match s.team? f.team with
    | none => .refused
    | some t =>
      match t.paths.get? f.path with
      | none => .refused
      | some p =>
        let n := t.info i
        let window : Bool := p.win ≠ .closed
        let w := wordOf i
        let c : Ctx := ⟨f, s, t, p, n, .nothing, .nothing, .nothing⟩
        if (t.rests.get? f.path).isSome || p.begun then
          match c.shortPush with
          | some q => .park (.queue c.clu q ((s.clu c.clu).qserial.getD q 0)) none
          | none => .ok c s
        else match n.privFault t p w with
        | some h1 => .trap Cause.priv h1
        | none =>
        if n.xonly && !t.xfront then .trap Cause.wrongFront w
        else match n.codes window with
          | some cause => .trap cause w
          | none => if c.portIllegal then .trap Cause.illegalOperand w else match n.budget t.vcount t.scount with
            | some top => .trap Cause.regBudget (BitVec.ofNat 32 top)
            | none =>
              if !t.guard.isEmpty && (n.ban || !n.ports.isEmpty) then .trap Cause.guardNest (BitVec.ofNat 32 t.guard.length)
              else match c.badReg with
              | some code => .ecc Cause.eccUncorrectedReg code 0
              | none =>
              if n.ports.isEmpty then .ok c s
              else match c.unbound with
                | some port => .trap Cause.queueUnbound (BitVec.ofNat 32 port)
                | none => match c.kindFault with
                  | some port => .trap Cause.queueKind (BitVec.ofNat 32 port)
                  | none => match c.closedPush with
                    | some port => .closed port c.probe
                    | none => match c.shortQueue with
                      | some q => .park (.queue c.clu q ((s.clu c.clu).qserial.getD q 0)) c.probe
                      | none => match c.badPop with
                        | some a => .ecc Cause.eccUncorrectedMem 0 (s.localErr t a)
                        | none => let (c, s) := c.takePops; .ok c s

/-! ## Completing an instruction (R63, R242) -/

/-- Bank reads of one pass: the v operands it reads (R70). -/
def Info.bankReads (n : Info) : Nat := (n.ops.filter fun o => o.src && decide (o.code.toNat < 0x80)).length

/-- The issuing path after its instruction: at the next slot unless the instruction placed it, with its last pass noted
(R242), and giving way where a YIELD says so (R238). -/
def Path.after (p : Path) (f : Focus) (jumped : Bool) (stop : Nat) : Path :=
  let p := if jumped then p else { p with pc := f.addr + 4, entered := f.addr % 16 ≠ 12 }
  { p with lastPass := stop, since := stop, st := .ready, prog := 0, yielded := p.yielded || (f.yieldBit && (f.last || !p.entered)), wpSkip := none,
           bpSkip := if p.bpSkip = some f.addr then none else p.bpSkip }

/-- The first cycle after the instruction's passes, and the cycle from which its result is read (R243). -/
def Ctx.stop (c : Ctx) (s : State) : Nat := s.sweepStop c.t (passes c.p) c.n.bankReads
def Ctx.written (c : Ctx) (stop : Nat) : Nat := stop - 1 + max 1 c.n.lat

/-- The registers an instruction wrote have no error any more (R446). -/
def Ctx.rewritten (c : Ctx) (s : State) : State :=
  if c.t.flaws.isEmpty then s
  else c.modTeam s fun t =>
    let t := (c.n.ops.filter fun o => o.dst && !Code.isQ o.code).foldl (fun t o => t.mend o.code.toNat o.regs c.active) t
    match c.n.predW with | some p => t.mend (0x100 + p) 1 c.active | none => t

/-- Complete the issue of an instruction: time, the path's next slot, the flag and the pending blocks. -/
def Ctx.retire (c : Ctx) (s : State) (k : Option Cond) (jumped : Bool) : State :=
  let stop := c.stop s
  let s := (c.rewritten s).spend c.t (passes c.p) c.n.bankReads
  let s := c.modPath s fun p => p.after c.f jumped stop
  let s := { s with focus := none }
  let blocks := c.n.writes
  let gone := match s.team? c.tid with | some t => decide (t.place = .ended) | none => true
  if gone || (c.f.setf = 15 && blocks = 0 && k.isNone) then s
  else s.enterOutst c.tid c.f.setf blocks (k.getD (.atCycle (c.written stop)))

/-- A path parks at a cycle: it is eligible no sooner than in the next (R261, R401). -/
def Path.park (p : Path) (w : Wait) (now : Nat) : Path := { p with st := .parked w, since := now + 1 }
/-- An instruction parks its path: it has raised no flag count (R261). -/
def Ctx.parkOn (c : Ctx) (s : State) (w : Wait) : State :=
  { c.modPath s fun p => p.park w s.cycle with focus := none }

/-- What becomes of the state when an instruction's own part has answered. -/
def Ctx.conclude (c : Ctx) : Res → State
  | .done s => c.retire s none false
  | .later s k => c.retire s (some k) false
  | .jump s => c.retire s none true
  | .trap r => { c.s.takeTrap c.tid c.pid c.f.addr r with focus := none }
  | .fault cause write va level lanes =>
    { (c.s.metFail (.path c.tid c.pid) cause).faultPark c.tid c.pid cause write va level lanes with focus := none }
  | .park s w => c.parkOn s w
  | .abort cause obj => { c.s.abortTeam c.tid cause obj true none with focus := none }
  | .final s => { s with focus := none }

/-- A precise trap of the instruction in focus. -/
def State.trapFocus (s : State) (f : Focus) (r : TrapReq) : State := { s.takeTrap f.team f.path f.addr r with focus := none }

/-- The path in focus parks at a queue (R151, R207). -/
def State.parkFocus (s : State) (f : Focus) (w : Wait) : State :=
  let s := match s.team? f.team with | some t => s.pmc t.core 0x10 1 t.ctx | none => s
  { s.modPath f.team f.path fun p => p.park w s.cycle with focus := none }

/-- The kind rule that the value to be pushed breaks, if it does (R147). -/
def kindTrap (body : Ctx → State → Res) (probe : Option (Ctx × State)) : Option TrapReq :=
  match probe with
  | none => none
  | some (c, s) => match body c s with | .trap r => if r.cause = Cause.queueKind then some r else none | _ => none

/-- An instruction at issue: the shared checks, then its own part. A word with no path in focus is issued by no front end
(`Fault.noIssuer`). -/
def issue (i : Instr) (body : Ctx → State → Res) (s : State) : Host.Outcome State Fault Refusal :=
  match s.focus with
  | none => .fault .noIssuer
  | some f =>
    match admission i s with
    | .refused => .fault .noIssuer
    | .trap cause h1 => .next (s.trapFocus f ⟨cause, h1, 0, none, f.addr⟩)
    | .ecc cause h1 addr => .next (s.trapFocus f ⟨cause, h1, addr, none, f.addr⟩)
    | .closed port probe =>
      .next (s.trapFocus f ((kindTrap body probe).getD ⟨Cause.queueClosedPush, BitVec.ofNat 32 port, 0, none, f.addr⟩))
    | .park w probe => .next (match kindTrap body probe with | some r => s.trapFocus f r | none => s.parkFocus f w)
    | .ok c s' => .next (c.conclude (body c s'))

/-- An event's meaning: it always gives a next state. -/
def event (s : State) : Host.Outcome State Fault Refusal := .next s

end Sys2Proof.Machine
end

