-- ==== Sys2Proof/Machine/Ordering.lean ====
section
/-!
DEFINITION. Sys2Proof/Machine/Ordering.lean: what a release-class operation and an acquire do (R62, R114–R118,
R125–R128, R328, R421). A release whose writes are not yet where its pending scope asks holds its path at issue (R421),
and so does an acquire whose stamps its die's clock does not dominate.
-/
namespace Sys2Proof.Machine

/-- A write of the team that is not performed in its L1 or at its home (R127, first row), those of its TSTOREs among them (R389). -/
def State.unperformed (s : State) (tid : Nat) : Bool :=
  (match s.team? tid with | none => false | some t => t.writes.any s.writeOpen) ||
    s.tstores.any fun x => decide (x.2.team = tid) && (!x.2.started || x.2.stores.any s.writeOpen)
/-- A write of the team that is posted to the fabric and not acknowledged (R127, row FABRIC). -/
def State.unacked (s : State) (tid : Nat) : Bool :=
  match s.team? tid with
  | none => false
  | some t => (s.core t.core).posted.any fun p => decide (p.2.team = tid) && p.2.link.isSome
/-- A write of the team that is not complete. -/
def State.writesOpen (s : State) (tid : Nat) : Bool := s.unperformed tid || s.unacked tid

/-- The dirty words of every core of a die are written back and performed at home (R105, R116). -/
def State.writeBackDie (s : State) (die : Nat) : State :=
  ((s.cores.filter fun p => decide (dieOfCore p.1 = die)).map (·.1)).foldl State.writeBackCore s

/-- Bring writes where a release needs them (R116, R127): every request of the team's die in flight is performed, the die's
dirty words are written back, and what returns to the die is applied. DESIGN CHOICE (log 30): it does so at every pending
scope, so that narrow pages add no outcome (R132). -/
def State.flushWrites (s : State) (tid : Nat) : State :=
  match s.team? tid with
  | none => s
  | some t =>
    let die := dieOfCore t.core
    (((((s.drainOwn t.core none).drainDie die).writeBackDie die).drainDie die)).applyDie die

/-- What still holds a release of a scope: writes of the team, and at FABRIC and HOST its unacknowledged writes to the fabric
(R127); writes of its die's epoch that their homes have not accepted (R116); and invalidations of the die's writes that
have returned to it and are not applied, at every scope (R132, log 30). -/
def State.releaseHeld (s : State) (tid scope : Nat) : Bool :=
  match s.team? tid with
  | none => false
  | some t =>
    let die := dieOfCore t.core
    s.unperformed tid || (decide (scope ≥ Scope.fabric) && s.unacked tid) || s.epochOpen die ||
      (s.die die).apply.any (unappliedOf die)

/-- Links on which a write of the team was lost (R328). -/
def State.lostLinks (s : State) (t : Team) : List Nat :=
  (s.mgmt.lost.filter fun p => p.2.any t.writes.contains).map (·.1)

/-- The release itself (R126): the die's clock entry rises, the markers go out, %pscope becomes CORE. A lost write sets
FENCE_ERR, and FENCE_LOST waits for the next boundary where TRAPEN [6] asks for it (R328). -/
def State.releaseNow (s : State) (tid pid : Nat) : State :=
  match s.team? tid with
  | none => s
  | some t =>
    let lost := s.lostLinks t
    let s := s.modTeam tid fun t =>
      { (if lost.isEmpty then t else t.raise statusFence) with pscope := Scope.core, writes := t.writes.filter s.writeOpen }
    let s := s.modMgmt fun m =>
      let kept := m.lost.map fun p => (p.1, p.2.filter fun i => !(t.writes.contains i))
      { m with lost := kept.filter fun p => !p.2.isEmpty }
    let s := if t.trapen.getLsbD 6 then
        lost.foldl (fun s l => s.deferTrap tid ⟨Cause.fenceLost, BitVec.ofNat 32 l, 0, some pid, none⟩) s
      else s
    let d := dieOfCore t.core
    (s.raiseClock d).sendMarkers d

/-- A release-class operation at issue; inside a region it waits for the outermost AEXIT (R339). -/
def Ctx.release (c : Ctx) (s : State) (scope : Nat) (k : State → Res) : Res :=
  if c.inRegion then k s
  else
    let s := s.flushWrites c.tid
    if s.releaseHeld c.tid scope then .park (c.s.flushWrites c.tid) .posted
    else k (s.releaseNow c.tid c.pid)

/-- An acquire of values with these stamps (R118). -/
def Ctx.acquire (c : Ctx) (s : State) (st : Clock) (k : State → Res) : Res :=
  let s := s.applyDie c.die
  if (s.die c.die).clock.dominates c.die st then k s else .park (c.s.applyDie c.die) (.stamp st)

/-- The wider of a team's pending scope and that of pages it writes (R62). -/
def widerScope (p : Nat) (pages : List (Nat × Nat)) : Nat := pages.foldl (fun a q => max a (pscopeOf q.2 q.1)) p

/-- Writes a team has issued: its pending scope widens, and a later release waits for them. -/
def Team.wrote (t : Team) (ids : List Nat) (scope : Nat) : Team := { t with writes := t.writes ++ ids, pscope := scope }

/-- An atomic or RED of the team that is not yet performed. -/
def State.atomicsOpen (s : State) (t : Team) : Bool :=
  let mine (e : Instr) : Bool := match e with | .bankAluOperation r => t.writes.contains r.id | _ => false
  s.underway mine

/-- FENCE (R128, R334): 1 acquire, 2 release, 3 full. An acquire waits for the read of every earlier atomic of the team; a
full one also waits until every earlier write of the team has been applied on every die. -/
def Ctx.fence (c : Ctx) (s : State) (k : Nat) : Res :=
  let acq := fun (s : State) =>
    if k = 1 || k = 3 then
      let s := s.drainOwn c.core none
      if (match s.team? c.tid with | some t => s.atomicsOpen t | none => false) then .park (c.s.drainOwn c.core none) .atomic
      else c.acquire s c.t.loaded fun s => .done s
    else .done s
  if k = 1 || c.inRegion then acq s
  else
    let flush := fun (s : State) =>
      let s := s.flushWrites c.tid
      if k = 3 then (List.range Config.dies).foldl State.applyDie s else s
    let s1 := flush s
    if k = 3 && (s1.unapplied c.die || s1.writesOpen c.tid) then .park (flush c.s) .posted
    else c.release s1 c.t.pscope acq

/-- FENCE (R334). -/
def execFence (k : BitVec 2) (s : State) : Host.Outcome State Fault Refusal :=
  issue (.fence k) (fun c s => c.fence s k.toNat) s

end Sys2Proof.Machine
end

