-- ==== Sys2Proof/Machine/Blocks.lean ====
section
/-!
DEFINITION. Sys2Proof/Machine/Blocks.lean: the block formats MXFP4 and SF4 (R216, R226–R230): 32 E2M1 element codes
with a scale byte, and for SF4 a spare byte.
-/
namespace Sys2Proof.Machine

/-- E2M1 magnitudes in halves (R216). -/
def e2m1Half (c : Nat) : Nat :=
  let k := c % 8
  if k ≤ 4 then k else if k = 5 then 6 else if k = 6 then 8 else 12

/-- A block: element codes, scale and spare. -/
structure Block where
  codes : List Nat
  scale : Nat
  spare : Nat
  deriving DecidableEq, Repr

/-- The NaN an element of a NaN block stands for: it has no payload. -/
def blockNan : FV := .nan false (2 ^ 51) false

/-- The value of an element code (R226, R228). A NaN spare keeps its sign (R215). -/
def blockValue (sf4 : Bool) (scale spare code : Nat) : FV :=
  if scale = 0xFF then blockNan
  else
    let q : Int := (scale : Int) - 127
    if sf4 && code = 8 then
      match Fmt.fE4m3.decode spare with
      | .fin s m e => .fin s m (e + q)
      | v => v
    else .fin (decide (code ≥ 8)) (e2m1Half code) (q - 1)

/-- A scaled source: sign and magnitude in units of 2^e0. -/
structure Scaled where
  neg : Bool
  mag : Nat
  deriving DecidableEq, Repr

/-- The E2M1 code nearest a magnitude, ties to the even code, above 6 taken as 6 (R230). -/
def nearestE2m1 (unit : Nat) (a : Nat) : Nat :=
  (List.range 8).foldl (fun best c =>
    let d (k : Nat) : Nat := let v := e2m1Half k * unit; if v ≤ a then a - v else v - a
    if d c < d best || (d c = d best && c % 2 = 0) then c else best) 0

/-- Quantise a block of 32 source values (R230): the block, whether it is forced to NaN, and which elements are
inexact. -/
def quantise (sf4 sat : Bool) (xs : List FV) : Block × Bool × List Bool :=
  let isInf (x : FV) : Bool := match x with | .inf _ => true | _ => false
  if xs.any FV.isNan || (!sat && xs.any isInf) then (⟨xs.map fun _ => 0, 0xFF, 0⟩, true, xs.map fun _ => false)
  else
    let lead (x : FV) : Option Int :=
      match x with | .inf _ => some 129 | .fin _ m e => if m = 0 then none else some (leadExp m e) | _ => none
    let top := (xs.filterMap lead).foldl (fun (acc : Option Int) l => match acc with | none => some l | some a => some (max a l)) none
    let scale : Nat := match top with | none => 127 | some l => (min 254 (max 0 (l + 125))).toNat
    let q : Int := (scale : Int) - 127
    -- a common exponent at or below −10, so that halves and E4M3 spacings are whole
    let e0 : Int := (xs.foldl (fun (acc : Int) x => match x with | .fin _ m e => if m = 0 then acc else min acc (e - q) | _ => acc) (-10))
    let unit := 2 ^ (-1 - e0).toNat
    let as_ : List Scaled := xs.map fun x =>
      match x with
      | .inf s => ⟨s, 12 * unit⟩
      | .fin s m e => ⟨s, if m = 0 then 0 else m * 2 ^ (e - q - e0).toNat⟩
      | _ => ⟨false, 0⟩
    let qs := as_.map fun a => nearestE2m1 unit a.mag
    let value (k : Nat) : Nat := e2m1Half k * unit
    let dist (x y : Nat) : Nat := if x ≤ y then y - x else x - y
    if !sf4 then
      (⟨(as_.zip qs).map fun p => p.2 + (if p.1.neg then 8 else 0), scale, 0⟩, false,
       (as_.zip qs).map fun p => decide (p.1.mag ≠ value p.2))
    else
      let spacing (a : Nat) : Nat := 2 ^ (max ((Nat.log2 a : Int) + e0) (-6) - 3 - e0).toNat
      let misfit (p : Scaled × Nat) : Bool := p.1.mag ≠ 0 && decide (dist p.1.mag (value p.2) > spacing p.1.mag)
      let worst := ((as_.zip qs).filter misfit).foldl
        (fun (acc : Option Scaled) p => match acc with | none => some p.1 | some b => if p.1.mag > b.mag then some p.1 else acc) none
      match worst with
      | none =>
        (⟨(as_.zip qs).map fun p => if p.2 = 0 then 0 else p.2 + (if p.1.neg then 8 else 0), scale, 0⟩, false,
         (as_.zip qs).map fun p => decide (p.1.mag ≠ value p.2))
      | some j =>
        let spare := (roundTo Fmt.fE4m3 { FEnv.plain with sat := true } j.neg j.mag e0 false 0).1
        let (sneg, smag) := match Fmt.fE4m3.decode spare with
          | .fin s m e => (s, m * 2 ^ (e - e0).toNat)
          | _ => (false, 0)
        let far (a : Scaled) : Nat := if a.neg = sneg then dist a.mag smag else a.mag + smag
        let useSpare (p : Scaled × Nat) : Bool := decide (far p.1 < dist p.1.mag (value p.2))
        (⟨(as_.zip qs).map fun p =>
            if useSpare p then 8 else if p.2 = 0 then 0 else p.2 + (if p.1.neg then 8 else 0), scale, spare⟩, false,
         (as_.zip qs).map fun p => if useSpare p then decide (far p.1 ≠ 0) else decide (p.1.mag ≠ value p.2))

/-! ## Units of 256 elements (R229) -/

/-- Lane word L of a unit: nibble k is element L of block k. -/
def unitWord (bs : List Block) (l : Nat) : Nat :=
  ((List.range 8).zip bs).foldl (fun acc p => acc + (p.2.codes.getD l 0) % 16 * 16 ^ p.1) 0
/-- The trailer: scale bytes, for SF4 each followed by its spare. -/
def unitTrailer (sf4 : Bool) (bs : List Block) : List Byte :=
  bs.flatMap fun b => if sf4 then [BitVec.ofNat 8 b.scale, BitVec.ofNat 8 b.spare] else [BitVec.ofNat 8 b.scale]
/-- Bytes of a unit. -/
def unitBytes (sf4 : Bool) : Nat := if sf4 then 144 else 136
/-- A whole unit's bytes. -/
def unitImage (sf4 : Bool) (bs : List Block) : List Byte :=
  ((List.range 32).flatMap fun l => natLe 4 (unitWord bs l)) ++ unitTrailer sf4 bs
/-- Scale and spare of block j from a trailer. -/
def trailerScale (sf4 : Bool) (tr : List Byte) (j : Nat) : Nat × Nat :=
  if sf4 then ((tr.getD (2 * j) 0).toNat, (tr.getD (2 * j + 1) 0).toNat) else ((tr.getD j 0).toNat, 0)
/-- The value of element i of a unit image. -/
def unitValue (sf4 : Bool) (bytes : List Byte) (i : Nat) : FV :=
  let w := leNat ((bytes.drop (4 * (i % 32))).take 4)
  let (s, p) := trailerScale sf4 (bytes.drop 128) (i / 32)
  blockValue sf4 s p (bits w (4 * (i / 32)) 4)

end Sys2Proof.Machine
end

