-- ==== Sys2Proof/Machine/Work.lean ====
section
/-!
DEFINITION. Sys2Proof/Machine/Work.lean: work records, launch headers and pools (R29–R38, R168–R170), the team former,
placement and the admission of groups (R28, R403–R405), and the quiescence counters as firmware reads them (R203).
-/
namespace Sys2Proof.Machine

/-! ## Launch headers (R168, R169) -/

def hLanes (h : Nat) : Nat := 32 * (bits h 0 5 + 1)
def hVregs (h : Nat) : Nat := 8 * (bits h 5 4 + 1)
def hSregs (h : Nat) : Nat := bits h 9 6
def hTeams (h : Nat) : Nat := bits h 15 4 + 1
def hSpread (h : Nat) : Nat := bits h 19 2
def hCrew (h : Nat) : Bool := bits h 21 1 = 1
/-- One record launches the whole group (R36): a kernel of several teams per group, or a crew (R405). -/
def hWhole (h : Nat) : Bool := hTeams h ≠ 1 || hCrew h
def hLocal (h : Nat) : Nat := 128 * bits h 22 14
def hTiles (h : Nat) : Nat := bits h 36 12
def hRole (h t : Nat) : Nat := bits h (64 + 4 * t) 4
def hCore (h t : Nat) : Nat := bits h (128 + 4 * t) 4
def hXfront (h t : Nat) : Bool := bits h (48 + hRole h t) 1 = 1
def hWidths (h : Nat) : List Nat := (List.range 6).map fun i => bits h (192 + 6 * i) 6
/-- Register blocks of one team (R23). -/
def hBlocks (h : Nat) : Nat := hVregs h / 8 * (hLanes h / 32)

/-- A parameter window: size, argument index, whether it is bound. -/
structure PWin where
  size  : Nat
  k     : Nat
  bound : Bool
  rsvd  : Nat
  deriving DecidableEq, Repr
def hPwin (h w : Nat) : PWin :=
  let x := bits h (256 + 64 * w) 64
  ⟨bits x 0 24 + bits x 29 1 * 2 ^ 24, bits x 24 4, bits x 28 1 = 1, bits x 30 34⟩

/-- A header's queue definition. -/
structure QDef where
  valid  : Bool
  kind   : Nat
  team   : Nat
  offset : Nat
  depth  : Nat
  port   : Nat
  mask   : Nat
  rsvd   : Nat
  deriving DecidableEq, Repr
def hQdef (h j : Nat) : QDef :=
  let x := bits h (512 + 64 * j) 64
  ⟨bits x 0 1 = 1, bits x 1 2, bits x 3 4, bits x 7 20, bits x 27 12, bits x 39 4, bits x 43 16, bits x 59 5⟩
/-- The definitions that are valid, in increasing order of j. -/
def hQdefs (h : Nat) : List QDef := ((List.range 8).map (hQdef h)).filter (·.valid)

/-- Teams that one whole core can hold (R16, R23). -/
def hPerCore (h : Nat) : Nat := min Config.teamSlots (Config.registerBlocks / hBlocks h)

/-- The local index of the core a placement gives each team, from the first core where the mode has one. -/
def hPattern (h first : Nat) : List Nat :=
  (List.range (hTeams h)).map fun t => if hSpread h = 1 then (first + t) % 12 else hCore h t

/-- Whether some cluster could ever hold the group (R28). -/
def hFits (h : Nat) : Bool :=
  if hSpread h = 0 then decide (12 * hPerCore h ≥ hTeams h)
  else (List.range 12).all fun c => decide (((hPattern h 0).filter (· = c)).length ≤ hPerCore h)

/-- The limits of R20, R28, R30 and the rules of R169. -/
def headerOk (h : Nat) : Bool :=
  let n := hTeams h
  let ws := hWidths h
  decide (hSregs h ≤ 32) && hSpread h ≠ 3 && decide (bits h 22 14 ≤ 8192) && bits h 228 28 = 0 &&
  ((List.range 16).all fun t =>
    if t < n then decide (hCore h t < 12) else decide (hRole h t = 0) && decide (hCore h t = 0)) &&
  (ws.all fun w => decide (w ≤ 32)) && decide (ws.foldl (· + ·) 0 ≤ 64) &&
  decide (2 ^ ws.getD 0 0 ≥ hLanes h) && decide (2 ^ ws.getD 1 0 ≥ n) && hFits h &&
  ((List.range 4).all fun w =>
    let p := hPwin h w
    p.rsvd = 0 && decide (p.size ≤ 2 ^ 24) && (!p.bound || (decide (p.k ≤ 10) && p.k % 2 = 0))) &&
  ((List.range 8).all fun j =>
    let q := hQdef h j
    q.rsvd = 0 && (!q.valid || (decide (q.kind ≤ 2) && decide (q.team < n) && q.offset % 8 = 0 && decide (q.depth ≠ 0) &&
      decide (q.offset + q.depth * entryBytes q.kind ≤ hLocal h))))

/-- Read a run of code bytes at a virtual address, X = 1 needed (R168); none where a page does not allow it, or where they cannot
be read (R97). -/
def State.codeRead (s : State) (ctx va n : Nat) : Option (List Byte) × State :=
  let first := min n (65536 - va % 65536)
  match s.walk 0 ctx va false true with
  | (.inr _, s) => (none, s)
  | (.inl e, s) =>
    match s.cleanRead ctx (e.pa + (va - e.base)) first with
    | (.inr _, s) => (none, s)
    | (.inl b1, s) =>
      if first = n then (some b1, s)
      else match s.walk 0 ctx (va + first) false true with
        | (.inr _, s) => (none, s)
        | (.inl e, s) =>
          match s.cleanRead ctx (e.pa + (va + first - e.base)) (n - first) with
          | (.inr _, s) => (none, s)
          | (.inl b2, s) => (some (b1 ++ b2), s)

/-- The launch header of an entry bundle; none where it cannot be read. DESIGN CHOICE (log 34): the header of an entry below 128,
which would begin below address 0, cannot be read. -/
def State.header (s : State) (ctx entry : Nat) : Option Nat × State :=
  if entry < 128 then (none, s)
  else match s.codeRead ctx (entry - 128) 128 with
    | (none, s) => (none, s)
    | (some bs, s) => (some (leNat bs), s)

/-! ## Work records (R31, R32) -/

def recEntry (r : Nat) : Nat := bits r 0 48
def recPool (r : Nat) : Nat := bits r 48 6
def recWork (r : Nat) : Nat := bits r 64 64
/-- Argument word k. -/
def recArg (r k : Nat) : Nat := bits r (128 + 32 * k) 32
/-- The 64-bit value in argument bytes 4k to 4k + 7. -/
def recBase (r k : Nat) : Nat := bits r (128 + 32 * k) 64

/-- Whether a pool is in feed mode. -/
def poolFeed (e : Nat) : Bool := bits e 1 1 = 1

/-- R32: whether a record of a context is accepted. -/
def State.recordOk (s : State) (ctx r : Nat) : Bool × State :=
  let e := s.poolEntry ctx (recPool r)
  if bits r 54 10 ≠ 0 || recEntry r % 16 ≠ 0 || !poolValid e then (false, s)
  else match s.header ctx (recEntry r) with
    | (none, s) => (false, s)
    | (some h, s) =>
      (headerOk h && (poolFeed e || hWhole h || hLanes h = 32 * (bits e 6 5 + 1)) &&
        ((List.range 4).all fun w =>
          let p := hPwin h w
          !p.bound || recBase r p.k % 8 = 0), s)

/-! ## Rings (R33, R154) -/

/-- Append a record to its pool's ring: it counts in the pool's tree from now on (R44), and carries the graph node it
came from. -/
def State.appendRecord (s : State) (ctx r : Nat) (src : Origin) : State :=
  let pool := recPool r
  let e := s.poolEntry ctx pool
  let tail := bits e 352 32
  let s := (s.engineWrite 0 ctx (atAddr (bits e 32 56 + 64 * (tail % ringCap e)) (natLe 64 r))).2
  let s := s.poolPut ctx pool 44 ((tail + 1) % 2 ^ 32)
  let s := s.setLive (64 * ctx + pool) (s.live (64 * ctx + pool) + 1)
  let s := s.modCtx ctx fun c => { c with origins := Tab.store .code c.origins (2 ^ 32 * pool + tail) src }
  s.post (if poolFeed e then .feedAppend ctx pool else .recordDistribute ctx pool)

/-- The record at the head of a ring, with its origin. -/
def State.headRecord (s : State) (ctx pool : Nat) : Option (Nat × Origin) :=
  let e := s.poolEntry ctx pool
  if ringCount e = 0 then none
  else
    let head := bits e 320 32
    some (s.hnat (bits e 32 56 + 64 * (head % ringCap e)) 64, (s.ctx ctx).origins.getD (2 ^ 32 * pool + head) .code)

/-- The head record leaves the ring. -/
def State.dropHead (s : State) (ctx pool : Nat) : State :=
  let head := bits (s.poolEntry ctx pool) 320 32
  let s := s.poolPut ctx pool 40 ((head + 1) % 2 ^ 32)
  s.modCtx ctx fun c => { c with origins := c.origins.del (2 ^ 32 * pool + head) }

/-- Whether the ring holds a record for an entry bundle. -/
def State.ringHas (s : State) (ctx pool entry : Nat) : Bool :=
  let e := s.poolEntry ctx pool
  (List.range (ringCount e)).any fun i =>
    decide (recEntry (s.hnat (bits e 32 56 + 64 * ((bits e 320 32 + i) % ringCap e)) 8) = entry)

/-! ## The team former (R34–R36) -/

/-- The clusters whose EDF tables hold a context, in cluster-number order (R34). -/
def State.clustersOf (s : State) (ctx : Nat) : List Nat :=
  (List.range Config.clusters).filter fun c => (s.clu c).edf.any fun p => p.2.valid && p.2.ctx = ctx

/-- Whether a cluster's stop request holds a context's forming teams (R406). -/
def State.formingHeld (s : State) (clu ctx : Nat) : Bool :=
  let c := s.clu clu
  c.stopReq && (match c.running with
    | some i => (match c.edf.get? i with | some e => decide (e.ctx = ctx) | none => false)
    | none => false)

/-- A launch joins its cluster's admission queue: by base level, then by arrival (R404). -/
def State.enqueueLaunch (s : State) (clu : Nat) (l : Launch) : State :=
  (s.modClu clu fun c =>
    { c with waiting := (c.waiting.filter fun x => decide (x.level ≥ l.level)) ++ [l] ++
        (c.waiting.filter fun x => decide (x.level < l.level)) }).post (.groupAdmission clu)

/-- A forming team launches, as a group of one. -/
def State.launchForming (s : State) (id : Nat) (f : Forming) : State :=
  ({ s with forming := s.forming.del id }).enqueueLaunch f.clu { f.launch with arrival := s.ns }

/-- A forming team with a record for every lane. -/
def Forming.full (f : Forming) : Bool := decide (f.launch.recs.length ≥ f.lanes)

/-- A record reaches a cluster's team former: a full team launches, but where a stop request holds it (R35, R406). -/
def State.formRecord (s : State) (clu ctx pool r : Nat) (src : Origin) (h : Nat) : State :=
  let e := s.poolEntry ctx pool
  let l : Launch := { ctx := ctx, pool := 64 * ctx + pool, entry := recEntry r, header := BitVec.ofNat 1024 h,
                      recs := [BitVec.ofNat 512 r], srcs := [src], level := bits e 2 4, arrival := s.ns }
  if hWhole h then s.enqueueLaunch clu l
  else
    let held := s.formingHeld clu ctx
    match s.forming.find? fun p => p.2.clu = clu && p.2.launch.ctx = ctx && p.2.launch.pool = l.pool &&
        p.2.launch.entry = l.entry && !p.2.full with
    | some (id, f) =>
      let f := { f with launch := { f.launch with recs := f.launch.recs ++ l.recs, srcs := f.launch.srcs ++ [src] } }
      if f.full && !held then s.launchForming id f else { s with forming := s.forming.put id f }
    | none =>
      let (id, s) := s.serial
      let f : Forming := ⟨clu, l, if held then 0 else s.ns, hLanes h⟩
      ({ s with forming := s.forming.put id f }).postAll [.gatherWindowExpiry id, .groupAdmission clu]

/-- The next cluster of a pool's round-robin (R34). -/
def nextInTurn (cs : List Nat) (pos : Nat) : Option Nat :=
  match cs.find? fun c => decide (c ≥ pos) with
  | some c => some c
  | none => cs.head?

/-- RECORD_DISTRIBUTE (R34): the head record goes to the next cluster in turn; with no cluster the event waits. A record
whose header has meanwhile gone bad ends without running (log 20). A completion of the pool that waits is tried first
(R170). -/
def execRecordDistribute (ctx pool : Nat) (s : State) : Host.Outcome State Fault Refusal :=
  event (
    let s := s.retryCompletion ctx pool
    match (if poolFeed (s.poolEntry ctx pool) then none else s.headRecord ctx pool) with
    | none => s
    | some (r, src) =>
      match nextInTurn (s.clustersOf ctx) ((s.ctx ctx).rr.getD pool 0) with
      | none => s.post (.recordDistribute ctx pool)
      | some clu =>
        let s := (s.dropHead ctx pool).modCtx ctx fun c => { c with rr := c.rr.put pool (clu + 1) }
        match s.header ctx (recEntry r) with
        | (none, s) => s.recordsEnd (64 * ctx + pool) [src]
        | (some h, s) => s.formRecord clu ctx pool r src h)

/-- Whether a forming team launches now: full, or its window has run (R35): WINDOW × 100 ns since its first record, or, with WINDOW = 0, no further
record for its ENTRY waits in the ring. -/
def State.windowRun (s : State) (f : Forming) : Bool :=
  let ctx := f.launch.ctx
  let pool := f.launch.pool % 64
  let w := bits (s.poolEntry ctx pool) 11 16
  !s.formingHeld f.clu ctx &&
    (f.full || if w = 0 then !s.ringHas ctx pool f.launch.entry else decide (s.ns ≥ f.opened + 100 * w))

/-- GATHER_WINDOW_EXPIRY (R35): a forming team whose window has run launches with the lanes it has, and a full one that a stop request
held once that is over. -/
def execGatherWindowExpiry (id : Nat) (s : State) : Host.Outcome State Fault Refusal :=
  event (
    match s.forming.get? id with
    | none => s
    | some f => if s.windowRun f then s.wake.launchForming id f else s.post (.gatherWindowExpiry id))

/-! ## Feed mode (R38, R153) -/

/-- The context that holds a cluster. -/
def State.runningCtx (s : State) (clu : Nat) : Option Nat :=
  match (s.clu clu).running with
  | some i => ((s.clu clu).edf.get? i).map (·.ctx)
  | none => none

/-- Whether a queue takes the records of a context's pool now: a feed queue of a group of the context, with room for a whole
record, while the context holds the cluster (R38, R152). -/
def State.takesFeed (s : State) (ctx clu : Nat) (q : Queue) : Bool :=
  q.feed && !q.closed && q.kind = kindU32 && decide (q.depth - q.count ≥ 16) && s.runningCtx clu = some ctx &&
    (match s.group? clu q.owner with | some g => decide (g.ctx = ctx) | none => false)

/-- FEED_APPEND (R38, R152): the record's sixteen words, once the feed queue can take them; otherwise the event waits. -/
def execFeedAppend (ctx pool : Nat) (s : State) : Host.Outcome State Fault Refusal :=
  event (
    let e := s.poolEntry ctx pool
    let clu := bits e 88 6
    let n := bits e 94 6
    match s.headRecord ctx pool with
    | none => s
    | some (r, src) =>
      match (s.clu clu).queues.get? n with
      | none => s.post (.feedAppend ctx pool)
      | some q =>
        if !s.takesFeed ctx clu q || !poolValid e || !poolFeed e || s.queueLocked clu n then s.post (.feedAppend ctx pool)
        else
          let s := s.dropHead ctx pool
          let s := (List.range 16).foldl (fun s k => s.pushEntry clu n (natLe 4 (bits r (32 * k) 32))) s
          s.modClu clu fun c =>
            { c with feeds := c.feeds.put (feedKey q n) (c.feeds.getD (feedKey q n) [] ++ [(64 * ctx + pool, src, 16)]) })

/-! ## What a cluster has free (R403) -/

/-- Teams that hold slots and registers on a core: resident ones, and ended ones until their group ends (R46). -/
def State.holders (s : State) (core : Nat) : List Team :=
  (s.teams.filter fun p => p.2.core = core && !p.2.fw && (p.2.place = .resident || p.2.place = .ended)).map (·.2)
def State.freeSlots (s : State) (core : Nat) : List Nat :=
  (List.range Config.teamSlots).filter fun k => !((s.holders core).any fun t => t.slot = k)
def State.usedBlocks (s : State) (core : Nat) : Nat :=
  ((s.holders core).foldl (fun n t => n + t.vcount / 8 * (t.lanes / 32)) 0) +
    (s.clu (cluOfCore core)).groups.foldl (fun n p => n + p.2.blocks.getD core 0) 0
def State.freeBlocks (s : State) (core : Nat) : Nat := Config.registerBlocks - s.usedBlocks core

/-- The lowest base of a free run of `len` bytes in a core's local store. -/
def State.localBase (s : State) (core len : Nat) : Option Nat :=
  let used := (s.clu (cluOfCore core)).groups.filterMap fun p => (p.2.ranges.get? core).map fun b => (b, b + p.2.len)
  (0 :: used.map (·.2)).foldl (fun best b =>
    if decide (b + len ≤ Config.localStoreBytes) && (used.all fun u => decide (b + len ≤ u.1) || decide (u.2 ≤ b)) &&
        (match best with | some x => decide (b < x) | none => true) then some b else best) none

/-- Teams of a header that a core can take now. -/
def State.roomFor (s : State) (core h : Nat) : Nat :=
  if (s.localBase core (hLocal h)).isNone then 0
  else min (s.freeSlots core).length (s.freeBlocks core / hBlocks h)

/-! ## Placement (R29) -/

def insertDown (x : Nat) : List Nat → List Nat
  | [] => [x]
  | y :: ys => if x ≥ y then x :: y :: ys else y :: insertDown x ys
/-- The sum of the k largest. -/
def topSum (xs : List Nat) (k : Nat) : Nat := ((xs.foldl (fun acc x => insertDown x acc) []).take k).foldl (· + ·) 0

/-- The first set, in lexicographic order, of c cores that hold `need` teams, each core with the teams it takes. -/
def packSet : List (Nat × Nat) → Nat → Nat → Option (List (Nat × Nat))
  | _, 0, need => if need = 0 then some [] else none
  | [], _ + 1, _ => none
  | (i, a) :: rest, c + 1, need =>
    if decide (rest.length ≥ c) && decide (a + topSum (rest.map (·.2)) c ≥ need) then
      (packSet rest c (need - min a need)).map ((i, min a need) :: ·)
    else packSet rest (c + 1) need

/-- PACK: the fewest cores, then the first set, then each filled before the next. -/
def packPlace (caps : List (Nat × Nat)) (need : Nat) : Option (List Nat) :=
  match (List.range 12).find? fun c => decide (topSum (caps.map (·.2)) (c + 1) ≥ need) with
  | none => none
  | some c => (packSet caps (c + 1) need).map fun l => l.flatMap fun p => List.replicate p.2 p.1

/-- The local core index of each team, if the group fits now. -/
def State.placement (s : State) (clu h : Nat) : Option (List Nat) :=
  let caps := (List.range 12).map fun i => (i, s.roomFor (12 * clu + i) h)
  let fits (l : List Nat) : Bool := caps.all fun p => decide ((l.filter (· = p.1)).length ≤ p.2)
  if hSpread h = 0 then packPlace caps (hTeams h)
  else if hSpread h = 1 then ((List.range 12).map (hPattern h)).find? fits
  else if fits (hPattern h 0) then some (hPattern h 0) else none

/-- Everything of R403 is free at once: the placement. -/
def State.fits (s : State) (clu h : Nat) : Option (List Nat) :=
  let c := s.clu clu
  if c.queues.length + (hQdefs h).length > 64 then none
  else if c.groups.foldl (fun n p => n + p.2.tiles) 0 + hTiles h > 4096 then none
  else s.placement clu h

/-! ## Admission (R25, R28, R30, R35–R37) -/

/-- The work identifier of a lane (R30). -/
def workIdent (ws : List Nat) (w lane team : Nat) : Nat :=
  let w0 := ws.getD 0 0
  let w1 := ws.getD 1 0
  let total := ws.foldl (· + ·) 0
  lane + team * 2 ^ w0 + w % 2 ^ total / 2 ^ (w0 + w1) * 2 ^ (w0 + w1)

/-- The record of a lane: its own, or the group's one record. -/
def Launch.recOf (l : Launch) (lane : Nat) : Nat :=
  if hWhole l.header.toNat then (l.recs.headD 0).toNat else (l.recs.getD lane 0).toNat
/-- Lanes that carry a record. -/
def Launch.carried (l : Launch) : Nat :=
  if hWhole l.header.toNat then hLanes l.header.toNat else min l.recs.length (hLanes l.header.toNat)

/-- A path at its start. -/
def Path.start (pc : Nat) (mask : LaneMask) (now : Nat) : Path :=
  { pc := pc, mask := mask, chain := [], st := .ready, prog := 0, entered := false, waitPc := 0, waitSetf := 15, waitYield := false, lastPass := 0,
    since := now, heldFrom := none, yielded := false, win := .closed, bpSkip := none, wpSkip := none, hitAt := none, debt := 0, needSync := true,
    syncPackets := 0, syncTime := 0 }

/-- A team as R25 says it starts: everything zero but its arguments, identifiers and streams. -/
def Launch.team (l : Launch) (clu core slot serial t : Nat) (ports : Tab Nat) (now : Nat) : Team :=
  let h := l.header.toNat
  let n := hLanes h
  let ws := hWidths h
  let ids := (List.range n).map fun lane => (lane, BitVec.ofNat 64 (workIdent ws (recWork (l.recOf lane)) lane t))
  { ctx := l.ctx, core := 12 * clu + core, slot := slot, group := serial, index := t, role := hRole h t,
    xfront := hXfront h t, fw := false, lanes := n, vcount := hVregs h, scount := hSregs h, base := l.level,
    pool := l.pool, place := .resident, carried := l.carried, workIds := ids, widths := ws,
    rng := ids.map fun p => (p.1, randSeed p.2 l.ctx),
    v := (List.range (min 12 (hVregs h))).flatMap fun k => (List.range l.carried).filterMap fun lane =>
      let x := BitVec.ofNat 32 (recArg (l.recOf lane) k)
      if x = 0 then none else some (vKey k lane, x),
    s := [], p := [], h := [], mode := 0, status := 0, pscope := Scope.core, faultmask := 0, hcause := 0, hflt := 0,
    trapen := 0, cycleh := 0, timeh := 0, stalls := 0, ports := ports, tags := [], guard := [], gbytes := [],
    gscopes := [], paths := [(0, Path.start l.entry (firstLanes l.carried) now)], recs := [], outst := [], landing := [], fresh := 0, arrived := 0,
    deferred := [], firstFault := none, terminated := false, loaded := Clock.zero, writes := [], rests := [], stopped := false, leaving := false, flaws := [], reserve := (0, []) }

/-- The header queues with their numbers: the free numbers in increasing order. -/
def State.headerQueues (s : State) (clu h : Nat) : List (Nat × QDef) :=
  ((List.range 64).filter fun q => ((s.clu clu).queues.get? q).isNone).zip (hQdefs h)

/-- Give out a local-store range: undefined from now on, but for what a header queue's storage holds (R168). The core's
instruction and constant caches hold nothing from before the admission (R89, R99). -/
def State.giveLocal (s : State) (core base len : Nat) (keep : List (Nat × Nat)) : State :=
  let (k, s) := s.draw
  s.modCore core fun c =>
    { c with
      lstore := c.lstore.filter fun p => !(decide (base ≤ p.1) && decide (p.1 < base + len)) ||
        keep.any fun r => decide (base + r.1 ≤ p.1) && decide (p.1 < base + r.1 + r.2),
      lepoch := (List.range (len / 128)).foldl (fun e i => e.put (base / 128 + i) k) c.lepoch,
      icache := [], ccache := [] }

/-- Admit a launch whole, its teams on the cores of `place` (R28). DESIGN CHOICE (log 49): a team takes the lowest free slot of
its core; the spec asks only for a free one. -/
def State.admitGroup (s : State) (clu : Nat) (l : Launch) (place : List Nat) : State :=
  let h := l.header.toNat
  let serial := (s.clu clu).admitted
  let qs := s.headerQueues clu h
  let cores := place.eraseDups
  let ranges := cores.foldl (fun (r : Tab Nat) c => r.put (12 * clu + c) ((s.localBase (12 * clu + c) (hLocal h)).getD 0)) []
  let keepOf (c : Nat) : List (Nat × Nat) :=
    (qs.filter fun q => place.getD q.2.team 0 = c).map fun q => (q.2.offset, q.2.depth * entryBytes q.2.kind)
  let s := cores.foldl (fun s c => s.giveLocal (12 * clu + c) (ranges.getD (12 * clu + c) 0) (hLocal h) (keepOf c)) s
  let first := s.seq
  let n := place.length
  let s := (place.zip (List.range n)).foldl (fun s p =>
    let (id, s) := s.serial
    let slot := (s.freeSlots (12 * clu + p.1)).headD 0
    let ports := qs.foldl (fun (t : Tab Nat) q => if bits q.2.mask p.2 1 = 1 then t.put q.2.port q.1 else t) []
    s.setTeam id (l.team clu p.1 slot serial p.2 ports s.cycle)) s
  let windows := (List.range 4).foldl (fun (t : Tab (Nat × Nat)) w =>
    let p := hPwin h w
    if p.bound then t.put w (recBase (l.recOf 0) p.k, p.size) else t) []
  let g : Group := { ctx := l.ctx, teams := (List.range n).map (first + ·), ranges := ranges, len := hLocal h,
                     windows := windows, tiles := hTiles h, counts := [], gens := [], blocks := [], claims := [],
                     crew := hCrew h, pool := l.pool, whole := hWhole h, srcs := l.srcs, saved := false }
  let s := s.modClu clu fun c =>
    { c with admitted := c.admitted + 1, groups := c.groups.put serial g,
             queues := qs.foldl (fun t q =>
               let core := place.getD q.2.team 0
               t.put q.1 { kind := q.2.kind, closed := false, core := core,
                           base := ranges.getD (12 * clu + core) 0 + q.2.offset, depth := q.2.depth, head := 0, tail := 0,
                           count := 0, feed := false, owner := serial }) c.queues,
             qserial := qs.foldl (fun t q => t.put q.1 (t.getD q.1 0 + 1)) c.qserial }
  -- a crew's record stops counting at its admission (R405)
  if hCrew h then s.recordsEnd l.pool l.srcs else s

/-- The first launch that may be admitted: the head of the running context's launches, or one behind it while the head
has waited less than 50 µs (R404). Its place in the list, and its placement. -/
def State.admissible (s : State) (clu ctx : Nat) : List Launch → Nat → Option Nat → Option (Nat × Launch × List Nat)
  | [], _, _ => none
  | l :: rest, i, head =>
    if l.ctx ≠ ctx then State.admissible s clu ctx rest (i + 1) head
    else match s.fits clu l.header.toNat with
      | some place => some (i, l, place)
      | none =>
        let since := head.getD l.arrival
        if s.ns ≥ since + 50000 then none else State.admissible s clu ctx rest (i + 1) (some since)

/-! ## Quiescence counters (R44, R203) -/

/-- The saved image of a context on a cluster (R409). -/
def State.image? (s : State) (ctx clu : Nat) : Option Image := s.images.get? (64 * ctx + clu)
/-- A group of a cluster, resident or saved. -/
def State.groupAny (s : State) (ctx clu serial : Nat) : Option Group :=
  match s.group? clu serial with
  | some g => some g
  | none => match s.image? ctx clu with
    | some i => (i.groups.find? fun p => p.1 = serial).map (·.2)
    | none => none
/-- Forming teams and waiting launches of a pool on a cluster, saved ones included. -/
def State.formed (s : State) (pool clu : Nat) : List Launch :=
  let i := s.image? (pool / 64) clu
  ((s.forming.filter fun p => p.2.clu = clu).map (·.2.launch) ++ (s.clu clu).waiting ++
    (match i with | some i => i.forming.map (·.launch) ++ i.waiting | none => [])).filter fun l => decide (l.pool = pool)

/-- Groups of a pool's context that a cluster holds, or that are saved from it. -/
def State.groupsOf (s : State) (pool clu : Nat) : List Group :=
  (((s.clu clu).groups.map (·.2)) ++ (match s.image? (pool / 64) clu with | some i => i.groups.map (·.2) | none => [])).filter
    fun g => decide (g.pool = pool)

/-- Records of a pool that run or park on a core, saved ones included (R44): one for each lane that carries one, and one on
each of its cores for a group that carries one, until the group ends (R45). -/
def State.coreCount (s : State) (pool core : Nat) : Nat :=
  ((s.groupsOf pool (cluOfCore core)).filter fun g => g.whole && !g.crew && (g.ranges.get? core).isSome).length +
  (s.teams.filter fun p => p.2.core = core && p.2.pool = pool && !p.2.fw && p.2.place ≠ .ended).foldl (fun n p =>
    match s.groupAny p.2.ctx (cluOfCore core) p.2.group with
    | some g => if g.crew || g.whole then n
      else n + ((lanesOf (p.2.liveLanes ||| p.2.faultmask)).filter fun l => l < p.2.carried).length
    | none => n) 0
/-- Records in a cluster's team former, admission queue or feed queues, plus its cores that count. DESIGN CHOICE (log 49): R44
lists no place for a feed record between its append and its sixteenth pop; it counts at the cluster of its feed queue. -/
def State.cluCount (s : State) (pool clu : Nat) : Nat :=
  ((s.formed pool clu).foldl (fun n l => n + l.recs.length) 0) +
  ((s.clu clu).feeds.foldl (fun n p => n + (p.2.filter fun x => x.1 = pool).length) 0) +
  ((List.range 12).filter fun c => s.coreCount pool (12 * clu + c) ≠ 0).length
def State.dieCount (s : State) (pool die : Nat) : Nat :=
  ((List.range Config.clustersPerDie).filter fun c => s.cluCount pool (Config.clustersPerDie * die + c) ≠ 0).length
def State.rootCount (s : State) (pool : Nat) : Nat :=
  ringCount (s.poolEntry (pool / 64) (pool % 64)) + ((List.range Config.dies).filter fun d => s.dieCount pool d ≠ 0).length
/-- QTVAL for a QTSEL (R203). -/
def State.qtVal (s : State) (sel : Nat) : Nat :=
  let pool := 64 * bits sel 6 6 + bits sel 0 6
  let idx := bits sel 14 10
  if !poolValid (s.poolEntry (pool / 64) (pool % 64)) then 0
  else if bits sel 12 2 = 0 then (if idx < Config.cores then s.coreCount pool idx else 0)
  else if bits sel 12 2 = 1 then (if idx < Config.clusters then s.cluCount pool idx else 0)
  else if bits sel 12 2 = 2 then (if idx < Config.dies then s.dieCount pool idx else 0)
  else s.rootCount pool

end Sys2Proof.Machine
end

