-- ==== Sys2Proof/Machine/Tiers.lean ====
section
/-!
DEFINITION. Sys2Proof/Machine/Tiers.lean: where tile values stand (R74, R96, R98, R176): the size of an image, the name table, and
the tiers with the room that each has.
-/
namespace Sys2Proof.Machine

/-! ## Images and names (R173, R175) -/

/-- MXFP4 and SF4 hold their elements in blocks. -/
def isBlock (fmt : Nat) : Bool := fmt = 7 || fmt = 8
/-- Bytes of an element of the other formats. -/
def fmtBytes (fmt : Nat) : Nat := if fmt = 0 then 4 else if fmt = 1 then 8 else if fmt = 2 || fmt = 3 then 2 else 1
/-- Formats that carry a tile scale. -/
def hasScale (fmt : Nat) : Bool := fmt = 4 || fmt = 5 || fmt = 6

def Shape.packed (h : Shape) : Nat := if h.orient then h.rows else h.cols
def Shape.count (h : Shape) : Nat := h.rows * h.cols

/-- Bytes of the dense image of a shape. -/
def Shape.bytes (h : Shape) : Nat :=
  if isBlock h.fmt then (h.count + 255) / 256 * unitBytes (h.fmt = 8) else h.count * fmtBytes h.fmt

def handleName (h : Nat) : Nat := h % 4096
def handleGen (h : Nat) : Nat := bits h 12 4

def State.name (s : State) (clu n : Nat) : Name := (s.clu clu).names.getD n Name.fresh
def State.setName (s : State) (clu n : Nat) (x : Name) : State := s.modClu clu fun c => { c with names := c.names.put n x }

/-! ## Tiers (R74, R96, R98, R176) -/

/-- What a tier gives of a value: its bytes, or the error found in reading them, with its address (R97, R446). -/
inductive TileData where
  | ok (img : List Byte)
  | bad (cause : Byte) (addr : Nat)
  deriving DecidableEq, Repr

/-- The cores of a cluster above which a staged copy of a name stands without an error (R96). -/
def State.goodCopies (s : State) (clu name : Nat) : List Nat :=
  ((List.range 12).map (12 * clu + ·)).filter fun c => (s.core c).garnet.any fun g => g.name = name && !g.bad

/-- The value of a name as its tier gives it: a value that only the Garnet stacks hold comes from any good copy (R96), and
the pool and the spill area give the bytes that stand there (R88, R98). -/
def State.tileData (s : State) (clu name : Nat) (n : Name) : TileData :=
  let len := n.shape.bytes
  if n.tier = 2 then (if (s.goodCopies clu name).isEmpty then .bad Cause.sramParityTile 0 else .ok n.value)
  else if n.tier = 3 then
    let core := n.base / 2 ^ 20
    let off := n.base % 2 ^ 20
    let base := match s.group? clu n.owner with | some g => g.ranges.getD core 0 | none => 0
    match (s.core core).badLocal off len with
    | some a => .bad Cause.eccUncorrectedMem (a - base + 0xFFFFFF * 2 ^ 32)
    | none => .ok (s.lread core off len)
  else if n.tier = 5 && n.base ≠ 0 then
    if s.mgmt.badBursts.any fun b => decide (b < n.base + len) && decide (n.base < b + 64) then
      .bad Cause.eccUncorrectedMem n.base
    else .ok (readRun s.homeByte n.base len)
  else .ok n.value

/-- Extents of a core's local store that queue storage and pool values take. -/
def State.poolTaken (s : State) (clu core : Nat) : List (Nat × Nat) :=
  ((s.clu clu).queues.filterMap fun q =>
    if 12 * clu + q.2.core = core then some (q.2.base, q.2.depth * entryBytes q.2.kind) else none) ++
  (s.clu clu).names.filterMap fun n =>
    if n.2.tier = 3 && n.2.base / 2 ^ 20 = core then some (n.2.base % 2 ^ 20, n.2.shape.bytes) else none

/-- Extents of the spill areas that tile values take, those of saved contexts included. -/
def State.spillTaken (s : State) : List (Nat × Nat) :=
  (s.clus.flatMap (·.2.names) ++ s.images.flatMap (·.2.names)).filterMap fun n =>
    if n.2.tier = 5 && n.2.base ≠ 0 then some (n.2.base, n.2.shape.bytes) else none

/-- The part of a context's spill area that tiles may use: what lies behind the reserve of 20 MiB for each cluster (R98). -/
def State.spillRange (s : State) (ctx : Nat) : Nat × Nat :=
  let e := (s.ctx ctx).entry.toNat
  (bits e 64 52 + Config.spillReserve * (s.clustersOf ctx).length, bits e 64 52 + bits e 128 32 * 65536)

/-- The places with room for n bytes of a group's value, as tier and base: its ranges of the local store, L2, and the spill
area. Where in a range is the device's choice (log 37). -/
def State.tilePlaces (s : State) (clu owner n k : Nat) : List (Nat × Nat) :=
  match s.group? clu owner with
  | none => []
  | some g =>
    let pool := g.ranges.filterMap fun r =>
      (placeIn (s.poolTaken clu r.1) (r.2 + 128 * (Config.freeChoice k % (g.len / 128 + 1))) r.2 (r.2 + g.len) n).map
        fun a => (3, 2 ^ 20 * r.1 + a)
    let l2 := if s.tileL2 (dieOfClu clu) + n ≤ Config.slicesPerDie * Config.sliceLines * 128 then [(4, 0)] else []
    let (lo, hi) := s.spillRange g.ctx
    pool ++ l2 ++ ((placeIn s.spillTaken lo lo hi n).map fun a => (5, a)).toList

/-- Put a value into one of some places, the device's choice: its bytes are written there, and the entry says where. Home and guest
lines give way to a value that takes room in L2 (R94). -/
def State.seat (s : State) (clu name : Nat) (n : Name) (img : List Byte) (places : List (Nat × Nat)) (k : Nat) : Option State :=
  match places[Config.freeChoice k % places.length]? with
  | none => none
  | some (tier, base) =>
    let s := if tier = 3 then s.lwrite (base / 2 ^ 20) (base % 2 ^ 20) img
      else if tier = 5 then s.homePut (atAddr base img) else s
    let s := s.setName clu name { n with tier := tier, base := base, value := if tier = 4 then img else [] }
    some (if tier = 4 then s.trimDie (dieOfClu clu) else s)

/-- The hardware moves a DEFINED value to another tier (R96, R98): one of those wanted that has room. -/
def State.moveTile (s : State) (clu name : Nat) (wanted : List Nat) : Option State :=
  let n := s.name clu name
  let (k, s) := s.draw
  match s.tileData clu name n with
  | .bad .. => none
  | .ok img =>
    s.seat clu name n img ((s.tilePlaces clu n.owner img.length k).filter fun p => p.1 ≠ n.tier && wanted.contains p.1) k

end Sys2Proof.Machine
end

