-- ==== Sys2Proof/Machine/Save.lean ====
section
/-!
DEFINITION. Sys2Proof/Machine/Save.lean: saving a team (R64, R273, R282), saving a context's state on a cluster and
restoring it (R408–R410), and the choice of the context that holds a cluster (R205). The image is kept as an object of
the state; the bytes that it takes of the spill area's reserve are free values, since it has no stated layout (log 21). A restore
reads them, and where they are no longer what the save wrote the restored registers and local bytes are free values.
-/
namespace Sys2Proof.Machine

/-! ## One team (R64) -/

/-- What a saved team's instructions leave held (R64): an SVC, a CARD or CARDW, and engine transfers. -/
def Outst.held (o : Outst) : Bool :=
  match o.cond with
  | .svc _ => true
  | .card _ => true
  | .tileDef .. => true
  | .tileStore _ => true
  | _ => false

/-- An outstanding instruction whose stores are not all performed. -/
def State.storing (s : State) (o : Outst) : Bool := match o.cond with | .stores ids => ids.any s.writeOpen | _ => false

/-- Every instruction in flight that can complete does (R64): a FILLING tag lands (R67), results that are due are written. -/
def State.settleTeam (s : State) (tid : Nat) : State :=
  match s.team? tid with
  | none => s
  | some t =>
    let s := s.drainOwn t.core none
    s.modTeam tid fun t =>
      { t with tags := t.tags.map fun (k, g) => (k, { g with landed := true }),
               outst := t.outst.filter fun o => o.held || s.storing o,
               status := t.landing.foldl (fun b f => b ||| f.2) t.status, landing := [] }

/-- Whether every instruction of a team has completed or is held (R64): no store or atomic of it is still on its way, and no
path is inside one. -/
def State.settled (s : State) (tid : Nat) : Bool :=
  match s.team? tid with
  | none => true
  | some t => !(t.outst.any s.storing) && !(t.writes.any s.writeOpen) && !s.atomicsOpen t && t.rests.isEmpty

/-- A settled team is saved off-core as hard pre-emption saves it (R273, R408): open regions are aborted without delivery
(R189), and its slot and register blocks are free. -/
def State.saveTeam (s : State) (tid : Nat) : State :=
  let s := s.abortTeam tid 0 0 false none
  s.modTeam tid fun t => { t with place := .saved, leaving := false }

/-- A drain save (R273): at once where the team is settled; otherwise it issues nothing more, and is saved when it is. -/
def State.drainSave (s : State) (tid : Nat) : State :=
  let s := s.settleTeam tid
  if s.settled tid then s.saveTeam tid else s.modTeam tid fun t => { t with stopped := true, leaving := true }

/-! ## The slice (R204, R205) -/

def State.edfEntry? (s : State) (clu i : Nat) : Option Edf := (s.clu clu).edf.get? i
def State.modEdf (s : State) (clu i : Nat) (f : Edf → Edf) : State :=
  s.modClu clu fun c => { c with edf := c.edf.modify i f }

/-- Teams of a context on a cluster with a given place. -/
def State.teamsAt (s : State) (ctx clu : Nat) (p : Place) : List Nat :=
  (s.teams.filter fun x => x.2.ctx = ctx && cluOfCore x.2.core = clu && !x.2.fw && x.2.place = p).map (·.1)
/-- Whether a team of the context is resident on the cluster. -/
def State.anyResident (s : State) (ctx clu : Nat) : Bool := !(s.teamsAt ctx clu .resident).isEmpty

/-- WORK (R204): a resident, saved or forming team, or a record queued for the cluster. -/
def State.edfWork (s : State) (ctx clu : Nat) : Bool :=
  (s.teams.any fun x => x.2.ctx = ctx && cluOfCore x.2.core = clu && !x.2.fw && x.2.place ≠ .ended) ||
    (s.image? ctx clu).isSome ||
    (s.forming.any fun p => p.2.clu = clu && p.2.launch.ctx = ctx) ||
    ((s.clu clu).waiting.any fun l => decide (l.ctx = ctx))

/-- The entry a free cluster goes to: valid, with work and budget, the earliest deadline, the lower index on a tie. -/
def State.edfChoice (s : State) (clu : Nat) : Option Nat :=
  ((s.clu clu).edf.foldl (fun (best : Option (Nat × Nat)) p =>
    if p.2.valid && decide (p.2.remain > 0) && s.edfWork p.2.ctx clu &&
        (match best with | none => true | some (d, _) => decide (p.2.deadline < d)) then some (p.2.deadline, p.1)
    else best) none).map (·.2)

/-- REMAIN now (R205): it falls with device time while RUN is 1. -/
def State.edfRemain (s : State) (clu i : Nat) : Nat :=
  match s.edfEntry? clu i with
  | none => 0
  | some e => if (s.clu clu).running = some i then e.remain - (s.ns - (s.clu clu).runSince) else e.remain
/-- Store the running entry's REMAIN as it stands. -/
def State.settleRemain (s : State) (clu : Nat) : State :=
  match (s.clu clu).running with
  | none => s
  | some i =>
    let r := s.edfRemain clu i
    (s.modEdf clu i fun e => { e with remain := r }).modClu clu fun c => { c with runSince := s.ns }

/-- A free cluster is given to a context (R205). One that has an image first gets a class-4 job (R410). -/
def State.chooseSlice (s : State) (clu : Nat) : State :=
  if (s.clu clu).running.isSome then s
  else match s.edfChoice clu with
    | none => s
    | some i =>
      let s := s.modClu clu fun c => { c with running := some i, runSince := s.ns }
      match s.edfEntry? clu i with
      | none => s
      | some e =>
        let s := (s.postOnce (.stopRequest clu)).postOnce (.sliceEnd clu)
        if (s.image? e.ctx clu).isSome then
          s.postJob (dieOfClu clu) 4 (BitVec.ofNat 32 e.ctx) (BitVec.ofNat 32 clu) 0 0 0 none
        else s.post (.groupAdmission clu)

/-- PROGk of a context's EDF entry on a cluster (R211). -/
def State.progress (s : State) (clu ctx k : Nat) : Nat :=
  match (s.clu clu).edf.find? fun p => p.2.valid && p.2.ctx = ctx with
  | some (_, e) => (e.prog.getD k 0).toNat
  | none => 0

/-- Growth of the trial's counter in the phase that runs (R211, R213). -/
def State.trialGrowth (s : State) (clu : Nat) (r : Trial) : Nat :=
  (s.progress clu r.ctx r.k + 2 ^ 32 - r.base) % 2 ^ 32

/-- A trial ends (R213): its record is written as a release, where its address translates, and the paths owe no more. -/
def State.finishTrial (s : State) (clu : Nat) (abandoned : Bool) : State :=
  match (s.clu clu).trial with
  | none => s
  | some r =>
    let g := s.trialGrowth clu r
    let now := s.ns - r.began
    let (e0, p0, e1, p1) := if r.delay then (r.e0, r.p0, now, g) else (now, g, 0, 0)
    let bytes := natLe 8 e0 ++ natLe 8 p0 ++ natLe 8 e1 ++ natLe 8 p1 ++ natLe 8 r.n ++ natLe 1 r.d ++ natLe 1 r.k ++
      natLe 1 (if abandoned then 1 else 0) ++ natLe 21 0
    let s := s.modClu clu fun c => { c with trial := none }
    let s := { s with teams := s.teams.map fun (p : Nat × Team) =>
      (p.1, if cluOfCore p.2.core = clu then
        { p.2 with paths := p.2.paths.map fun (q : Nat × Path) => (q.1, { q.2 with debt := 0 }) } else p.2) }
    match s.settleAll.engineXlat clu r.ctx r.record true with
    | (.ok pa _, s) => (s.engineWrite (dieOfClu clu) r.ctx (atAddr pa bytes)).2
    | (.fault _ _, s) => s

/-- RUN becomes 0 and the cluster is free: the stop request is withdrawn, and gather windows run again (R406). The time
past the budget's end is charged (R205, R408). -/
def State.endSlice (s : State) (clu : Nat) : State :=
  match (s.clu clu).running with
  | none => s
  | some i =>
    let s := s.settleRemain clu
    let c := s.clu clu
    let late := match c.overrun with | some t => s.ns - t | none => 0
    let ctx := (s.runningCtx clu).getD 64
    let s := match c.trial with | some r => if r.ctx = ctx then s.finishTrial clu true else s | none => s
    let s := if c.stopReq then
        { s with forming := s.forming.map fun (k, f) =>
            (k, if f.clu = clu && f.launch.ctx = ctx then { f with opened := s.ns - f.opened } else f) }
      else s
    let s := s.modEdf clu i fun e => { e with carry := e.carry + late }
    s.modClu clu fun c => { c with running := none, stopReq := false, saveTimer := none, overrun := none }

/-- GROUP_ADMISSION (R28, R403, R404): a free cluster is first given to a context (R205); then one whole group is admitted,
if its context holds the cluster, no stop request is pending, no image of the context waits to be restored (R410) and its
resources are free; the cluster then tries the next. -/
def execGroupAdmission (clu : Nat) (s : State) : Host.Outcome State Fault Refusal :=
  event (
    let s := s.chooseSlice clu
    match s.runningCtx clu with
    | none => s
    | some ctx =>
      if (s.clu clu).stopReq || (s.clu clu).saving.contains ctx || (s.image? ctx clu).isSome then s
      else match s.admissible clu ctx (s.clu clu).waiting 0 none with
        | none => s
        | some (i, l, place) =>
          let s := s.modClu clu fun c => { c with waiting := c.waiting.eraseIdx i }
          (s.admitGroup clu l place).post (.groupAdmission clu))

/-! ## A context on a cluster (R408–R410) -/

/-- A card that a team submitted. -/
def Card.ofTeam (k : Card) : Bool := match k.stream with | .team _ => true | _ => false

/-- The local-store bytes of a group's ranges, by core and base. -/
def State.rangeBytes (s : State) (g : Group) : List (Nat × Nat × Tab Byte) :=
  g.ranges.map fun r => (r.1, r.2, (s.core r.1).lstore.filter fun p => decide (r.2 ≤ p.1) && decide (p.1 < r.2 + g.len))

/-- Extents of the reserves that saved images and teams off-core by SVC take. -/
def State.reserveTaken (s : State) : List (Nat × Nat) :=
  (s.images.map fun i => (i.2.reserve.1, i.2.reserve.2.length)) ++
  s.teams.map fun t => (t.2.reserve.1, t.2.reserve.2.length)

/-- A save is written to the cluster's part of the context's reserve (R98, R408): how many bytes, which and where among those that no
other save takes is the device's matter (log 21). The address and the bytes. -/
def State.writeReserve (s : State) (ctx clu : Nat) : (Nat × List Byte) × State :=
  let (k, s) := s.draw
  let lo := bits (s.ctx ctx).entry.toNat 64 52 + Config.spillReserve * (s.clustersOf ctx).idxOf clu
  let n := Config.freeChoice k % (Config.spillReserve + 1)
  match placeIn s.reserveTaken lo lo (lo + Config.spillReserve) n with
  | none => ((lo, []), s)
  | some a =>
    let bs := readRun (Config.freeByte k) 0 n
    ((a, bs), s.homePut (atAddr a bs))

/-- A restore reads what a save wrote (R98, R100): whether it still stands there. -/
def State.reserveIntact (s : State) (r : Nat × List Byte) : Bool := decide (readRun s.homeByte r.1 r.2.length = r.2)

/-- A team restored from overwritten bytes (R98): the spec does not say what of it they held, and its registers are free values
(log 21). -/
def Team.spoilt (t : Team) (k : Nat) : Team :=
  let word (n : Nat) : Word := freeWord k n
  let row (n : Nat) (f : Nat → Word) : Tab Word := (List.range n).filterMap fun r => if f r = 0 then none else some (r, f r)
  { t with
    v := (List.range t.vcount).flatMap fun r => (List.range t.lanes).filterMap fun l =>
      if word (1024 * r + l) = 0 then none else some (vKey r l, word (1024 * r + l)),
    s := row t.scount fun r => word (2 ^ 17 + r), h := row 8 fun r => word (2 ^ 18 + r) }

/-- What is restored of a team, from the bytes that its save wrote. -/
def State.unspoil (s : State) (r : Nat × List Byte) (tids : List Nat) : State :=
  if s.reserveIntact r then s
  else
    let (k, s) := s.draw
    tids.foldl (fun s i => s.modTeam i fun t => t.spoilt (k + i)) s

/-- Where a restored value stands (R409): where it stood in the pool, whose bytes are the range's, or in the spill area; another is put
into L2 or the spill area. None where neither has room. -/
def State.reseat (s : State) (clu name : Nat) : Option State :=
  let n := s.name clu name
  if n.st ≠ .defined || n.tier = 3 || (n.tier = 5 && n.base ≠ 0) then some s
  else
    let (k, s) := s.draw
    s.seat clu name n n.value ((s.tilePlaces clu n.owner n.value.length k).filter fun p => decide (p.1 ≥ 4)) k

/-- The queues, names and groups of an image stand in the cluster again, its values in tiers with room (R410). -/
def State.reseatAll (s : State) (clu : Nat) (i : Image) : Option State :=
  let s := s.modClu clu fun c =>
    { c with queues := i.queues.foldl (fun t p => t.put p.1 p.2) c.queues,
             qserial := i.queues.foldl (fun t p => t.put p.1 (t.getD p.1 0 + 1)) c.qserial,
             names := i.names.foldl (fun t p => t.put p.1 p.2) c.names,
             groups := i.groups.foldl (fun t p => t.put p.1 p.2) c.groups }
  i.names.foldl (fun o p => o.bind fun s => s.reseat clu p.1) (some s)

/-- The first part of a save (R408): nothing of the context issues on the cluster any more, and what can complete does;
whether all has. -/
def State.settleContext (s : State) (ctx clu : Nat) : Bool × State :=
  let live := s.teamsAt ctx clu .resident
  let s := live.foldl (fun s i => (s.settleTeam i).modTeam i fun t => { t with stopped := true }) s
  (live.all s.settled, s)

/-- A task of a context on a cluster. -/
def Task.ofCtx (k : Task) (ctx clu : Nat) : Bool := decide (k.ctx = ctx) && decide (k.clu = clu)

/-- The records in a cluster's task queue (R364, R365): a saved context's left it with the save. -/
def State.taskQueue (s : State) (clu : Nat) : Tab Task :=
  s.tasks.filter fun p => decide (p.2.clu = clu) && (s.image? p.2.ctx clu).isNone

/-- The time that a forming team's gather window has run (R35, R406). -/
def State.windowTime (s : State) (f : Forming) : Nat :=
  if s.formingHeld f.clu f.launch.ctx then f.opened else s.ns - f.opened

/-- Save everything that a context holds on a cluster, its teams settled: step 2 of R408. Its tasks, cards and transfers pause, those
of ended teams and of teams held off-core by SVC among them. DESIGN CHOICE (log 21): the name numbers of a saved context stay off the
cluster's free list while it is switched out, so that its handles stay valid (R180), though its groups' windows no longer count in
admission. -/
def State.saveContext (s : State) (ctx clu : Nat) : State :=
  let live := s.teamsAt ctx clu .resident
  -- tasks and cards pause at their boundaries, a cancelled task stops there
  let s := ((s.tasks.filter fun p => p.2.ofCtx ctx clu && p.2.st = .cancelled).map (·.1)).foldl State.stopTask s
  let s := { s with
    tasks := s.tasks.map fun (k, x) => (k, match x.st with
      | .running _ => if x.ofCtx ctx clu then { x with st := .paused } else x
      | .ready => if x.ofCtx ctx clu then { x with st := .paused } else x
      | _ => x),
    cards := s.cards.map fun (p : Nat × Card) =>
      (p.1, if p.2.ofTeam && p.2.ctx = ctx && p.2.clu = clu && p.2.st = CardSt.running then { p.2 with st := CardSt.paused } else p.2) }
  let s := live.foldl State.saveTeam s
  let s := (List.range 12).foldl (fun s c => s.writeBackCore (12 * clu + c)) s
  let c := s.clu clu
  let groups := c.groups.filter fun p => p.2.ctx = ctx
  let owned (o : Nat) : Bool := groups.any fun p => decide (p.1 = o)
  let (reserve, s) := s.writeReserve ctx clu
  let img : Image :=
    { reserve := reserve, teams := s.teamsAt ctx clu .saved, queues := c.queues.filter fun p => owned p.2.owner,
      serials := (c.queues.filter fun p => owned p.2.owner).map fun p => (p.1, c.qserial.getD p.1 0),
      names := c.names.filter fun p => p.2.st ≠ .free && owned p.2.owner, groups := groups,
      waiting := c.waiting.filter fun l => decide (l.ctx = ctx),
      forming := (s.forming.filter fun p => p.2.clu = clu && p.2.launch.ctx = ctx).map fun p => { p.2 with opened := s.windowTime p.2 },
      locals := groups.flatMap fun p => s.rangeBytes p.2 }
  let s := img.names.foldl (fun s p => s.unstage clu p.1) s
  let s := s.modClu clu fun c =>
    { c with queues := c.queues.filter fun p => !owned p.2.owner,
             names := c.names.filter fun p => !(p.2.st ≠ .free && owned p.2.owner),
             groups := c.groups.filter fun p => p.2.ctx ≠ ctx,
             waiting := c.waiting.filter fun l => decide (l.ctx ≠ ctx) }
  { s with forming := s.forming.filter fun p => !(p.2.clu = clu && p.2.launch.ctx = ctx),
           images := s.images.put (64 * ctx + clu) img }

/-- A team is placed on its core again in a free slot, stopped while a call of its own is not sent; its paths count their waiting time afresh, and every
distance as elapsed (R242). -/
def State.placeTeam (s : State) (tid : Nat) : State :=
  match s.team? tid with
  | none => s
  | some t =>
    let slot := (s.freeSlots t.core).headD 0
    let calls := (s.ctx t.ctx).calls
    s.modTeam tid fun t =>
      { t with place := .resident, slot := slot,
               reserve := (0, []),
               stopped := t.outst.any fun o => match o.cond with | .svc call => (calls.get? call).isSome | _ => false, paths := t.paths.map fun (k, p) => (k, { p with since := s.cycle, lastPass := 0 }) }

/-- Whether everything that an image takes of a cluster is free: its queue numbers and ranges, slots and blocks for its teams and
register pools (R403, R410), its places in the task queue and room for its tile values. -/
def State.restorable (s : State) (ctx clu : Nat) (i : Image) : Bool :=
  let teams := i.teams.filterMap s.team?
  decide ((s.taskQueue clu).length + (s.tasks.filter fun p => p.2.ofCtx ctx clu).length ≤ 256) &&
  (s.reseatAll clu i).isSome &&
  (i.queues.all fun q => ((s.clu clu).queues.get? q.1).isNone) &&
  (i.groups.all fun g => g.2.ranges.all fun r => (s.clu clu).groups.all fun h =>
    match h.2.ranges.get? r.1 with
    | some b => decide (r.2 + g.2.len ≤ b) || decide (b + h.2.len ≤ r.2)
    | none => true) &&
  (List.range 12).all fun k =>
    let mine := teams.filter fun t => t.core = 12 * clu + k
    decide (mine.length ≤ (s.freeSlots (12 * clu + k)).length) &&
      decide (mine.foldl (fun n t => n + t.vcount / 8 * (t.lanes / 32)) 0 +
        i.groups.foldl (fun n g => n + g.2.blocks.getD (12 * clu + k) 0) 0 ≤ s.freeBlocks (12 * clu + k))

/-- A restored path that waits at a queue which has not changed since waits on: its queue's wake count is the one that now
stands for the number; one whose queue had changed is woken (R152). -/
def Path.rebind (clu : Nat) (old new : Nat → Nat) (p : Path) : Path :=
  match p.st with
  | .parked (.queue c q n) => if c = clu && n = old q then { p with st := .parked (.queue c q (new q)) } else p
  | _ => p

/-- Restore a saved image (R410): queues, names, groups, local bytes, forming teams and waiting launches, then the
teams; paused tasks, cards and transfers go on. Gather windows go on with the time they had left. DESIGN CHOICE (log 21): records for an
ENTRY that reached the cluster while a forming team for it waited in the image have started a second forming team, and both stay. -/
def State.restoreContext (s : State) (ctx clu : Nat) : State :=
  match (s.image? ctx clu).bind fun i =>
      ({ s with images := s.images.del (64 * ctx + clu) }.reseatAll clu i).map fun s => (i, s) with
  | none => s
  | some (i, s) =>
    let intact := s.reserveIntact i.reserve
    let s := i.locals.foldl (fun s l =>
      s.modCore l.1 fun c => { c with
        lstore := l.2.2.foldl (fun t p => t.put p.1 p.2)
          (c.lstore.filter fun p => !(decide (l.2.1 ≤ p.1) &&
            decide (p.1 < l.2.1 + ((i.groups.find? fun g => g.2.ranges.get? l.1 = some l.2.1).map (·.2.len)).getD 0))) }) s
    -- what an overwritten reserve no longer holds
    let s := if intact then s else i.groups.foldl (fun s g => g.2.ranges.foldl (fun s r => s.giveLocal r.1 r.2 g.2.len []) s) s
    let s := s.unspoil i.reserve i.teams
    let s := i.forming.foldl (fun s f =>
      let (id, s) := s.serial
      ({ s with forming := s.forming.put id { f with opened := if s.formingHeld clu ctx then f.opened else s.ns - f.opened } }).post
        (.gatherWindowExpiry id)) s
    let later := (s.clu clu).waiting
    let s := s.modClu clu fun c => { c with waiting := [] }
    let s := (i.waiting ++ later).foldl (fun s l => s.enqueueLaunch clu l) s
    let qs := (s.clu clu).qserial
    let s := i.teams.foldl (fun s tid => (s.modTeam tid fun t =>
      { t with paths := t.paths.map fun (k, p) =>
          (k, p.rebind clu (fun q => ((i.serials.find? fun x => x.1 = q).map (·.2)).getD 0) fun q => qs.getD q 0) }).placeTeam tid) s
    let s := { s with
      tasks := s.tasks.map fun (p : Nat × Task) =>
        (p.1, if p.2.st = TaskSt.paused && p.2.ofCtx ctx clu then { p.2 with st := TaskSt.ready } else p.2),
      cards := s.cards.map fun (p : Nat × Card) =>
        (p.1, if p.2.ofTeam && p.2.ctx = ctx && p.2.clu = clu && p.2.st = CardSt.paused then { p.2 with st := CardSt.running } else p.2) }
    let s := (s.tasks.filter fun p => p.2.st = .ready && p.2.ofCtx ctx clu).foldl
      (fun s p => s.post (.tileTaskDispatch p.1 (12 * clu + p.2.core))) s
    let s := (s.cards.filter fun p => p.2.ofTeam && p.2.ctx = ctx && p.2.clu = clu).foldl (fun s p =>
      match p.2.st with
      | .running | .failing _ => s.post (.cardTransfer p.1)
      | .waiting => s.post (.cardStart p.1)
      | .ending _ => s.post (.cardComplete p.1)
      | _ => s) s
    let s := (i.names.filter fun p => match p.2.defn with | some (.load ..) => true | some (.image ..) => true | _ => false).foldl
      (fun s p => s.post (.tileDefinitionComplete clu p.1)) s
    let s := i.names.foldl (fun s p => match p.2.defn with
      | some (.failed cause) => s.post (.tileDefinitionFail clu p.1 cause)
      | _ => s) s
    let s := (s.tstores.filter fun p => decide (p.2.ctx = ctx) && decide (p.2.clu = clu)).foldl
      (fun s p => s.post (.tileReadComplete clu p.2.name p.1)) s
    s.post (.groupAdmission clu)

/-! ## Service calls (R161, R282) -/

/-- The request entry of one lane (R161). -/
def requestEntry (t : Team) (call number seq lane count : Nat) : BitVec 512 :=
  BitVec.ofNat 512 (seq % 2 ^ 64 + call % 2 ^ 32 * 2 ^ 64 + lane * 2 ^ 96 + number * 2 ^ 112 +
    (t.workIds.getD lane 0).toNat * 2 ^ 128 + count * 2 ^ 192 +
    (List.range 8).foldl (fun a k => a + (t.vreg k lane).toNat * 2 ^ (256 + 32 * k)) 0)

/-- Where a context's two service-call rings lie (R141): in a part of host memory of the context's own, the request ring in its lower
half and the reply ring in its upper one (log 12). -/
def ringBase (ctx : Nat) : Nat := 0x1000000000000 + 2 ^ 41 * (ctx % 64)
/-- The address of entry n of a context's reply ring (R162). -/
def replySlot (ctx n : Nat) : Nat := ringBase ctx + 2 ^ 40 + Config.replyRing ctx % 2 ^ 30 * 16 + 16 * (n % 65536)

/-- Append a call's entries, if the ring has room for all of them: one after another in the context's ring in host memory
(R141, R161). `requests` keeps those that the host has not freed. DESIGN CHOICE (log 12): a call whose entries fit goes at once, past
an earlier one that still waits for room. -/
def State.sendCall (s : State) (ctx call : Nat) : State :=
  let c := s.ctx ctx
  match c.calls.get? call with
  | none => s
  | some k =>
    let n := k.lanes.length
    match s.team? k.team with
    | none => s
    | some t =>
      if k.sent || decide (n > c.room) then s
      else
        let es := (k.lanes.zip (List.range n)).map fun p => requestEntry t call k.number (c.nextSeq + p.2) p.1 n
        let ring := ringBase ctx + Config.requestRing ctx % 2 ^ 30 * 64
        let s := (es.zip (List.range n)).foldl (fun s e =>
          s.homePut (atAddr (ring + 64 * ((c.nextSeq + e.2 - 1) % 1024)) (natLe 64 e.1.toNat))) s
        s.setCtx ctx { c with
          requests := c.requests ++ es, nextSeq := c.nextSeq + n, room := c.room - n,
          calls := c.calls.put call { k with sent := true } }

/-- The number of a context's next service call: one that none of its outstanding calls has (R161), of 26 bits, so that with the
context's number it fits the 32 bits of CALL. -/
def Context.freeCall (x : Context) : Nat :=
  ((List.range (x.calls.length + 1)).map fun k => (x.nextCall + k) % 2 ^ 26).find? (fun n =>
    !(x.calls.any fun c => decide (c.1 / 64 = n))) |>.getD 0

/-- Steps 1 to 3 of R282: once every instruction of the team has completed or is held, its requests are appended and it leaves
the core; until then nothing of it issues. -/
def State.svcSave (s : State) (tid call : Nat) : State :=
  let s := s.settleTeam tid
  match s.team? tid with
  | none => s
  | some t =>
    if s.settled tid then
      let (reserve, s) := (s.sendCall t.ctx call).writeReserve t.ctx (cluOfCore t.core)
      (s.modTeam tid fun t => { t with place := .savedBySvc call, stopped := false, reserve := reserve }).post
        (.groupAdmission (cluOfCore t.core))
    else s.modTeam tid fun t => { t with stopped := true }

end Sys2Proof.Machine
end

