-- ==== Sys2Proof/Machine/Control.lean ====
section
/-!
DEFINITION. Sys2Proof/Machine/Control.lean: the control instructions (R262–R286): mode, branches and calls with their
splits (R39, R40), joins, exits, barriers, register pools, work creation, service calls, traps and their return.
-/
namespace Sys2Proof.Machine

/-- NOP, the empty slot word (R239, R262): nothing issues and no cycle passes; the path goes on at the next slot. -/
def execNop (s : State) : Host.Outcome State Fault Refusal :=
  match s.focus with
  | none => .fault .noIssuer
  | some f =>
    match s.team? f.team with
    | none => .fault .noIssuer
    | some t =>
      match t.paths.get? f.path with
      | none => .fault .noIssuer
      | some _ => .next { s.modPath f.team f.path fun p => { p with pc := f.addr + 4, entered := p.entered && f.addr % 16 ≠ 12 } with focus := none }

/-- ILL, an unassigned opcode (R245, R247 step 1): ILLEGAL_OPCODE with the word in h1. -/
def execIll (s : State) : Host.Outcome State Fault Refusal :=
  issue .ill (fun c _ => c.trap Cause.illegalOpcode (wordOf .ill)) s

/-- MODE (R263, R58). -/
def execMode (i : BitVec 16) (s : State) : Host.Outcome State Fault Refusal :=
  issue (.mode i) (fun c s =>
    if modeValid i then .done (c.modTeam s fun t => { t with mode := i }) else c.trap Cause.modeInvalid (wordOf (.mode i))) s

/-! ## The branch class (R39, R40, R264, R265) -/

/-- The lowest path number that names no path and owns no open record. -/
def Team.freshPath (t : Team) : Nat :=
  ((List.range 9).find? fun k => (t.paths.get? k).isNone && !(t.recs.any fun r => decide (r.2.owner = k))).getD 8

/-- Open a split record and put the two sides where they go: `stay` on the path that executes the branch, the other side
on a new path, which tests its bundle's wait mask before its first slot there (R63). A fragment's own h-bank window is closed. -/
def Team.split (t : Team) (pid rid fid stop : Nat) (p : Path) (stay away : LaneMask × Nat × Bool) : Team :=
  let chain := rid :: p.chain
  let here : Path := { p with mask := stay.1, pc := stay.2.1, entered := stay.2.2, chain := chain }
  let frag : Path := { p with mask := away.1, pc := away.2.1, entered := false, chain := chain, prog := 0,
                              lastPass := stop, since := stop, heldFrom := none, st := .ready, yielded := false, win := .closed, bpSkip := none,
                              wpSkip := none, hitAt := none }
  { t with recs := t.recs.put rid ⟨p.chain.length, pid⟩, paths := (t.paths.put pid here).put fid frag }

/-- A branch by the lanes of `taking` to `target` (R264). -/
def Ctx.branch (c : Ctx) (s : State) (taking : LaneMask) (target : Nat) : Res :=
  let fall := c.p.mask &&& ~~~taking
  if taking = 0 then .done (s.traceBm c.t c.pid false false c.p.mask)
  else if fall ≠ 0 && (decide (c.t.recs.length ≥ 8) || c.p.win = .trap) then c.trap Cause.joinOverflow 0
  else if target % 16 ≠ 0 then .trap ⟨Cause.align, 0, target, none, c.f.addr⟩
  else if target ≥ 2 ^ 56 then .trap ⟨Cause.addrNoncanon, 0, target, none, c.f.addr⟩
  else if fall = 0 then
    .jump ((c.modPath s fun p => { p with pc := target, entered := false }).traceBm c.t c.pid true false c.p.mask)
  else
    let next := c.f.addr + 4
    let takenSide := (taking, target, false)
    let fallSide := (fall, next, decide (c.f.addr % 16 ≠ 12))
    let keepTaken := decide ((wordsOf taking).length > (wordsOf fall).length)
    let stay := if keepTaken then takenSide else fallSide
    let away := if keepTaken then fallSide else takenSide
    let (rid, s) := s.serial
    let fid := c.t.freshPath
    let s := c.modTeam s fun t => t.split c.pid rid fid (c.stop s) c.p stay away
    let s := s.pmc c.core 0x0E 1 c.t.ctx
    let s := s.traceBm c.t c.pid keepTaken false stay.1
    let s := s.traceBm c.t fid (!keepTaken) true away.1
    .jump (s.traceSync c.tid c.t fid (slotAddr away.2.1) away.1)

/-- The target of a relative branch: its bundle's address plus 16 times the offset (R266). -/
def Ctx.relative (c : Ctx) (off : Int) : Nat := (((c.bundle : Int) + 16 * off) % 2 ^ 64).toNat

/-- The target of a register branch: the value of the lowest taking lane (R267). -/
def Ctx.targetOf (c : Ctx) (x : Code) (taking : LaneMask) : Nat := (c.dword false x c.popB ((lanesOf taking).headD 0)).toNat

/-- BRA (R266). -/
def execBra (p : BitVec 4) (i : BitVec 16) (s : State) : Host.Outcome State Fault Refusal :=
  issue (.bra p i) (fun c s => c.branch s (c.active &&& c.t.preg p.toNat) (c.relative i.toInt)) s
/-- BRAN (R266). -/
def execBran (p : BitVec 4) (i : BitVec 16) (s : State) : Host.Outcome State Fault Refusal :=
  issue (.bran p i) (fun c s => c.branch s (c.active &&& ~~~(c.t.preg p.toNat)) (c.relative i.toInt)) s
/-- BRX (R267). -/
def execBrx (p : BitVec 4) (x : BitVec 8) (s : State) : Host.Outcome State Fault Refusal :=
  issue (.brx p x) (fun c s =>
    let taking := c.active &&& c.t.preg p.toNat
    c.branch s taking (c.targetOf x taking)) s
/-- The link of a call, in every active lane (R268). -/
def Ctx.link (c : Ctx) (s : State) (d : Code) : State :=
  c.modTeam s fun t => t.putReg c.lanes d true fun _ => BitVec.ofNat 64 (c.bundle + 16)
/-- CALL (R268). -/
def execCall (i : BitVec 24) (s : State) : Host.Outcome State Fault Refusal :=
  issue (.call i) (fun c s => c.branch (c.link s 12) c.active (c.relative i.toInt)) s
/-- CALLX (R268). -/
def execCallx (d x : BitVec 8) (s : State) : Host.Outcome State Fault Refusal :=
  issue (.callx d x) (fun c s => c.branch (c.link s d) c.active (c.targetOf x c.active)) s
/-- RET (R269). -/
def execRet (x : BitVec 8) (s : State) : Host.Outcome State Fault Refusal :=
  issue (.ret x) (fun c s => c.branch s c.active (c.targetOf x c.active)) s
/-- LOOP (R270). -/
def execLoop (r : BitVec 5) (i : BitVec 16) (s : State) : Host.Outcome State Fault Refusal :=
  issue (.loop r i) (fun c s =>
    if !c.acts then c.branch s 0 0
    else
      let n := c.s1 r - 1
      c.branch (c.modTeam s fun t => t.setS r.toNat n) (if n = 0 then 0 else c.active) (c.relative i.toInt)) s

/-! ## Paths (R41, R271–R274) -/

/-- A path notes what it needs when the wait it enters ends: the next slot, the SETF field and whether it then gives way. -/
def Ctx.waitHere (c : Ctx) (s : State) : State :=
  c.modPath s fun p => { p with waitPc := c.f.addr + 4, waitSetf := c.f.setf,
                                waitYield := c.f.yieldBit && (c.f.last || c.f.addr % 16 = 12) }

/-- JOIN (R41, R271): the record that encloses the path at index j; the path waits until every path inside it has arrived, and
then for room in the flag counts that their JOINs raise (R63). -/
def execJoin (j : BitVec 3) (s : State) : Host.Outcome State Fault Refusal :=
  issue (.join j) (fun c s =>
    match c.p.chain.reverse[j.toNat]? with
    | none => .done s
    | some rid =>
      let (n, s) := if c.p.st = .parked (.join rid) then (c.p.prog, s) else s.serial
      let s := c.modPath (c.waitHere s) fun p => { p with st := .parked (.join rid), prog := n }
      let merged := s.joinPaths c.tid (some c.pid)
      let open_ := match merged.team? c.tid with | some t => (t.recs.get? rid).isSome | none => false
      if open_ then .park s (.join rid) else .jump merged) s

/-- EXIT (R42, R272): it closes the path's fallback window, whether or not lanes are left (R54). -/
def execExit (s : State) : Host.Outcome State Fault Refusal :=
  issue .exit (fun c s =>
    if !c.acts then .done s
    else
      let s := (c.modPath s fun p => { p with win := if p.win = .fallback then .closed else p.win }).removeLanes c.tid c.active true
      if c.active = c.p.mask then .jump s else .done s) s

/-- A stop request is pending for a team (R406). -/
def State.stopPending (s : State) (t : Team) : Bool :=
  !t.fw && (s.clu (cluOfCore t.core)).stopReq && s.runningCtx (cluOfCore t.core) = some t.ctx

/-- YIELD (R273): gives way; with a stop request pending, the whole team is saved as a drain save. -/
def execYield (s : State) : Host.Outcome State Fault Refusal :=
  issue .yield (fun c s =>
    let s := c.modPath s fun p => { p with yielded := true }
    if s.stopPending c.t then .final (((c.retire s none false).drainSave c.tid).post (.sliceEnd c.clu)) else .done s) s

/-- SLEEP (R274): parks until device time has advanced by n ns since it was reached. -/
def execSleep (n : BitVec 16) (s : State) : Host.Outcome State Fault Refusal :=
  issue (.sleep n) (fun c s =>
    if n = 0 then .done s
    else if c.p.prog = 0 then
      let until_ := s.ns + n.toNat
      .park ((c.modPath s fun p => { p with prog := until_ }).post (.sleepExpiry c.tid c.pid)) (.sleep until_)
    else if s.ns ≥ c.p.prog then .done s
    else .park s (.sleep c.p.prog)) s

/-! ## Barriers and flags (R134, R275–R278) -/

/-- Wait for the generation that was open: parked while it is, then the departure, an acquire. -/
def Ctx.barWait (c : Ctx) (s : State) (b gen : Nat) : Res :=
  match s.group? c.clu c.t.group with
  | none => .done s
  | some g =>
    if g.gens.getD b 0 = gen then .park (c.modPath s fun p => { p with prog := gen + 1 }) (.barrier b gen)
    else .done (s.applyDie c.die)

/-- An arrival, a release: ARRIVED and COUNT rise, and a full generation completes (R277). -/
def Ctx.barArrive (c : Ctx) (s : State) (b : Nat) (k : State → Nat → Res) : Res :=
  match s.group? c.clu c.t.group with
  | none => .done s
  | some g =>
    let gen := g.gens.getD b 0
    if c.t.arrived.getLsbD b then .park s (.barrier b gen)
    else c.release s c.t.pscope fun s =>
      let s := c.modTeam s fun t => { t with arrived := t.arrived ||| (1#8 <<< b) }
      let s := s.modGroup c.clu c.t.group fun g => { g with counts := Tab.store 0 g.counts b (g.counts.getD b 0 + 1) }
      k (s.barrierTest c.clu c.t.group b) gen

/-- BAR (R277). -/
def execBar (b : BitVec 3) (s : State) : Host.Outcome State Fault Refusal :=
  issue (.bar b) (fun c s =>
    if c.t.fw then c.trap Cause.priv (wordOf (.bar b))
    else if c.p.prog > 0 then c.barWait s b.toNat (c.p.prog - 1)
    else c.barArrive s b.toNat fun s gen => c.barWait s b.toNat gen) s
/-- BARA (R277). -/
def execBara (b : BitVec 3) (s : State) : Host.Outcome State Fault Refusal :=
  issue (.bara b) (fun c s =>
    if c.t.fw then c.trap Cause.priv (wordOf (.bara b))
    else c.barArrive s b.toNat fun s _ => .done s) s
/-- BARW (R277): without an open arrival it departs at once. -/
def execBarw (b : BitVec 3) (s : State) : Host.Outcome State Fault Refusal :=
  issue (.barw b) (fun c s =>
    if c.t.fw then c.trap Cause.priv (wordOf (.barw b))
    else if c.p.prog > 0 then c.barWait s b.toNat (c.p.prog - 1)
    else if c.t.arrived.getLsbD b.toNat then
      c.barWait s b.toNat (match s.group? c.clu c.t.group with | some g => g.gens.getD b.toNat 0 | none => 0)
    else .done (s.applyDie c.die)) s

/-- WAITF (R278). DESIGN CHOICE (log 6): the spec does not say when a parked WAITF reads X; each retry reads it anew, so the value that
stands when the wait ends is the one that counts. -/
def execWaitf (x : BitVec 8) (s : State) : Host.Outcome State Fault Refusal :=
  issue (.waitf x) (fun c s =>
    let m := (c.ub x).extractLsb' 0 12
    if c.t.flags s.cycle &&& m = 0 then .done (s.applyDie c.die) else .park c.s (.flags m)) s

/-! ## Register pools (R27, R73, R279, R280) -/

/-- GIVE (R27, R73): the pool gains the blocks, and serves parked CLAIMs (R280). -/
def execGive (k : BitVec 4) (s : State) : Host.Outcome State Fault Refusal :=
  issue (.give k) (fun c s =>
    let left := c.t.vcount - 8 * k.toNat
    let busy := (c.t.pendingWrites s.cycle).extractLsb' 0 16 >>> (left / 8)
    if c.t.fw || decide (c.t.vcount < 8 * k.toNat + 8) || busy ≠ 0 then c.trap Cause.regBudget 0xFF
    else
      let s := c.modTeam s fun t => { t with vcount := left, v := t.v.filter fun p => decide (p.1 < 1024 * left) }
      let s := s.modGroup c.clu c.t.group fun g =>
        { g with blocks := Tab.store 0 g.blocks c.core (g.blocks.getD c.core 0 + k.toNat * (c.t.lanes / 32)) }
      .done (s.servePool c.clu c.t.group c.core)) s

/-- CLAIM (R27, R280): served whole where no CLAIM is parked and the pool holds enough; otherwise its path parks behind them,
and a GIVE, or an end that moves the queue, serves it. One that was held back by its flag's count (R63) comes here again from the head
of the queue, and the pool then serves those behind it. -/
def execClaim (k : BitVec 4) (s : State) : Host.Outcome State Fault Refusal :=
  issue (.claim k) (fun c s =>
    let need := k.toNat * (c.t.lanes / 32)
    if c.t.fw || decide (c.t.vcount + 8 * k.toNat > 128) then c.trap Cause.regBudget 0xFF
    else match s.group? c.clu c.t.group with
      | none => .done s
      | some g =>
        let mine := (c.tid, c.pid, k.toNat)
        let enough := decide (g.blocks.getD c.core 0 ≥ need)
        let take (s : State) : State := c.modTeam (s.modGroup c.clu c.t.group fun g =>
          { g with blocks := Tab.store 0 g.blocks c.core (g.blocks.getD c.core 0 - need) }) fun t => { t with vcount := t.vcount + 8 * k.toNat }
        if (s.claimsOn g c.core).isEmpty && enough then .done (take s)
        else if c.p.st = .parked .claim then
          if (s.claimsOn g c.core).head? = some mine && enough then
            .done ((take (s.modGroup c.clu c.t.group fun g => { g with claims := g.claims.erase mine })).servePool c.clu c.t.group c.core)
          else .park s .claim
        else .park (c.waitHere (s.modGroup c.clu c.t.group fun g => { g with claims := g.claims ++ [mine] })) .claim) s

/-! ## Work and service calls (R33, R281, R282) -/

/-- The record an active lane builds (R281). -/
def Ctx.laneRecord (c : Ctx) (x : Nat) (l : Nat) : Nat :=
  (List.range 16).foldl (fun a k => a + (c.t.vreg (x + k) l).toNat * 2 ^ (32 * k)) 0

/-- The first lane whose record R32 rejects. -/
def State.badRecord (s : State) (ctx : Nat) : List (Nat × Nat) → Option Nat × State
  | [] => (none, s)
  | (l, r) :: rest => match s.recordOk ctx r with
    | (true, s) => State.badRecord s ctx rest
    | (false, s) => (some l, s)

/-- Whether every ring that some records name has room for all of those that name it (R33). -/
def State.ringsFit (s : State) (ctx : Nat) (rs : List Nat) : Bool :=
  (rs.map recPool).all fun p => decide ((rs.filter fun r => recPool r = p).length ≤ ringRoom (s.poolEntry ctx p))

/-- SPAWN (R281). -/
def execSpawn (x : BitVec 7) (s : State) : Host.Outcome State Fault Refusal :=
  issue (.spawn x) (fun c s =>
    if c.t.fw then c.trap Cause.priv (wordOf (.spawn x))
    else
      let rs := c.lanes.map fun l => (l, c.laneRecord x.toNat l)
      match s.badRecord c.t.ctx rs with
      | (some l, _) => c.trap Cause.workInvalid (BitVec.ofNat 32 l)
      | (none, s) =>
        if s.ringsFit c.t.ctx (rs.map (·.2)) then .done (rs.foldl (fun s r => s.appendRecord c.t.ctx r.2 .code) s)
        else .park s .spawn) s

/-- SVC (R282): the team's instructions complete, its requests are appended, and it leaves the core until a Novman agent brings
it back. A call that finds too little room waits off-core. -/
def execSvc (n : BitVec 8) (s : State) : Host.Outcome State Fault Refusal :=
  issue (.svc n) (fun c s =>
    if c.t.fw then c.trap Cause.priv (wordOf (.svc n))
    else if !c.acts then .done s
    else
      let call := 64 * (s.ctx c.t.ctx).freeCall + c.t.ctx
      let k : SvcCall := { team := c.tid, path := c.pid, number := n.toNat, lanes := c.lanes, sent := false, replies := [],
                           posted := false }
      let s := s.modCtx c.t.ctx fun x => { x with nextCall := (x.freeCall + 1) % 2 ^ 26, calls := x.calls.put call k }
      .later (s.svcSave c.tid call) (.svc call)) s

/-! ## Traps and markers (R283–R286) -/

/-- A software trap: resumed at the next slot (R283). -/
def Ctx.software (c : Ctx) (s : State) (cause : Byte) (h1 : Word) : Res :=
  if c.acts then .trap ⟨cause, h1, 0, some c.active, nextSlotAddr c.f.addr⟩ else .done s

/-- TRAP (R283). -/
def execTrap (n : BitVec 4) (s : State) : Host.Outcome State Fault Refusal :=
  issue (.trap n) (fun c s =>
    c.software s (Cause.trap n) (if c.t.scount = 0 then 0 else (c.t.sreg 0).extractLsb' 0 8 |>.setWidth 32)) s
/-- BRK (R284). -/
def execBrk (i : BitVec 16) (s : State) : Host.Outcome State Fault Refusal :=
  issue (.brk i) (fun c s => c.software s Cause.brk (i.setWidth 32)) s

/-- RFT (R285). The breakpoint or watchpoint passed over is that of the resumed path's next issue (R441, R442). -/
def execRft (s : State) : Host.Outcome State Fault Refusal :=
  issue .rft (fun c s =>
    match c.t.returnFromTrap c.pid with
    | .priv => c.trap Cause.priv (wordOf .rft)
    | .align => .trap ⟨Cause.align, 0, (c.t.hreg 2).toNat + bits (c.t.hreg 3).toNat 0 24 * 2 ^ 32, none, c.f.addr⟩
    | .modeInvalid => c.trap Cause.modeInvalid (wordOf .rft)
    | .resume t =>
      let skip := match t.paths.get? c.pid with | some p => (p.bpSkip, p.wpSkip) | none => (none, none)
      .final (c.modPath (c.retire (s.setTeam c.tid t) none true) fun p => { p with bpSkip := skip.1, wpSkip := skip.2 })) s

/-- PMARK (R211, R286). -/
def execPmark (k : BitVec 4) (s : State) : Host.Outcome State Fault Refusal :=
  issue (.pmark k) (fun c s =>
    match (s.clu c.clu).edf.find? fun p => p.2.valid && p.2.ctx = c.t.ctx && !c.t.fw with
    | none => .done s
    | some (i, _) => .done (s.modEdf c.clu i fun e =>
        { e with prog := Tab.store 0 e.prog k.toNat (e.prog.getD k.toNat 0 + BitVec.ofNat 32 c.lanes.length) })) s

end Sys2Proof.Machine
end

