-- ==== Sys2Proof/Machine/Integer.lean ====
section
/-!
DEFINITION. Sys2Proof/Machine/Integer.lean: the integer and address instructions (R287–R297).
-/
namespace Sys2Proof.Machine

/-- Whether mode.T makes value operands pairs (R259). -/
def Ctx.wide (c : Ctx) : Bool := wideT c.T

/-- D, X, Y of W-bit elements. -/
def Ctx.int3 (c : Ctx) (s : State) (d x y : Code) (f : Nat → Nat → Nat) : Res :=
  c.put s d c.wide fun l => mapElems c.ity (fun a b _ => f a b) (c.b c.wide x l) (c.c c.wide y l) 0
/-- D, X of W-bit elements. -/
def Ctx.int2 (c : Ctx) (s : State) (d x : Code) (f : Nat → Nat) : Res :=
  c.put s d c.wide fun l => mapElems c.ity (fun a _ _ => f a) (c.b c.wide x l) 0 0
/-- D, X, Y with D read as a source. -/
def Ctx.intAcc (c : Ctx) (s : State) (d x y : Code) (f : Nat → Nat → Nat → Nat) : Res :=
  c.put s d c.wide fun l => mapElems c.ity f (c.b c.wide x l) (c.c c.wide y l) (c.a c.wide d l)
/-- D, X, Y on all bits, whatever the elements (R293). -/
def Ctx.bits3 (c : Ctx) (s : State) (d x y : Code) (f : DWord → DWord → DWord) : Res :=
  c.put s d c.wide fun l => f (c.b c.wide x l) (c.c c.wide y l)

/-- X + imm, exact, then sat() (R235, R289). -/
def addImmElem (ty : IntTy) (sat : Bool) (i : BitVec 8) (a : Nat) : Nat :=
  satInt ty.w ty.signed sat (intOf ty.w ty.signed a + i.toInt)

/-- LDI (R287): the immediate sign-extended to 32 bits. -/
def execLdi (d : BitVec 8) (i : BitVec 16) (s : State) : Host.Outcome State Fault Refusal :=
  issue (.ldi d i) (fun c s => c.put s d false fun _ => (i.signExtend 32).setWidth 64) s
/-- LDIH (R287): the immediate in bits [31:16], the low half kept. -/
def execLdih (d : BitVec 8) (i : BitVec 16) (s : State) : Host.Outcome State Fault Refusal :=
  issue (.ldih d i) (fun c s => c.put s d false fun l => (i ++ (c.a false d l).extractLsb' 0 16 : Word).setWidth 64) s
/-- MOV (R288): W bits copied. -/
def execMov (d x : BitVec 8) (s : State) : Host.Outcome State Fault Refusal :=
  issue (.mov d x) (fun c s => c.put s d c.wide fun l => c.b c.wide x l) s
/-- SEL (R288): a lane whose predicate is 0 keeps its D. A port holds no earlier D: what its entry receives for such a
lane is a free value (log 6, log 16). -/
def execSel (d x : BitVec 8) (p : BitVec 4) (s : State) : Host.Outcome State Fault Refusal :=
  issue (.sel d x p) (fun c s =>
    let m := c.t.preg p.toNat
    if Code.isQ d then
      let (k, s) := s.draw
      c.put s d c.wide fun l => if m.getLsbD l then c.b c.wide x l else (freeWord k l).setWidth 64
    else .done (c.modTeam s fun t => t.putReg (c.lanes.filter fun l => m.getLsbD l) d c.wide fun l => c.b c.wide x l)) s

/-- ADD (R289): sat(X + Y). -/
def execAdd (d x y : BitVec 8) (s : State) : Host.Outcome State Fault Refusal :=
  issue (.add d x y) (fun c s => c.int3 s d x y (addElem c.ity c.sat)) s
/-- SUB (R289): sat(X − Y). -/
def execSub (d x y : BitVec 8) (s : State) : Host.Outcome State Fault Refusal :=
  issue (.sub d x y) (fun c s => c.int3 s d x y (subElem c.ity c.sat)) s
/-- ADDI (R289): sat(X + imm), formed exactly from an immediate of −128 to 127 (log 18). -/
def execAddi (d x i : BitVec 8) (s : State) : Host.Outcome State Fault Refusal :=
  issue (.addi d x i) (fun c s => c.int2 s d x (addImmElem c.ity c.sat i)) s
/-- NEG (R289): sat(−X). -/
def execNeg (d x : BitVec 8) (s : State) : Host.Outcome State Fault Refusal :=
  issue (.neg d x) (fun c s => c.int2 s d x (negElem c.ity c.sat)) s
/-- ABS (R289): sat(|X|). -/
def execAbs (d x : BitVec 8) (s : State) : Host.Outcome State Fault Refusal :=
  issue (.abs d x) (fun c s => c.int2 s d x (absElem c.ity c.sat)) s
/-- MUL (R290): sat(X × Y). -/
def execMul (d x y : BitVec 8) (s : State) : Host.Outcome State Fault Refusal :=
  issue (.mul d x y) (fun c s => c.int3 s d x y (mulElem c.ity c.sat)) s
/-- MULH (R290): bits [2W − 1 : W] of X × Y. -/
def execMulh (d x y : BitVec 8) (s : State) : Host.Outcome State Fault Refusal :=
  issue (.mulh d x y) (fun c s => c.int3 s d x y (mulhElem c.ity)) s
/-- MAD (R290): sat(X × Y + D), D read first. -/
def execMad (d x y : BitVec 8) (s : State) : Host.Outcome State Fault Refusal :=
  issue (.mad d x y) (fun c s => c.intAcc s d x y (madElem c.ity c.sat)) s

/-- The active lanes with a zero element of Y (R291). -/
def Ctx.zeroLanes (c : Ctx) (y : Code) : List Nat :=
  c.lanes.filter fun l => (List.range c.ity.elems).any fun e => decide (elemOf c.ity (c.c c.wide y l) e = 0)
/-- DIVZERO is raised before anything is written, if TRAPEN [0] asks for it (R291). -/
def Ctx.divide (c : Ctx) (s : State) (d x y : Code) (f : Nat → Nat → Nat) : Res :=
  let z := c.zeroLanes y
  if c.t.trapen.getLsbD 0 && !z.isEmpty then c.trapLanes Cause.divZero 0 (maskOf z) else c.int3 s d x y f

/-- DIV (R291): the quotient, truncated towards zero. -/
def execDiv (d x y : BitVec 8) (s : State) : Host.Outcome State Fault Refusal :=
  issue (.div d x y) (fun c s => c.divide s d x y (divElem c.ity c.sat)) s
/-- REM (R291): the remainder, with the sign of X. -/
def execRem (d x y : BitVec 8) (s : State) : Host.Outcome State Fault Refusal :=
  issue (.rem d x y) (fun c s => c.divide s d x y (remElem c.ity)) s
/-- MIN (R292). -/
def execMin (d x y : BitVec 8) (s : State) : Host.Outcome State Fault Refusal :=
  issue (.min d x y) (fun c s => c.int3 s d x y (minElem c.ity)) s
/-- MAX (R292). -/
def execMax (d x y : BitVec 8) (s : State) : Host.Outcome State Fault Refusal :=
  issue (.max d x y) (fun c s => c.int3 s d x y (maxElem c.ity)) s
/-- AND (R293). -/
def execAnd (d x y : BitVec 8) (s : State) : Host.Outcome State Fault Refusal :=
  issue (.and d x y) (fun c s => c.bits3 s d x y (· &&& ·)) s
/-- OR (R293). -/
def execOr (d x y : BitVec 8) (s : State) : Host.Outcome State Fault Refusal :=
  issue (.or d x y) (fun c s => c.bits3 s d x y (· ||| ·)) s
/-- XOR (R293). -/
def execXor (d x y : BitVec 8) (s : State) : Host.Outcome State Fault Refusal :=
  issue (.xor d x y) (fun c s => c.bits3 s d x y (· ^^^ ·)) s
/-- NOT (R293). -/
def execNot (d x : BitVec 8) (s : State) : Host.Outcome State Fault Refusal :=
  issue (.not d x) (fun c s => c.put s d c.wide fun l => ~~~(c.b c.wide x l)) s
/-- ANDI (R293): the immediate zero-extended, in each element. -/
def execAndi (d x i : BitVec 8) (s : State) : Host.Outcome State Fault Refusal :=
  issue (.andi d x i) (fun c s => c.int2 s d x fun a => a &&& i.toNat) s
/-- SHL (R294): by Y modulo W. -/
def execShl (d x y : BitVec 8) (s : State) : Host.Outcome State Fault Refusal :=
  issue (.shl d x y) (fun c s => c.int3 s d x y fun a n => shlElem c.ity a (n % c.ity.w)) s
/-- SHR (R294): arithmetic for signed types, logical for unsigned. -/
def execShr (d x y : BitVec 8) (s : State) : Host.Outcome State Fault Refusal :=
  issue (.shr d x y) (fun c s => c.int3 s d x y fun a n => shrElem c.ity a (n % c.ity.w)) s
/-- ROT (R294): left. -/
def execRot (d x y : BitVec 8) (s : State) : Host.Outcome State Fault Refusal :=
  issue (.rot d x y) (fun c s => c.int3 s d x y fun a n => rotElem c.ity a (n % c.ity.w)) s
/-- SHLI (R294). -/
def execShli (d x i : BitVec 8) (s : State) : Host.Outcome State Fault Refusal :=
  issue (.shli d x i) (fun c s => c.int2 s d x fun a => shlElem c.ity a i.toNat) s
/-- SHRI (R294). -/
def execShri (d x i : BitVec 8) (s : State) : Host.Outcome State Fault Refusal :=
  issue (.shri d x i) (fun c s => c.int2 s d x fun a => shrElem c.ity a i.toNat) s
/-- BFX (R295): lsb = Y[5:0] and len = Y[13:8], element by element (log 17). -/
def execBfx (d x y : BitVec 8) (s : State) : Host.Outcome State Fault Refusal :=
  issue (.bfx d x y) (fun c s => c.int3 s d x y (bfxElem c.ity)) s
/-- BFI (R295): D is read. -/
def execBfi (d x y : BitVec 8) (s : State) : Host.Outcome State Fault Refusal :=
  issue (.bfi d x y) (fun c s => c.intAcc s d x y (bfiElem c.ity)) s
/-- CLZ (R295). -/
def execClz (d x : BitVec 8) (s : State) : Host.Outcome State Fault Refusal :=
  issue (.clz d x) (fun c s => c.int2 s d x (clzElem c.ity.w)) s
/-- POPC (R295). -/
def execPopc (d x : BitVec 8) (s : State) : Host.Outcome State Fault Refusal :=
  issue (.popc d x) (fun c s => c.int2 s d x (popElem c.ity.w)) s
/-- BREV (R295). -/
def execBrev (d x : BitVec 8) (s : State) : Host.Outcome State Fault Refusal :=
  issue (.brev d x) (fun c s => c.int2 s d x (brevElem c.ity.w)) s
/-- LEA (R296): X + Y × size, always 64 bits, Y a signed 32-bit integer. -/
def execLea (d x y : BitVec 8) (s : State) : Host.Outcome State Fault Refusal :=
  issue (.lea d x y) (fun c s => c.put s d true fun l => c.b true x l + ((c.c false y l).setWidth 32 : Word).signExtend 64 * BitVec.ofNat 64 (leaSize c.T)) s

end Sys2Proof.Machine
end

