-- ==== Sys2Proof/Machine/Predicate.lean ====
section
/-!
DEFINITION. Sys2Proof/Machine/Predicate.lean: the integer comparisons (R298) and the predicate instructions (R299).
-/
namespace Sys2Proof.Machine

/-- A comparison's predicate (R298): the relation must hold for every element. -/
def Ctx.compare (c : Ctx) (s : State) (p : BitVec 4) (x y : Code) (r : Rel) : Res :=
  .done (c.putP s p.toNat fun l => cmpElems c.ity r (c.b c.wide x l) (c.c c.wide y l))

/-- CEQ (R298). -/
def execCeq (p : BitVec 4) (x y : BitVec 8) (s : State) : Host.Outcome State Fault Refusal :=
  issue (.ceq p x y) (fun c s => c.compare s p x y .eq) s
/-- CNE (R298). -/
def execCne (p : BitVec 4) (x y : BitVec 8) (s : State) : Host.Outcome State Fault Refusal :=
  issue (.cne p x y) (fun c s => c.compare s p x y .ne) s
/-- CLT (R298). -/
def execClt (p : BitVec 4) (x y : BitVec 8) (s : State) : Host.Outcome State Fault Refusal :=
  issue (.clt p x y) (fun c s => c.compare s p x y .lt) s
/-- CLE (R298). -/
def execCle (p : BitVec 4) (x y : BitVec 8) (s : State) : Host.Outcome State Fault Refusal :=
  issue (.cle p x y) (fun c s => c.compare s p x y .le) s
/-- CGT (R298). -/
def execCgt (p : BitVec 4) (x y : BitVec 8) (s : State) : Host.Outcome State Fault Refusal :=
  issue (.cgt p x y) (fun c s => c.compare s p x y .gt) s
/-- CGE (R298). -/
def execCge (p : BitVec 4) (x y : BitVec 8) (s : State) : Host.Outcome State Fault Refusal :=
  issue (.cge p x y) (fun c s => c.compare s p x y .ge) s

/-- A predicate written from a lane mask, in the active lanes (R52). -/
def Ctx.putMask (c : Ctx) (s : State) (r : Nat) (m : LaneMask) : Res := .done (c.modTeam s fun t => t.putPred c.active r m)

/-- PAND (R299). -/
def execPand (d x y : BitVec 4) (s : State) : Host.Outcome State Fault Refusal :=
  issue (.pand d x y) (fun c s => c.putMask s d.toNat (c.t.preg x.toNat &&& c.t.preg y.toNat)) s
/-- POR (R299). -/
def execPor (d x y : BitVec 4) (s : State) : Host.Outcome State Fault Refusal :=
  issue (.por d x y) (fun c s => c.putMask s d.toNat (c.t.preg x.toNat ||| c.t.preg y.toNat)) s
/-- PXOR (R299). -/
def execPxor (d x y : BitVec 4) (s : State) : Host.Outcome State Fault Refusal :=
  issue (.pxor d x y) (fun c s => c.putMask s d.toNat (c.t.preg x.toNat ^^^ c.t.preg y.toNat)) s
/-- PNOT (R299). -/
def execPnot (d x : BitVec 4) (s : State) : Host.Outcome State Fault Refusal :=
  issue (.pnot d x) (fun c s => c.putMask s d.toNat (~~~(c.t.preg x.toNat))) s
/-- PFROM (R299): bit (L mod 32) of X's value in lane L. -/
def execPfrom (d : BitVec 4) (x : BitVec 8) (s : State) : Host.Outcome State Fault Refusal :=
  issue (.pfrom d x) (fun c s => .done (c.putP s d.toNat fun l => (c.b false x l).getLsbD (l % 32))) s
/-- PSET (R299). -/
def execPset (d : BitVec 4) (b : BitVec 1) (s : State) : Host.Outcome State Fault Refusal :=
  issue (.pset d b) (fun c s => c.putMask s d.toNat (if b = 1 then BitVec.allOnes 1024 else 0)) s

end Sys2Proof.Machine
end

