-- ==== Sys2Proof/Machine/Memory.lean ====
section
/-!
DEFINITION. Sys2Proof/Machine/Memory.lean: the memory instructions (R325–R341), their accesses inside a guarded region
(R92, R339), posted stores (R419), parameter windows (R89), the landing buffer (R66) and arrival words (R199, R200).
-/
namespace Sys2Proof.Machine

/-! ## Addresses, in the order of R326 -/

/-- One lane's access: its virtual address, and after translation where it goes. -/
structure LaneAcc where
  lane  : Nat
  va    : Nat
  pa    : Nat
  scope : Nat
  deriving DecidableEq, Repr

/-- X + offset of each acting lane, as 64-bit addresses (R325, R327). -/
def Ctx.addrs (c : Ctx) (x : Code) (off : Int) : List (Nat × Nat) :=
  c.lanes.map fun l => (l, ((((c.b true x l).toNat : Int) + off) % 2 ^ 64).toNat)
/-- The one access of a uniform instruction (R329). -/
def Ctx.addr1 (c : Ctx) (x : Code) (off : Int) : List (Nat × Nat) := (c.addrs x off).take 1

/-- ALIGN before ADDR_NONCANON, over every acting lane (R75). -/
def Ctx.addrTest (c : Ctx) (as : List (Nat × Nat)) (size : Nat) : Option Res :=
  let odd := as.filter fun a => a.2 % size ≠ 0
  let far := as.filter fun a => decide (a.2 ≥ 2 ^ 56)
  match odd, far with
  | a :: _, _ => some (c.trapMem Cause.align a.2 (maskOf (odd.map (·.1))))
  | [], a :: _ => some (c.trapMem Cause.addrNoncanon a.2 (maskOf (far.map (·.1))))
  | [], [] => none

/-- Watchpoint m of the team's context on its die (R440): base, length and control. -/
def State.watchpoint (s : State) (t : Team) (m : Nat) : Nat × Nat × Word :=
  let r (k : Nat) : Word := s.ctxCsr (dieOfCore t.core) t.ctx (0x520 + 4 * m + k)
  ((r 0).toNat + bits (r 1).toNat 0 24 * 2 ^ 32, (r 2).toNat, r 3)

/-- The first watchpoint that an access hits, with the lanes that hit it (R442). -/
def Ctx.watchHit (c : Ctx) (as : List (Nat × Nat)) (size : Nat) (rd wr : Bool) : Option (Nat × List (Nat × Nat)) :=
  if c.t.fw then none
  else (List.range 4).findSome? fun m =>
    let (base, len, ctl) := c.s.watchpoint c.t m
    let on := (rd && ctl.getLsbD 0) || (wr && ctl.getLsbD 1)
    let hits := as.filter fun a => decide (a.2 < base + len) && decide (base < a.2 + size)
    if on && decide (len ≠ 0) && !hits.isEmpty && c.p.wpSkip ≠ some (c.f.addr * 4 + m) then some (m, hits) else none

/-- WATCH, and the cross trigger where the watchpoint asks for it (R442, R443). -/
def Ctx.watchTrap (c : Ctx) (m : Nat) (hits : List (Nat × Nat)) : Res :=
  let r : TrapReq := ⟨Cause.watch, BitVec.ofNat 32 m, (hits.headD (0, 0)).2, some (maskOf (hits.map (·.1))), c.f.addr⟩
  if (c.s.watchpoint c.t m).2.2.getLsbD 2 then
    .final ((c.s.haltContext c.t.ctx c.die (some c.tid)).takeTrap c.tid c.pid c.f.addr r)
  else .trap r

/-- Translate every lane; those that fault, with cause and level. -/
def Ctx.translateLanes (c : Ctx) (write : Bool) : List (Nat × Nat) → State →
    List LaneAcc × List (Nat × Nat × Byte × Nat) × State
  | [], s => ([], [], s)
  | (l, va) :: as, s =>
    let (x, s) := s.translate c.core c.t.ctx c.t.fw va write false
    let (ok, bad, s) := Ctx.translateLanes c write as s
    match x with
    | .ok pa scope => (⟨l, va, pa, scope⟩ :: ok, bad, s)
    | .fault cause level => (ok, (l, va, cause, level) :: bad, s)

/-- The state of the link that an access uses. -/
def State.linkAt (s : State) (pa : Nat) : Option (Nat × Link) := (s.linkOf pa).map fun l => (l, s.linkState l)

/-- What a translation that faults does to the instruction: the cause parks its path (R84), but for an entry that cannot be
read, which traps (R97). -/
def Ctx.failXlat (c : Ctx) (cause : Byte) (write : Bool) (va level : Nat) (lanes : LaneMask) : Res :=
  if cause = Cause.eccUncorrectedMem then c.trapMem cause va lanes else .fault cause write va level (some lanes)

/-- The words that a core reads without HBM: of its L1, and of the guest copy of its die. -/
def State.nearWords (s : State) (core line : Nat) : BitVec 32 :=
  (match s.l1? core line with | some l => l.readable | none => 0) |||
  (if s.homeDie (128 * line) = dieOfCore core then 0
   else match s.guest? (dieOfCore core) line with | some g => g.valid | none => 0)
/-- The words that an access of n bytes touches in its line. -/
def wordsAt (pa n : Nat) : BitVec 32 := spanMask ((pa % 128) / 4) ((pa % 128 + n - 1) / 4 + 1 - (pa % 128) / 4)

/-- The first lane whose access goes to an aperture and meets a failure there (R427); a load that is served on its die sends no
request. -/
def Ctx.meetsFail (c : Ctx) (s : State) (as : List LaneAcc) (size : Nat) (wr : Bool) : Option (ApFail × LaneAcc) :=
  if s.mgmt.fails.isEmpty then none
  else as.findSome? fun a =>
    if !wr && decide (a.scope ≠ Scope.stream) && decide (wordsAt a.pa size &&& ~~~(s.nearWords c.core (lineOf a.pa)) = 0) then none
    else (s.apFail (.path c.tid c.pid) a.pa).map fun f => (f, a)
/-- What such a failure does: the path parks on the fault, of a request without completion once it has timed out. -/
def Ctx.failed (c : Ctx) (f : ApFail) (a : LaneAcc) (wr : Bool) : Res :=
  if c.s.failDue f then .fault f.cause wr a.va 0 (some (maskOf [a.lane]))
  else .park (c.s.sendFail f) (.completion (c.s.failTime f))

/-- Steps 1 and 2 of R326, the watchpoints (R442), then `k` on the translated lanes. With `sync` the access waits for a link
that retrains, faults on one that is down, and meets what fails (R427); a posted store does none of that. -/
def Ctx.reach (c : Ctx) (s : State) (as : List (Nat × Nat)) (size : Nat) (rd wr sync watched : Bool)
    (k : State → List LaneAcc → Res) : Res :=
  match c.addrTest as size with
  | some r => r
  | none =>
    let (ok, bad, s) := c.translateLanes wr as s
    match bad with
    | (_, va, cause, level) :: _ => c.failXlat cause wr va level (maskOf (bad.map (·.1)))
    | [] =>
      match (if watched then c.watchHit as size rd wr else none) with
      | some (m, hits) => c.watchTrap m hits
      | none =>
        let down := ok.filter fun a => match s.linkAt a.pa with | some (_, .down) => sync | _ => false
        match down with
        | a :: _ => .fault Cause.linkDown wr a.va 0 (some (maskOf (down.map (·.lane))))
        | [] =>
          match ok.findSome? fun a => match s.linkAt a.pa with | some (l, .retraining _) => some l | _ => none with
          | some l => if sync then .park c.s (.link l) else k s ok
          | none =>
            match (if sync then c.meetsFail s ok size wr else none) with
            | some (f, a) => c.failed f a wr
            | none => k s ok

/-! ## Loads -/

/-- Sign or zero extension of a loaded value to its register (R325). -/
def loadExtend (t sz x : Nat) : DWord :=
  if sz = 0 then BitVec.ofNat 64 x
  else if t = 0 || t = 2 || t = 8 then (BitVec.ofNat 32 (lowBits 32 (intOf (8 * szBytes t sz) true x))).setWidth 64
  else BitVec.ofNat 64 x

/-- A load that must not read yet, or what it read by lane, with the stamps of those values (R118). -/
inductive Fetched where
  | got (s : State) (vals : Tab Nat) (st : Clock)
  | wait (w : Wait)
  | ecc (lane va : Nat)
  deriving DecidableEq, Repr

/-- The value of a lane's access, the team's buffered bytes first (R339). -/
def Ctx.laneValue (c : Ctx) (s : State) (a : LaneAcc) (n : Nat) : Nat :=
  leNat (readRun (fun pa => (c.t.gbytes.get? pa).getD (s.loadByte c.core a.scope pa)) a.pa n)

/-- A bad burst that a load of n bytes would read from HBM (R97). -/
def Ctx.badRead (c : Ctx) (s : State) (a : LaneAcc) (n : Nat) : Bool :=
  decide (s.badWords (lineOf a.pa) &&& wordsAt a.pa n &&& ~~~(s.nearWords c.core (lineOf a.pa)) ≠ 0)

/-- Read every lane, in increasing lane order (R90, R123). -/
def Ctx.loadLanes (c : Ctx) (n : Nat) : List LaneAcc → State → Tab Nat → Clock → Fetched
  | [], s, vals, st => .got s vals st
  | a :: as, s, vals, st =>
    if c.badRead s a n then .ecc a.lane a.va
    else match s.prepareLoad c.core c.t.ctx a.scope a.pa n with
      | none => .wait (.line c.die (lineOf a.pa))
      | some s =>
        Ctx.loadLanes c n as s (vals ++ [(a.lane, c.laneValue s a n)]) (st.max (s.accStamp c.core a.scope a.pa n))

/-- The stamps of values read at their homes (R115). -/
def State.stampsOf (s : State) (as : List LaneAcc) : Clock :=
  as.foldl (fun m a => m.max (s.stampOf (lineOf a.pa))) Clock.zero

/-- Loads of the given accesses, then `k` with the values and their stamps, which the team remembers (R125). -/
def Ctx.load (c : Ctx) (s : State) (as : List LaneAcc) (n : Nat) (k : State → Tab Nat → Clock → Res) : Res :=
  match c.loadLanes n as s [] Clock.zero with
  | .wait w => .park c.s w
  | .ecc l va => c.trapMem Cause.eccUncorrectedMem va (maskOf [l])
  | .got s vals st => k (c.modTeam s fun t => { t with loaded := t.loaded.max st }) vals st

/-- Write a loaded value; a uniform port whose path made no access receives a free value (log 6). -/
def Ctx.putLoaded (c : Ctx) (s : State) (d : Code) (t sz : Nat) (val : Nat → Nat) : Res :=
  if c.acts then c.put s d (szWide t sz) fun l => loadExtend t sz (val l)
  else
    let (k, s) := s.draw
    c.put s d (szWide t sz) fun l => (freeWord k l).setWidth 64

def Ctx.size (c : Ctx) (sz : BitVec 2) : Nat := szBytes c.T sz.toNat

/-- LD and LDU. -/
def Ctx.plainLoad (c : Ctx) (s : State) (d : Code) (sz : BitVec 2) (as : List (Nat × Nat)) (val : Tab Nat → Nat → Nat) : Res :=
  c.reach s as (c.size sz) true false true true fun s as =>
    c.load s as (c.size sz) fun s vals _ => c.putLoaded s d c.T sz.toNat (val vals)

/-- LD (R327). -/
def execLd (d x : BitVec 8) (z : BitVec 2) (o : BitVec 6) (s : State) : Host.Outcome State Fault Refusal :=
  issue (.ld d x z o) (fun c s => c.plainLoad s d z (c.addrs x (o.toInt * c.size z)) fun v l => v.getD l 0) s
/-- LDU (R329): one access at a uniform address. -/
def execLdu (d x : BitVec 8) (z : BitVec 2) (o : BitVec 6) (s : State) : Host.Outcome State Fault Refusal :=
  issue (.ldu d x z o) (fun c s => c.plainLoad s d z (c.addr1 x (o.toInt * c.size z)) fun v _ => (v.headD (0, 0)).2) s
/-- LDQ (R328): an acquire, complete once the stamps of every lane's value are dominated. -/
def execLdq (d x : BitVec 8) (z : BitVec 2) (o : BitVec 6) (s : State) : Host.Outcome State Fault Refusal :=
  issue (.ldq d x z o) (fun c s =>
    c.reach s (c.addrs x (o.toInt * c.size z)) (c.size z) true false true true fun s as =>
      c.load s as (c.size z) fun s vals st =>
        if c.acts then c.acquire s st fun s => c.putLoaded s d c.T z.toNat fun l => vals.getD l 0
        else c.putLoaded s d c.T z.toNat fun l => vals.getD l 0) s

/-! ## Guard lines (R92, R339) -/

/-- Bytes written into the team's guard lines by one lane's access, which raises %pscope as it issues (R62); none when a
65th line would be needed. -/
def Team.guardWrite (t : Team) (bs : List (Nat × Byte)) (va pa scope : Nat) : Option Team :=
  let t := { t with gbytes := bs.foldl (fun g p => g.put p.1 p.2) t.gbytes,
                    gscopes := bs.foldl (fun g p => g.put (lineOf p.1) (scope, va + (p.1 - pa))) t.gscopes,
                    pscope := widerScope t.pscope [(pa, scope)] }
  if t.gscopes.length > 64 then none else some t

/-- The writes of several lanes, in order. -/
def Team.guardWrites (t : Team) : List LaneStore → Option Team
  | [] => some t
  | a :: rest => match t.guardWrite (atAddr a.pa a.bytes) a.va a.pa a.scope with | none => none | some t => Team.guardWrites t rest

/-- Buffer writes in the region, or abort it with GUARD_CAPACITY and the outermost entry's object (R187). -/
def Ctx.guarded (c : Ctx) (s : State) (ws : List LaneStore) (k : State → Res) : Res :=
  match s.team? c.tid with
  | none => k s
  | some t => match t.guardWrites ws with
    | some t => k ((s.setTeam c.tid t).guardRoom c.core 1024)
    | none => .abort Cause.guardCapacity (match c.t.guard.getLast? with | some g => g.obj | none => 0)

/-! ## Stores -/

/-- Whether stores to the address are posted (R82, R419). -/
def isPosted (pa : Nat) : Bool := isHostAp pa || isFabricAp pa

/-- The lowest free tag from the next one on, of a table that is not full. -/
def freeTag (posted : Tab Posted) : Nat → Nat → Nat
  | 0, k => k % 2 ^ 16
  | fuel + 1, k => if (posted.get? (k % 2 ^ 16)).isNone then k % 2 ^ 16 else freeTag posted fuel (k + 1)

/-- Take a posted-store entry for a store of a team's instruction at an address (R419). -/
def State.takePosted (s : State) (tid : Nat) (t : Team) (addr va pa : Nat) : Nat × State :=
  let core := s.core t.core
  let tag := freeTag core.posted 257 core.nextTag
  let e : Posted :=
    { addr := addr, slot := t.slot, serial := t.group, index := t.index, role := t.role, ctx := t.ctx,
      work := BitVec.ofNat 64 t.exitWork, va := va, pool := t.pool, team := tid, store := s.seq, link := s.linkOf pa }
  (tag, s.modCore t.core fun k => { k with nextTag := (tag + 1) % 2 ^ 16, posted := k.posted.put tag e })

/-- What a waiting instruction of the path has left to do, if it has begun. -/
def Ctx.rest? (c : Ctx) : Option Rest := c.t.rests.get? c.pid
def Ctx.setRest (c : Ctx) (s : State) (r : Rest) : State := c.modTeam s fun t => { t with rests := t.rests.put c.pid r }
/-- The instruction is over, and the queues it kept to itself are free again: paths parked on them are woken (R149, R151). -/
def Ctx.dropRest (c : Ctx) (s : State) : State :=
  let locks := match c.rest? with | some r => r.locks | none => []
  (c.modTeam s fun t => { t with rests := t.rests.del c.pid }).wakeQueues c.clu locks

/-- The stores of several lanes in increasing lane order (R123); it stops where the posted-store table is full. The serial
numbers of the writes, the stores left, and the state. -/
def Ctx.storeLanes (c : Ctx) : List LaneStore → State → List Nat → List Nat × List LaneStore × State
  | [], s, ids => (ids, [], s)
  | a :: rest, s, ids =>
    if isPosted a.pa && decide ((s.core c.core).posted.length ≥ 256) then (ids, a :: rest, s)
    else
      let (tag, s) := if isPosted a.pa then (let (x, s) := s.takePosted c.tid c.t c.f.addr a.va a.pa; (some x, s)) else (none, s)
      let (id, s) := s.coreStore c.core c.t.ctx a.scope (atAddr a.pa a.bytes) tag (s.die c.die).clock
      Ctx.storeLanes c rest s (ids ++ [id])

/-- Stores on their way, those that went before among them. A full posted-store table holds the path in issue with the
lanes that are left, their operands read and their addresses translated (R85, R419); it completes when all are accepted. -/
def Ctx.storeOn (c : Ctx) (s : State) (ws : List LaneStore) (ids : List Nat) : Res :=
  let (new, left, s) := c.storeLanes ws s []
  let s := c.modTeam s fun t => { t with writes := t.writes ++ new }
  if left.isEmpty then .later (c.dropRest s) (.stores (ids ++ new))
  else .park (c.setRest s ⟨left, ids ++ new, 0, [], Clock.zero, 0, []⟩) .postedRoom

/-- Plain stores of the lanes: %pscope widens, and they go. -/
def Ctx.store (c : Ctx) (s : State) (ws : List LaneStore) : Res :=
  c.storeOn (c.modTeam s fun t => { t with pscope := widerScope t.pscope (ws.map fun w => (w.pa, w.scope)) }) ws []

/-- The bytes each lane stores: the low bytes of its data. -/
def Ctx.storeData (c : Ctx) (d : Code) (z : BitVec 2) (as : List LaneAcc) : List LaneStore :=
  as.map fun a => ⟨a.lane, a.va, a.pa, a.scope, natLe (c.size z) (c.a (szWide c.T z.toNat) d a.lane).toNat⟩

/-- ST and STU, in a region or outside one. -/
def Ctx.plainStore (c : Ctx) (s : State) (d : Code) (z : BitVec 2) (as : List (Nat × Nat)) : Res :=
  match c.rest? with
  | some r => c.storeOn s r.stores r.ids
  | none =>
    c.reach s as (c.size z) false true false true fun s as =>
      if c.inRegion then c.guarded s (c.storeData d z as) .done else c.store s (c.storeData d z as)

/-- ST (R327). -/
def execSt (d x : BitVec 8) (z : BitVec 2) (o : BitVec 6) (s : State) : Host.Outcome State Fault Refusal :=
  issue (.st d x z o) (fun c s => c.plainStore s d z (c.addrs x (o.toInt * c.size z))) s
/-- STU (R329): one store of a uniform value. -/
def execStu (d x : BitVec 8) (z : BitVec 2) (o : BitVec 6) (s : State) : Host.Outcome State Fault Refusal :=
  issue (.stu d x z o) (fun c s => c.plainStore s d z (c.addr1 x (o.toInt * c.size z))) s
/-- STR (R328): a release, under the scope its own pages widen too (R62, R389), once; and then its writes. -/
def execStr (d x : BitVec 8) (z : BitVec 2) (o : BitVec 6) (s : State) : Host.Outcome State Fault Refusal :=
  issue (.str d x z o) (fun c s =>
    match c.rest? with
    | some r => c.storeOn s r.stores r.ids
    | none =>
      c.reach s (c.addrs x (o.toInt * c.size z)) (c.size z) false true false true fun s as =>
        let ws := c.storeData d z as
        if c.inRegion then c.guarded s ws .done
        else if !c.acts then .done s
        else c.release s (widerScope c.t.pscope (ws.map fun w => (w.pa, w.scope))) fun s => c.storeOn s ws []) s

/-! ## Local store (R330, R87) -/

/-- The group's range on the team's core: base and length. -/
def Ctx.localRange (c : Ctx) : Nat × Nat :=
  match c.s.group? c.clu c.t.group with
  | some g => if c.t.fw then (0, 0) else (match g.ranges.get? c.core with | some b => (b, g.len) | none => (0, 0))
  | none => (0, 0)

/-- Lane faults (R65): FAULTMASK, the first fault's address, and the lanes leave every path. -/
def State.laneFault (s : State) (tid pc : Nat) (lanes : LaneMask) : State :=
  if lanes = 0 then s
  else
    (s.modTeam tid fun t => { t with faultmask := t.faultmask ||| lanes, firstFault := some (t.firstFault.getD pc) }).removeLanes
      tid lanes false

/-- An instruction that is done but for the lanes it faults (R65). Where they were all of its path, the path is gone, and
what stands under its number is another's (R41, R272). -/
def Ctx.doneFaulting (c : Ctx) (s : State) (bad : LaneMask) : Res :=
  let s := s.laneFault c.tid c.f.addr bad
  if c.p.mask &&& ~~~bad = 0 then .jump s else .done s

/-- Local-store accesses: ALIGN for the whole instruction, the lanes in range performed by `k` at their addresses, the
others faulted. -/
def Ctx.local_ (c : Ctx) (s : State) (x : Code) (off : Int) (size : Nat) (k : State → List (Nat × Nat) → Res) : Res :=
  let as := c.lanes.map fun l => (l, ((c.b false x l).toNat : Int) + off)
  let odd := as.filter fun a => decide (a.2 % (size : Int) ≠ 0)
  match odd with
  | a :: _ => c.trapMem Cause.align ((a.2 % 2 ^ 56).toNat) (maskOf (odd.map (·.1)))
  | [] =>
    let (base, len) := c.localRange
    let (good, bad) := as.partition fun a => decide (0 ≤ a.2) && decide (a.2 + size ≤ (len : Int))
    match k s (good.map fun a => (a.1, base + a.2.toNat)) with
    | .done s => c.doneFaulting s (maskOf (bad.map (·.1)))
    | r => r

/-- LDL (R330, R446): a lane out of range is removed and not written. -/
def execLdl (d x : BitVec 8) (z : BitVec 2) (o : BitVec 6) (s : State) : Host.Outcome State Fault Refusal :=
  issue (.ldl d x z o) (fun c s =>
    c.local_ s x (o.toInt * c.size z) (c.size z) fun s as =>
      match as.findSome? fun a => ((s.core c.core).badLocal a.2 (c.size z)).map fun b => (a.1, b) with
      | some (l, b) => c.trapMem Cause.eccUncorrectedMem (s.localErr c.t b) (maskOf [l])
      | none =>
      let val (l : Nat) : DWord := match as.find? fun a => a.1 = l with
        | some a => loadExtend c.T z.toNat (leNat (s.lread c.core a.2 (c.size z)))
        | none => 0
      if Code.isQ d then
        let (k, s) := s.draw
        c.put s d (szWide c.T z.toNat) fun l =>
          if as.any fun a => decide (a.1 = l) then val l else (freeWord k l).setWidth 64
      else .done (c.modTeam s fun t => t.putReg (as.map (·.1)) d (szWide c.T z.toNat) val)) s
/-- STL (R330). -/
def execStl (d x : BitVec 8) (z : BitVec 2) (o : BitVec 6) (s : State) : Host.Outcome State Fault Refusal :=
  issue (.stl d x z o) (fun c s =>
    c.local_ s x (o.toInt * c.size z) (c.size z) fun s as =>
      .done (as.foldl (fun s a =>
        s.lwrite c.core a.2 (natLe (c.size z) (c.a (szWide c.T z.toNat) d a.1).toNat)) s)) s

/-! ## Parameter windows (R331, R89) -/

/-- The words behind an access that a core's constant cache lacks are filled from their home slices, as for a load (R89,
R100, R106): the cache is not coherent, so no sharer is recorded. -/
def State.constFill (s : State) (core ctx pa n : Nat) : State :=
  let words := ((List.range n).map fun i => (pa + i) / 4).eraseDups.filter fun w => ((s.core core).ccache.get? w).isNone
  words.foldl (fun s w =>
    let (bs, s) := (s.drainOwn core (some (w / 32))).engineRead ctx (4 * w) 4
    let st := s.stampOf (w / 32)
    s.modCore core fun c => { c with ccache := c.ccache.put w (BitVec.ofNat 32 (leNat bs)), cstamps := c.cstamps.put w st }) s
/-- The stamps that came with the words of an access through the constant cache (R118). -/
def Core.constStamp (c : Core) (pa n : Nat) : Clock :=
  ((List.range n).map fun i => (pa + i) / 4).foldl (fun m w => m.max (c.cstamps.getD w Clock.zero)) Clock.zero
/-- A byte of a core's constant cache. -/
def Core.constByte (c : Core) (pa : Nat) : Byte := ((c.ccache.getD (pa / 4) 0).extractLsb' (8 * (pa % 4)) 8)

/-- LDP (R331), through the constant cache (R89). Bytes at or past the window's size read as zero and set PARAM_OVERRUN. -/
def execLdp (d x : BitVec 8) (z w : BitVec 2) (s : State) : Host.Outcome State Fault Refusal :=
  issue (.ldp d x z w) (fun c s =>
    let win := if c.t.fw then none else match c.s.group? c.clu c.t.group with
      | some g => g.windows.get? w.toNat
      | none => none
    match win with
    | none => c.trap Cause.paramUnbound (w.setWidth 32)
    | some (base, size) =>
      let n := c.size z
      let offs := c.lanes.map fun l => (l, (c.b false x l).toNat)
      let odd := offs.filter fun a => a.2 % n ≠ 0
      match odd with
      | a :: _ => c.trapMem Cause.align (base + a.2) (maskOf (odd.map (·.1)))
      | [] =>
        let inside := (offs.filter fun a => decide (a.2 < size)).map fun a => (a.1, base + a.2)
        c.reach s inside 1 true false true false fun s as =>
          let bad := as.find? fun a => (List.range n).any fun i =>
            ((s.core c.core).ccache.get? ((a.pa + i) / 4)).isNone && (s.badWords (lineOf (a.pa + i))).getLsbD (((a.pa + i) % 128) / 4)
          match bad with
          | some a => c.trapMem Cause.eccUncorrectedMem a.va (maskOf [a.lane])
          | none =>
            let s := as.foldl (fun s a => s.constFill c.core c.t.ctx a.pa n) s
            let st := as.foldl (fun (m : Clock) a => m.max ((s.core c.core).constStamp a.pa n)) Clock.zero
            let s := c.modTeam s fun t => { t with loaded := t.loaded.max st }
            let s := if offs.any fun a => decide (a.2 + n > size) then c.modTeam s fun t => t.raise statusOverrun else s
            c.putLoaded s d c.T z.toNat fun l =>
              match offs.find? fun a => a.1 = l, as.find? fun a => a.lane = l with
              | some o, some a => leNat (readRun (s.core c.core).constByte a.pa n) % 2 ^ (8 * min n (size - o.2))
              | _, _ => 0) s

/-! ## The landing buffer (R332, R333, R66) -/

/-- Bytes of a team's landing share that its tags hold. -/
def Team.landed (t : Team) : Nat := (t.tags.map fun p => 4 * p.2.words * (lanesOf p.2.lanes).length).foldl (· + ·) 0

/-- A read of a core that fills nothing (R100): valid words of the L1, else at the home slice. None when it must wait, for the
apply queue (R107) or for an atomic of its own core on the line (R122). -/
def State.readPast (s : State) (core ctx scope pa n : Nat) : Option State :=
  let line := lineOf pa
  let mine := dieOfCore core
  let s := s.drainOwn core (some line)
  if s.atomicOpen core line then none
  else if scope ≠ Scope.stream && (match s.l1? core line with
      | some l => decide (spanMask ((pa % 128) / 4) ((pa % 128 + n - 1) / 4 + 1 - (pa % 128) / 4) &&& ~~~l.readable = 0)
      | none => false) then some s
  else
    let s := ((s.request line ctx).publishFor line (.core core) scope).applyDie mine
    if s.applyHolds mine line then none else some s

/-- Reads of an LDA's words, with their stamps. -/
def Ctx.ldaWords (c : Ctx) : List LaneAcc → State → Tab Word → Clock → Option (State × Tab Word × Clock)
  | [], s, acc, st => some (s, acc, st)
  | a :: as, s, acc, st =>
    match s.readPast c.core c.t.ctx a.scope a.pa 4 with
    | none => none
    | some s => Ctx.ldaWords c as s (acc.put a.lane (BitVec.ofNat 32 (c.laneValue s a 4)))
        (st.max (s.accStamp c.core a.scope a.pa 4))

/-- LDA (R332): the share and tag checks first, then n words of each lane land in the tag. -/
def execLda (g : BitVec 3) (x : BitVec 8) (n : BitVec 3) (s : State) : Host.Outcome State Fault Refusal :=
  issue (.lda g x n) (fun c s =>
    let k := n.toNat + 1
    if c.t.fw || (c.t.tags.get? g.toNat).isSome || decide (c.t.landed + 4 * k * c.lanes.length > 4096) then
      c.trap Cause.landOverflow (g.setWidth 32)
    else if !c.acts then .done s
    else
      let base := c.addrs x 0
      match c.addrTest base 4 with
      | some r => r
      | none =>
        let words := base.flatMap fun a => (List.range k).map fun i => (8 * a.1 + i, a.2 + 4 * i)
        match c.addrTest (words.map fun w => (w.1 / 8, w.2)) 4 with
        | some r => r
        | none =>
          let (ok, bad, s) := c.translateLanes false words s
          match bad with
          | (_, va, cause, level) :: _ => c.failXlat cause false va level (maskOf (bad.map fun b => b.1 / 8))
          | [] =>
            match c.watchHit (words.map fun w => (w.1 / 8, w.2)) 4 true false with
            | some (m, hits) => c.watchTrap m hits
            | none =>
              match ok.findSome? fun a => match s.linkAt a.pa with | some (l, .retraining _) => some (some l) | some (_, .down) => some none | _ => none with
              | some (some l) => .park c.s (.link l)
              | some none => .fault Cause.linkDown false (base.headD (0, 0)).2 0 (some c.active)
              | none =>
                match c.meetsFail s ok 4 false with
                | some (f, a) => c.failed f { a with lane := a.lane / 8 } false
                | none =>
                match ok.find? fun a => c.badRead s a 4 with
                | some a => c.trapMem Cause.eccUncorrectedMem a.va (maskOf [a.lane / 8])
                | none =>
                  match c.ldaWords ok s [] Clock.zero with
                  | none => .park c.s (.line c.die (lineOf ((ok.headD ⟨0, 0, 0, 0⟩).pa)))
                  | some (s, data, st) =>
                    let s := c.modTeam s fun t =>
                      { t with loaded := t.loaded.max st, tags := t.tags.put g.toNat ⟨false, k, c.active, data, []⟩ }
                    .later (s.post (.ldaLanded c.tid g.toNat)) (.tag g.toNat)) s

/-- COMMIT (R333); a word of the landing buffer with an uncorrectable error traps, h1 holding D's code (R446). -/
def execCommit (d : BitVec 7) (g : BitVec 3) (s : State) : Host.Outcome State Fault Refusal :=
  issue (.commit d g) (fun c s =>
    match c.t.tags.get? g.toNat with
    | none => .done s
    | some tag =>
      if !tag.landed then .park s (.tag g.toNat)
      else if d.toNat + tag.words - 1 ≥ c.t.vcount then
        c.trap Cause.regBudget (BitVec.ofNat 32 (d.toNat + tag.words - 1))
      else
        let ls := lanesOf (c.active &&& tag.lanes)
        if ls.any fun l => tag.flaws.any fun w => decide (w / 8 = l) then c.trap Cause.eccUncorrectedReg (d.setWidth 32)
        else .done (c.modTeam s fun t =>
          let t := ls.foldl (fun t l => (List.range tag.words).foldl (fun t k =>
            t.setV (d.toNat + k) l (tag.data.getD (8 * l + k) 0)) t) (t.mend d.toNat tag.words (c.active &&& tag.lanes))
          { t with tags := t.tags.del g.toNat })) s

/-! ## Atomics and RED (R335–R338) -/

/-- Whether both operands are uniform, so that the operation is performed once (R336). -/
def Ctx.once (c : Ctx) (d x : Code) : Bool := !Ctx.isLane d c.popA && !Ctx.isLane x c.popB

/-- The accesses of an ATOM, ATOMR or CAS. -/
def Ctx.atomAddrs (c : Ctx) (d x : Code) : List (Nat × Nat) := if c.once d x then c.addr1 x 0 else c.addrs x 0

/-- The words that accesses of n bytes touch in a line. -/
def accWords (as : List LaneAcc) (n line : Nat) : BitVec 32 :=
  touchedWords ((as.filter fun a => lineOf a.pa = line).flatMap fun a => (List.range n).map fun i => (a.pa + i, (0 : Byte)))

/-- The issuing L1 gives up its copies of the bytes an atomic acts on (R105): the core's earlier requests on the lines are
performed (R122), dirty words of the span are written back, and the span is dropped. -/
def Ctx.surrender (c : Ctx) (s : State) (as : List LaneAcc) (n : Nat) : State :=
  ((as.map fun a => lineOf a.pa).eraseDups).foldl (fun s line =>
    let words := accWords as n line
    let s := s.drainOwn c.core (some line)
    let s := (s.writeBackWords c.core line words).drainOwn c.core (some line)
    (wordRuns words).foldl (fun s r => s.dropWords c.core line r.1 r.2) s) s

/-- A request to the bank for some lanes. -/
def Ctx.bankReq (c : Ctx) (id op ty scope : Nat) (stamp : Clock) (lanes : List BankLane) : BankReq :=
  { id := id, agent := .core c.core, ctx := c.t.ctx, scope := scope, op := op, ty := ty, lanes := lanes, graph := false, stamp := stamp,
    ret := none }

/-- Send one request for each list of lanes: their serial numbers and the state. -/
def Ctx.sendBank (c : Ctx) (op ty : Nat) : List (List (LaneAcc × DWord)) → State → List Nat → List Nat × State
  | [], s, ids => (ids, s)
  | ls :: rest, s, ids =>
    let (id, s) := s.serial
    let s := s.openWrite id c.die false
    let scope := match ls with | (a, _) :: _ => a.scope | [] => 0
    let r := c.bankReq id op ty scope (s.die c.die).clock (ls.map fun p => ⟨p.1.pa, p.2, 0⟩)
    Ctx.sendBank c op ty rest (s.post (.bankAluOperation r)) (ids ++ [id])

/-- The accesses, widened scope and write list of a sent atomic. -/
def Ctx.sent (c : Ctx) (s : State) (as : List LaneAcc) (ids : List Nat) : State :=
  c.modTeam s fun t => t.wrote ids (widerScope t.pscope (as.map fun a => (a.pa, a.scope)))

/-- In a region: read each lane's location without filling the L1 (R100), then buffer its new value (R339); the old values by
lane, and the stamps they were read with. -/
def Ctx.regionAtomic (c : Ctx) (ty op : Nat) (operand expect : Nat → Nat) : List LaneAcc → State → Tab Nat → Clock →
    Sum (State × Tab Nat × Clock) Res
  | [], s, olds, st => .inl (s, olds, st)
  | a :: as, s, olds, st =>
    let n := bankBytes ty
    if c.badRead s a n then .inr (c.trapMem Cause.eccUncorrectedMem a.va (maskOf [a.lane]))
    else match s.readPast c.core c.t.ctx a.scope a.pa n with
    | none => .inr (.park c.s (.line c.die (lineOf a.pa)))
    | some s =>
      let t := (s.team? c.tid).getD c.t
      let old := leNat (readRun (fun pa => (t.gbytes.get? pa).getD (s.loadByte c.core a.scope pa)) a.pa n)
      let new := bankNew op ty old (operand a.lane % 2 ^ (8 * n)) (expect a.lane)
      let st := st.max (s.accStamp c.core a.scope a.pa n)
      match t.guardWrite (if op = 11 && old ≠ expect a.lane % 2 ^ (8 * n) then [] else atAddr a.pa (natLe n new)) a.va a.pa a.scope with
      | none => .inr (.abort Cause.guardCapacity (match c.t.guard.getLast? with | some g => g.obj | none => 0))
      | some t => Ctx.regionAtomic c ty op operand expect as ((s.setTeam c.tid t).guardRoom c.core 1024)
          (olds ++ [(a.lane, old)]) st

/-- Before an atomic is performed: its release half, and the acquire half's wait for the stamps it will read (R125,
R126). Narrow holders publish first (R106), since what they wrote is read too. -/
def Ctx.orderAtomic (c : Ctx) (s : State) (rel acq : Bool) (as : List LaneAcc) (n : Nat) (k : State → Res) : Res :=
  let go := fun (s : State) =>
    let s := c.surrender s as n
    if acq then
      let s := as.foldl (fun s a => s.publish (lineOf a.pa) false) s
      c.acquire s (s.stampsOf as) k
    else k s
  if rel then c.release s (widerScope c.t.pscope (as.map fun a => (a.pa, a.scope))) go else go s

/-- An atomic in a region: its reads and buffered writes (R339), and the acquire half, of the stamps that it read (R118). -/
def Ctx.guardedAtomic (c : Ctx) (s : State) (acq : Bool) (op : Nat) (operand expect : Nat → Nat) (as : List LaneAcc)
    (back : State → Tab Nat → Res) : Res :=
  match c.regionAtomic c.T op operand expect as s [] Clock.zero with
  | .inr r => r
  | .inl (s, olds, st) =>
    let s := c.modTeam s fun t => { t with loaded := t.loaded.max st }
    if acq then c.acquire s st fun s => back s olds else back s olds

/-- The lanes of an atomic whose bytes cannot be read trap their team at issue (R97; DESIGN CHOICE, log 45: of one that returns
nothing too). -/
def Ctx.cleanBank (c : Ctx) (s : State) (as : List LaneAcc) (n : Nat) (k : State → Res) : Res :=
  match as.filter fun a => s.badAt a.pa n with
  | a :: rest => c.trapMem Cause.eccUncorrectedMem a.va (maskOf ((a :: rest).map (·.lane)))
  | [] => k s

/-- An atomic that returns nothing and orders nothing after it travels to the bank, one request for each lane in order
(R336), or for each line (R338). -/
def Ctx.postAtomic (c : Ctx) (s : State) (d : Code) (as : List (Nat × Nat)) (rel : Bool) (op : Nat) (byLine : Bool) : Res :=
  let n := bankBytes c.T
  c.reach s as n true true true true fun s as =>
    if !c.acts then .done s
    else if c.inRegion then c.guardedAtomic s false op (fun l => (c.a c.wide d l).toNat) (fun _ => 0) as fun s _ => .done s
    else c.cleanBank s as n fun s => c.orderAtomic s rel false as n fun s =>
      let groups := if byLine then ((as.map fun a => lineOf a.pa).eraseDups).map fun l => as.filter fun a => lineOf a.pa = l
        else as.map fun a => [a]
      let (ids, s) := c.sendBank op c.T (groups.map fun g => g.map fun a => (a, c.a c.wide d a.lane)) s []
      let s := c.sent s as ids
      .later (if rel then c.modTeam s fun t => { t with pscope := Scope.core } else s) (.stores ids)

/-- One lane's atomic that returns: performed at its bank, or held there or queued behind a held request (R113). Its old
value comes back by itself (`State.returnOld`). -/
def Ctx.askBank (c : Ctx) (op ty : Nat) (operand expect : Nat → Nat) (s : State) (a : LaneAcc) : State :=
  let (id, s) := s.serial
  let s := c.modTeam (s.openWrite id c.die false) fun t => { t with writes := t.writes ++ [id] }
  s.homeBank { c.bankReq id op ty a.scope (s.die c.die).clock
    [⟨a.pa, BitVec.ofNat 64 (operand a.lane), BitVec.ofNat 64 (expect a.lane)⟩] with ret := some (c.tid, c.pid, a.lane) }

/-- The end of an atomic whose lanes are all performed: with `acq` once the stamps it read are dominated (R118). Bytes that
could not be read when their turn came trap (R97). -/
def Ctx.returned (c : Ctx) (s : State) (acq : Bool) (d x : Code) (r : Rest) (back : State → Tab Nat → Res) : Res :=
  if r.bad ≠ 0 then
    let va := (((c.atomAddrs d x).find? fun a => r.bad.getLsbD a.1).map (·.2)).getD 0
    .final ((c.dropRest s).takeTrap c.tid c.pid c.f.addr ⟨Cause.eccUncorrectedMem, 0, va, some r.bad, c.f.addr⟩)
  else
  let go := fun (s : State) => back ((c.dropRest s).modTeam c.tid fun t => { t with loaded := t.loaded.max r.stamp }) r.olds
  if acq then c.acquire s r.stamp go else go s

/-- The queues that an instruction pops and later pushes to: between the two nothing else moves them (R149). -/
def Ctx.lockable (c : Ctx) : List Nat := if c.n.pops.isEmpty || c.n.pushes.isEmpty then [] else c.queues.map (·.1)

/-- ATOMR and CAS, and an acquiring ATOM (R125): performed at the bank lane by lane; while a watch holds a lane's request the
path waits, its operands read. `back` writes the old values. -/
def Ctx.fetchAtomic (c : Ctx) (s : State) (d x : Code) (rel acq : Bool) (op : Nat) (operand expect : Nat → Nat)
    (back : State → Tab Nat → Res) : Res :=
  match c.rest? with
  | some r => if r.left > 0 then .park s .atomic else c.returned s acq d x r back
  | none =>
    let n := bankBytes c.T
    c.reach s (c.atomAddrs d x) n true true true true fun s as =>
      if !c.acts then back s []
      else if c.inRegion then c.guardedAtomic s acq op operand expect as back
      else c.cleanBank s as n fun s => c.orderAtomic s rel acq as n fun s =>
        let s := c.sent s as []
        let s := if rel then c.modTeam s fun t => { t with pscope := Scope.core } else s
        let s := as.foldl (c.askBank op c.T operand expect) (c.setRest s ⟨[], [], as.length, [], Clock.zero, 0, c.lockable⟩)
        match (s.team? c.tid).bind fun t => t.rests.get? c.pid with
        | some r => if r.left > 0 then .park s .atomic else c.returned s false d x r back
        | none => back s []

/-- ATOM (R336). -/
def execAtom (d x : BitVec 8) (r q : BitVec 1) (o : BitVec 4) (s : State) : Host.Outcome State Fault Refusal :=
  issue (.atom d x r q o) (fun c s =>
    if q = 1 then
      c.fetchAtomic s d x (r = 1) true o.toNat (fun l => (c.a c.wide d l).toNat) (fun _ => 0) fun s _ => .done s
    else c.postAtomic s d (c.atomAddrs d x) (r = 1) o.toNat false) s
/-- RED (R338): every acting lane's update, the lanes of one line as one request. -/
def execRed (d x : BitVec 8) (o : BitVec 4) (s : State) : Host.Outcome State Fault Refusal :=
  issue (.red d x o) (fun c s => c.postAtomic s d (c.addrs x 0) false o.toNat true) s

/-- ATOMR (R336): the old value goes to D. -/
def execAtomr (d x : BitVec 8) (r q : BitVec 1) (o : BitVec 4) (s : State) : Host.Outcome State Fault Refusal :=
  issue (.atomr d x r q o) (fun c s =>
    c.fetchAtomic s d x (r = 1) (q = 1) o.toNat (fun l => (c.a c.wide d l).toNat) (fun _ => 0) fun s olds =>
      if c.acts then
        c.put s d c.wide fun l => BitVec.ofNat 64 (if c.once d x then (olds.headD (0, 0)).2 else olds.getD l 0)
      else
        let (k, s) := s.draw
        c.put s d c.wide fun l => (freeWord k l).setWidth 64) s
/-- CAS (R337): D the expected value, the registers above it the new one; the old value goes to D. -/
def execCas (d x : BitVec 8) (r q : BitVec 1) (s : State) : Host.Outcome State Fault Refusal :=
  issue (.cas d x r q) (fun c s =>
    let up : Code := d + (if c.wide then 2 else 1)
    c.fetchAtomic s d x (r = 1) (q = 1) 11 (fun l => (c.a c.wide up l).toNat) (fun l => (c.a c.wide d l).toNat) fun s olds =>
      .done (c.modTeam s fun t => t.putReg c.lanes d c.wide fun l =>
        BitVec.ofNat 64 (if c.once d x then (olds.headD (0, 0)).2 else olds.getD l 0))) s

/-! ## PREF (R340) -/

/-- One lane's prefetch: dropped on a non-canonical address, a failed translation or a STREAM page. Its fill waits, as a
request of its own, for a link that retrains (R427) or for the apply queue (R107). -/
def Ctx.prefetch (c : Ctx) (s : State) (a : Nat × Nat) : State :=
  if a.2 ≥ 2 ^ 56 then s
  else match s.translate c.core c.t.ctx c.t.fw a.2 false false with
    | (.fault _ _, s) => s
    | (.ok pa scope, s) =>
      let line := lineOf pa
      let later := s.post (.gets (mkReq c.core line (0, 32) scope))
      if scope = Scope.stream then s
      else match s.linkAt pa with
        | some (_, .down) => s
        | some (_, .retraining _) => later
        | _ => (s.prepareLoad c.core c.t.ctx scope (128 * line) 128).getD later

/-- PREF (R340). -/
def execPref (x o : BitVec 8) (s : State) : Host.Outcome State Fault Refusal :=
  issue (.pref x o) (fun c s => .done ((c.addrs x (128 * o.toInt)).foldl c.prefetch s)) s

/-! ## Arrival words (R199, R200, R341) -/

/-- An arrival word's fields. -/
structure Arrival where
  target : Nat
  count  : Nat
  gen    : Nat
  deriving DecidableEq, Repr

def Arrival.ofNat (x : Nat) : Arrival := ⟨bits x 0 32, bits x 32 24, bits x 56 8⟩
/-- The 8-byte word. DESIGN CHOICE (log 50): where an STL has set TARGET above 0xFF_FFFF, COUNT wraps modulo 2^24, its width; the
spec does not say what it does past 0xFF_FFFF. -/
def Arrival.toNat (a : Arrival) : Nat := a.target + a.count % 2 ^ 24 * 2 ^ 32 + a.gen % 256 * 2 ^ 56
/-- The advance rule. -/
def Arrival.advance (a : Arrival) : Arrival :=
  if a.target = 0 then { a with count := min a.count 0xFFFFFF }
  else { a with gen := (a.gen + a.count / a.target) % 256, count := a.count % a.target }
def State.arrival (s : State) (core addr : Nat) : Arrival := Arrival.ofNat (leNat (s.lread core addr 8))
def State.setArrival (s : State) (core addr : Nat) (a : Arrival) : State := s.lwrite core addr (natLe 8 a.toNat)
/-- Bytes arrive (R200): COUNT rises, then the advance rule. The word remembers the clock of the engine's die, which is the
latest stamp of what the engine has written (R115, R118). -/
def State.arrive (s : State) (core addr n : Nat) : State :=
  let a := s.arrival core addr
  let st := (s.die (dieOfCore core)).clock
  (s.setArrival core addr { a with count := a.count + n }.advance).modCore core fun c => { c with astamps := c.astamps.put addr st }

/-- The shared checks of ARMA, WAITA and POLLA: alignment, then range; then `k` at the word's address, or, out of range, at
none, and every active lane faults. -/
def Ctx.arrivalAt (c : Ctx) (s : State) (x : Code) (k : State → Option Nat → Res) : Res :=
  let off := (c.ub x).toNat
  let (base, len) := c.localRange
  if !c.acts then k s none
  else if off % 8 ≠ 0 then c.trapMem Cause.align off c.active
  else if off + 8 > len then
    match k s none with
    | .done s => c.doneFaulting s c.active
    | r => r
  else k s (some (base + off))

/-- The end of a wait on an arrival word (R118, R125): an acquire of what the engine that counted on it wrote. -/
def Ctx.acquireArrival (c : Ctx) (s : State) (at_ : Nat) (k : State → Res) : Res :=
  c.acquire s ((s.core c.core).astamps.getD at_ Clock.zero) k

/-- ARMA (R341): TARGET is written, the generation before it returned, and the advance rule applied. -/
def execArma (d x y : BitVec 8) (s : State) : Host.Outcome State Fault Refusal :=
  issue (.arma d x y) (fun c s =>
    let target := (c.uc y).toNat
    c.arrivalAt s x fun s at_ =>
      if target > 0xFFFFFF then c.trap Cause.illegalOperand (wordOf (.arma d x y))
      else match at_ with
        | some at_ =>
          let a := s.arrival c.core at_
          let s := s.setArrival c.core at_ { a with target := target }.advance
          c.put s d false fun _ => BitVec.ofNat 64 a.gen
        | none =>
          if Code.isQ d then
            let (k, s) := s.draw
            c.put s d false fun l => (freeWord k l).setWidth 64
          else .done s) s
/-- WAITA (R341): parks until GEN ≠ g; its end is an acquire. -/
def execWaita (x y : BitVec 8) (s : State) : Host.Outcome State Fault Refusal :=
  issue (.waita x y) (fun c s =>
    c.arrivalAt s x fun s at_ =>
      let g := (c.uc y).toNat % 256
      match at_ with
      | none => .done s
      | some at_ =>
        if (s.arrival c.core at_).gen ≠ g then c.acquireArrival s at_ .done
        else .park c.s (.arrival at_ (BitVec.ofNat 8 g))) s
/-- POLLA (R341): GEN ≠ g, in the active lanes; when true it is an acquire. -/
def execPolla (p : BitVec 4) (x y : BitVec 8) (s : State) : Host.Outcome State Fault Refusal :=
  issue (.polla p x y) (fun c s =>
    c.arrivalAt s x fun s at_ =>
      match at_ with
      | none => .done s
      | some at_ =>
        if (s.arrival c.core at_).gen ≠ (c.uc y).toNat % 256 then
          c.acquireArrival s at_ fun s => .done (c.putP s p.toNat fun _ => true)
        else .done (c.putP s p.toNat fun _ => false)) s

end Sys2Proof.Machine
end

