-- ==== Sys2Proof/Machine/Queues.lean ====
section
/-!
DEFINITION. Sys2Proof/Machine/Queues.lean: the queue instructions (R345–R351). A path with no active lane changes nothing
but through a queue port (R342).
-/
namespace Sys2Proof.Machine

/-- Run `k` if a lane acts (R342). -/
def Ctx.ifActs (c : Ctx) (s : State) (k : Res) : Res := if c.acts then k else .done s
/-- The same for an instruction with a value destination: a queue port still receives an entry (R342, R258), whose value
the spec does not give (log 6). -/
def Ctx.ifActsD (c : Ctx) (s : State) (d : Code) (k : Res) : Res :=
  if c.acts then k
  else if Code.isQ d then
    let (n, s) := s.draw
    c.put s d false fun l => (freeWord n l).setWidth 64
  else .done s

/-- QCFG (R346). -/
def execQcfg (d : BitVec 5) (x y : BitVec 8) (s : State) : Host.Outcome State Fault Refusal :=
  issue (.qcfg d x y) (fun c s =>
    c.ifActs s (
      let off := (c.ub x).toNat
      let cfg := (c.uc y).toNat
      let depth := bits cfg 0 12
      let kind := bits cfg 12 2
      let feed := decide (bits cfg 14 1 = 1)
      let bad := c.trap Cause.queueConfig 64
      match s.group? c.clu c.t.group with
      | none => bad
      | some g =>
        if bits cfg 19 13 ≠ 0 || kind = 3 || depth = 0 || (feed && (kind ≠ 0 || decide (depth < 16))) then bad
        else if off % 8 ≠ 0 || decide (off + depth * entryBytes kind > g.len) then bad
        else match g.teams[bits cfg 15 4]? with
          | none => bad
          | some owner =>
            let core := match s.team? owner with | some t => t.core | none => c.core
            match (List.range 64).find? fun n => ((s.clu c.clu).queues.get? n).isNone with
            | none => bad
            | some n =>
              let q : Queue := { kind := kind, closed := false, core := core % 12, base := g.ranges.getD core 0 + off,
                                 depth := depth, head := 0, tail := 0, count := 0, feed := feed, owner := c.t.group }
              let s := s.modClu c.clu fun k => { k with queues := k.queues.put n q }
              .done (c.modTeam s fun t => t.setS d.toNat (BitVec.ofNat 32 n)))) s

/-- What a selector names (R345): a queue number, or the cause with its h1. -/
def Ctx.selector (c : Ctx) (s : State) (x sel : Code) : Sum Nat (Byte × Word) :=
  if sel = 0x1F then
    let n := (c.ub x).toNat
    if n ≥ 64 then .inr (Cause.queueConfig, c.ub x)
    else match (s.clu c.clu).queues.get? n with
      | some q => if q.owner = c.t.group then .inl n else .inr (Cause.queueConfig, c.ub x)
      | none => .inl n
  else match c.t.ports.get? sel.toNat with
    | some n => .inl n
    | none => .inr (Cause.queueUnbound, sel.setWidth 32)

/-- A transition on the selected queue (R347); a FREE queue traps. -/
def Ctx.onQueue (c : Ctx) (s : State) (x sel : Code) (k : State → Nat → Queue → State) : Res :=
  c.ifActs s (
    match c.selector s x sel with
    | .inr (cause, h1) => c.trap cause h1
    | .inl n => match (s.clu c.clu).queues.get? n with
      | none => c.trap Cause.queueConfig (BitVec.ofNat 32 n)
      | some q => .done (k s n q))

/-- Put a queue's entry, waking the paths parked on it (R151). -/
def State.setQueue (s : State) (clu n : Nat) (q : Queue) : State :=
  s.modClu clu fun c => { c with queues := c.queues.put n q, qserial := c.qserial.put n (c.qserial.getD n 0 + 1) }

/-- QFREE (R145, R347): a queue number is a resource of R403 that has become free, so the cluster tries the head of its queue (R404). -/
def execQfree (x sel : BitVec 8) (s : State) : Host.Outcome State Fault Refusal :=
  issue (.qfree x sel) (fun c s =>
    c.onQueue s x sel fun s n q => ((s.freeQueue c.clu n).loseFeeds c.clu (feedKey q n)).post (.groupAdmission c.clu)) s
/-- QDRAIN (R145, R347): the entries skipped are discarded. -/
def execQdrain (x sel : BitVec 8) (s : State) : Host.Outcome State Fault Refusal :=
  issue (.qdrain x sel) (fun c s =>
    c.onQueue s x sel fun s n q =>
      (s.setQueue c.clu n { q with head := q.tail, count := 0, closed := false }).loseFeeds c.clu (feedKey q n)) s
/-- QCLOSE (R145, R347). -/
def execQclose (x sel : BitVec 8) (s : State) : Host.Outcome State Fault Refusal :=
  issue (.qclose x sel) (fun c s =>
    c.onQueue s x sel fun s n q => if q.closed then s else s.setQueue c.clu n { q with closed := true }) s

/-- The word of QCNT (R348). -/
def queueWord (q : Option Queue) : Word :=
  match q with
  | none => 0
  | some q => BitVec.ofNat 32 (q.count + (if q.closed then 2 ^ 12 else 0) + 2 ^ 13 + q.kind * 2 ^ 14 + q.depth * 2 ^ 16)

/-- QCNT (R348). -/
def execQcnt (d x sel : BitVec 8) (s : State) : Host.Outcome State Fault Refusal :=
  issue (.qcnt d x sel) (fun c s =>
    if !c.acts && !Code.isQ d then .done s
    else match c.selector s x sel with
      | .inr (cause, h1) => c.trap cause h1
      | .inl n => c.put s d false fun _ => (queueWord ((s.clu c.clu).queues.get? n)).setWidth 64) s

/-- QTRY (R349); like every other instruction it is held in issue while one in progress keeps the queue to itself (R149). -/
def execQtry (d : BitVec 8) (p : BitVec 4) (e : BitVec 1) (q : BitVec 4) (s : State) : Host.Outcome State Fault Refusal :=
  issue (.qtry d p e q) (fun c s =>
    match c.queue q.toNat with
    | none => c.trap Cause.queueUnbound (q.setWidth 32)
    | some (n, x) =>
      if x.kind = kindL32 && Code.uniformDst d then c.trap Cause.queueKind (q.setWidth 32)
      else
        let need := occEntries x c.words
        if s.queueLocked c.clu n then .park s (.queue c.clu n ((s.clu c.clu).qserial.getD n 0)) else
        let take (s : State) : State :=
          let (got, s) := s.popOcc c.clu n c.words
          c.modTeam s fun t => t.putReg c.lanes d false fun l =>
            match got with | .uni w => w.setWidth 64 | .lanes t => (t.getD l 0).setWidth 64 | .nothing => 0
        if x.count ≥ need then .done (c.putP (take s) p.toNat fun _ => decide (e = 0))
        else if x.closed then
          .done (c.putP (take (c.modTeam s fun t => t.raise statusEos)) p.toNat fun _ => decide (e = 1))
        else .done (c.putP s p.toNat fun _ => false)) s

/-- QOFFR (R350): the kind rules of a push come first, its value among them (R147), then CLOSED, then room. -/
def execQoffr (p : BitVec 4) (x : BitVec 8) (q : BitVec 4) (s : State) : Host.Outcome State Fault Refusal :=
  issue (.qoffr p x q) (fun c s =>
    match c.queue q.toNat with
    | none => c.trap Cause.queueUnbound (q.setWidth 32)
    | some (n, y) =>
      if y.kind ≠ kindL32 && Code.perLane x then c.trap Cause.queueKind (q.setWidth 32)
      else if y.kind = kindTname && decide (((c.b false x c.lane0).setWidth 32 : Word).toNat ≥ 2 ^ 16) then
        c.trap Cause.queueKind (q.setWidth 32)
      else if s.queueLocked c.clu n then .park s (.queue c.clu n ((s.clu c.clu).qserial.getD n 0))
      else if y.closed then c.trap Cause.queueClosedPush (q.setWidth 32)
      else if y.depth - y.count < occEntries y c.words then .done (c.putP s p.toNat fun _ => false)
      else match c.push s q.toNat fun l => c.b false x l with
        | .done s => .done (c.putP s p.toNat fun _ => true)
        | r => r) s

/-- QLINK (R351). -/
def execQlink (x : BitVec 8) (q : BitVec 4) (s : State) : Host.Outcome State Fault Refusal :=
  issue (.qlink x q) (fun c s =>
    c.ifActs s (
      let v := c.ub x
      if v.getLsbD 31 then
        if v.extractLsb' 0 31 = 0 then .done (c.modTeam s fun t => { t with ports := t.ports.del q.toNat })
        else c.trap Cause.queueConfig v
      else if v.toNat ≥ 64 then c.trap Cause.queueConfig v
      else match (s.clu c.clu).queues.get? v.toNat with
        | none => c.trap Cause.queueConfig v
        | some y =>
          if y.owner = c.t.group then .done (c.modTeam s fun t => { t with ports := t.ports.put q.toNat v.toNat })
          else c.trap Cause.queueConfig v)) s

end Sys2Proof.Machine
end

