-- ==== Sys2Proof/Machine/Tiles.lean ====
section
/-!
DEFINITION. Sys2Proof/Machine/Tiles.lean: tensor descriptors (R173, R174), tile names and their values (R175–R180), the
tile instructions (R352–R364), and the matrix tasks with their events (R232, R233, R365–R368).
-/
namespace Sys2Proof.Machine

/-! ## Descriptors and images (R173, R174) -/

/-- A descriptor's fields; rows and columns are counts. -/
structure Desc where
  fmt    : Nat
  valid  : Bool
  orient : Bool
  rows   : Nat
  cols   : Nat
  stride : Nat
  scale  : Nat
  rsvd   : Nat
  deriving DecidableEq, Repr

def Desc.ofNat (d : Nat) : Desc :=
  ⟨bits d 0 4, bits d 4 1 = 1, bits d 5 1 = 1, bits d 8 12 + 1, bits d 20 12 + 1, bits d 32 32, bits d 64 8,
   bits d 6 2 + bits d 72 56⟩

/-- Length of the packed dimension, the one that lies contiguous, and of the other. -/
def Desc.packed (d : Desc) : Nat := if d.orient then d.rows else d.cols
def Desc.across (d : Desc) : Nat := if d.orient then d.cols else d.rows
/-- The rules of R173. -/
def Desc.ok (d : Desc) : Bool :=
  d.valid && decide (d.fmt ≤ 8) && d.rsvd = 0 && (hasScale d.fmt || d.scale = 127) &&
  (if isBlock d.fmt then d.packed % 32 = 0 && d.stride = 0
   else d.stride = 0 || (d.stride % fmtBytes d.fmt = 0 && decide (d.stride ≥ d.packed * fmtBytes d.fmt)))

/-- The shape a definition copies (R174). -/
def Desc.shape (d : Desc) : Shape := ⟨d.fmt, d.orient, d.rows, d.cols, d.scale⟩
/-- The descriptor that a converted value must satisfy (R355 step 2): TD's format and scale with MD's other fields. -/
def Desc.converted (md td : Desc) : Desc := { md with fmt := td.fmt, scale := td.scale, stride := 0, valid := true, rsvd := 0 }

/-- The runs of a footprint, as offset and length: one for each row (or column) with a stride, else one. -/
def Desc.runs (d : Desc) : List (Nat × Nat) :=
  if isBlock d.fmt || d.stride = 0 then [(0, d.shape.bytes)]
  else (List.range d.across).map fun i => (i * d.stride, d.packed * fmtBytes d.fmt)
/-- The alignment of a footprint's address (R355 step 3). -/
def Desc.align (d : Desc) : Nat := if isBlock d.fmt then 16 else fmtBytes d.fmt

/-! ## Elements (R226–R229, R356) -/

/-- The place of element (row, column) along the packed dimension and then across it. -/
def Shape.index (h : Shape) (r c : Nat) : Nat := if h.orient then c * h.rows + r else r * h.cols + c
/-- Row and column of a place. -/
def Shape.place (h : Shape) (i : Nat) : Nat × Nat := if h.orient then (i % h.rows, i / h.rows) else (i / h.cols, i % h.cols)

/-- A value times a power of two. -/
def FV.scaled (v : FV) (q : Int) : FV := match v with | .fin s m e => .fin s m (e + q) | v => v
/-- A value with its sign flipped (R232). -/
def FV.negated : FV → FV
  | .nan s p g => .nan s p g
  | .inf s => .inf (!s)
  | .fin s m e => .fin (!s) m e

/-- The format of a tile's elements that are floating-point numbers. -/
def fmtOfTile (fmt : Nat) : Fmt :=
  if fmt = 1 then Fmt.fp64 else if fmt = 2 then Fmt.fp16 else if fmt = 3 then Fmt.bf16 else if fmt = 4 then Fmt.fE4m3
  else if fmt = 5 then Fmt.fE5m2 else Fmt.fp32

/-- The stored code of element i of an image of whole-byte elements. -/
def elemCode (fmt : Nat) (img : List Byte) (i : Nat) : Nat := leNat ((img.drop (i * fmtBytes fmt)).take (fmtBytes fmt))

/-- The exact value of element i (R356's first step); a NaN scale makes NaN. -/
def elemValue (h : Shape) (img : List Byte) (i : Nat) : FV :=
  if isBlock h.fmt then
    unitValue (h.fmt = 8) ((img.drop (i / 256 * unitBytes (h.fmt = 8))).take (unitBytes (h.fmt = 8))) (i % 256)
  else if hasScale h.fmt then
    if h.scale = 255 then blockNan
    else
      let v := if h.fmt = 6 then ofInt ((BitVec.ofNat 8 (elemCode 6 img i)).toInt)
        else (fmtOfTile h.fmt).decode (elemCode h.fmt img i)
      v.scaled ((h.scale : Int) - 127)
  else (fmtOfTile h.fmt).decode (elemCode h.fmt img i)
/-- The value at a row and column. -/
def tileValue (h : Shape) (img : List Byte) (r c : Nat) : FV := elemValue h img (h.index r c)

/-- Encode one value in a whole-byte format (R356): RNE, no saturation, no flush. -/
def encodeElem (h : Shape) (v : FV) : List Byte :=
  let v := if hasScale h.fmt then (if h.scale = 255 then blockNan else v.scaled (127 - (h.scale : Int))) else v
  if h.fmt = 6 then natLe 1 (toInt 8 true 0 v 0).1
  else natLe (fmtBytes h.fmt) ((toFmtPre (fmtOfTile h.fmt) FEnv.plain v).finish (fmtOfTile h.fmt) FEnv.plain 0).1

/-- Cut a list into runs of n. -/
def chunks {α : Type} (n : Nat) : Nat → List α → List (List α)
  | 0, _ => []
  | fuel + 1, xs => match xs with | [] => [] | _ => xs.take n :: chunks n fuel (xs.drop n)

/-- A padding block: data and spare 0, scale 127 (R173). -/
def padBlock : Block := ⟨List.replicate 32 0, 127, 0⟩
/-- The unit images of a list of blocks, the last unit padded. -/
def blockImage (sf4 : Bool) (bs : List Block) : List Byte :=
  (chunks 8 (bs.length + 1) bs).flatMap fun u => unitImage sf4 (u ++ List.replicate (8 - u.length) padBlock)

/-- The block that holds elements 32j to 32j + 31 of an image. -/
def blockAt (sf4 : Bool) (img : List Byte) (j : Nat) : Block :=
  let u := (img.drop (j / 8 * unitBytes sf4)).take (unitBytes sf4)
  let (s, p) := trailerScale sf4 (u.drop 128) (j % 8)
  ⟨(List.range 32).map fun l => bits (leNat ((u.drop (4 * l)).take 4)) (4 * (j % 8)) 4, s, p⟩

/-- The image of a list of values, in packed order (R356). -/
def encodeImage (h : Shape) (vs : List FV) : List Byte :=
  if isBlock h.fmt then
    blockImage (h.fmt = 8) ((chunks 32 (vs.length + 1) vs).map fun b => (quantise (h.fmt = 8) false b).1)
  else vs.flatMap (encodeElem h)

/-- The elements of an image of shape `h` decoded, and encoded in shape `g` (R356 with CONV = 1): every element, whatever
the two formats. -/
def recodeImage (h g : Shape) (img : List Byte) : List Byte :=
  encodeImage g ((List.range g.count).map fun i => let (r, c) := g.place i; tileValue h img r c)

/-- An image of shape `h` as the image of shape `g` where a rule converts only what differs: the elements as they stand
where formats and scales agree, recoded otherwise (R356 with CONV = 0, R358). Padding is made canonical. -/
def convertImage (h g : Shape) (img : List Byte) : List Byte :=
  if h.fmt = g.fmt && h.scale = g.scale && (!isBlock h.fmt || h.orient = g.orient) then
    if isBlock h.fmt then blockImage (h.fmt = 8) ((List.range (h.count / 32)).map (blockAt (h.fmt = 8) img))
    else if h.orient = g.orient then img
    else (List.range g.count).flatMap fun i =>
      let (r, c) := g.place i
      natLe (fmtBytes h.fmt) (elemCode h.fmt img (h.index r c))
  else recodeImage h g img

/-! ## Handles and names (R175–R178, R352) -/

/-- DEFP: a definition has issued and not completed. -/
def Name.defp (n : Name) : Bool := n.defn.isSome

/-- A handle register, whose upper half must be zero (R342), then R352's check. -/
def Ctx.handle (c : Ctx) (s : State) (i : Instr) (w : Word) (k : Nat → Name → Res) : Res :=
  let h := w.toNat
  if h ≥ 2 ^ 16 then c.trap Cause.illegalOperand (wordOf i)
  else
    let n := s.name c.clu (handleName h)
    if n.st = .free || n.owner ≠ c.t.group || n.gen ≠ handleGen h then c.trap Cause.tileStale w else k (handleName h) n

/-! ## Reads of names (R177) -/

/-- What a read of a name meets (R177): a value, with its image where a provisional definition holds it. -/
inductive TileRead where
  | ok (h : Shape) (held : Option (List Byte))
  | wait
  | fault (cause : Byte)
  deriving DecidableEq, Repr

/-- A read of a name by a team, inside its open region or not; `woken` says that the read already counts in READS. -/
def Name.read (n : Name) (tid : Nat) (region woken : Bool) : TileRead :=
  if woken then .ok n.shape none
  else match n.st with
    | .free => .fault Cause.tileStale
    | .dying => .fault Cause.tileStale
    | .defined => .ok n.shape none
    | .pending =>
      if n.fcause ≠ 0 then .fault n.fcause
      else match n.defn with
        | some (.held h img) => if region && decide (n.definer = tid) then .ok h (some img) else .wait
        | _ => .wait

/-- A read by an instruction: `k` on the value, with the state after a woken read's count is taken back, or, where the read goes on in an
engine (`keep`), with the read counted; or the path parks; or it faults with the handle. A value that its tier cannot give traps with
the error. -/
def Ctx.readTile (c : Ctx) (s : State) (w : Word) (name : Nat) (n : Name) (keep : Bool) (k : State → Shape → List Byte → Res) : Res :=
  match n.read c.tid c.inRegion (decide (c.p.prog = 1)) with
  | .ok h held =>
    match (match held with | some img => TileData.ok img | none => s.tileData c.clu name n) with
    | .ok img =>
      let woken := decide (c.p.prog = 1)
      k (if woken && !keep then s.endRead c.clu name
        else if keep && !woken then s.modClu c.clu fun x => { x with names := x.names.modify name fun n => { n with reads := n.reads + 1 } }
        else s) h img
    | .bad cause addr => .trap ⟨cause, if cause = Cause.sramParityTile then w else 0, addr, none, c.f.addr⟩
  | .wait => .park (s.pmc c.core 0x11 1 c.t.ctx) (.tile name)
  | .fault cause => c.trap cause w

/-- The paths parked on a name and not woken. -/
def State.tileReaders (s : State) (clu name : Nat) : List (Nat × Nat) :=
  (s.teams.filter fun p => cluOfCore p.2.core = clu).flatMap fun p =>
    (p.2.paths.filter fun q => q.2.st = .parked (.tile name) && q.2.prog ≠ 1).map fun q => (p.1, q.1)

/-- Wake every parked reader of a name that has become DEFINED: its read counts from here (R177). -/
def State.wakeReaders (s : State) (clu name : Nat) : State :=
  (s.tileReaders clu name).foldl (fun s r =>
    (s.modPath r.1 r.2 fun p => { p with prog := 1 }).modClu clu fun c =>
      { c with names := c.names.modify name fun n => { n with reads := n.reads + 1 } }) s

/-- Release every parked reader with a fault (R177, R179). -/
def State.faultReaders (s : State) (clu name : Nat) (cause : Byte) : State :=
  let w := BitVec.ofNat 32 (name + (s.name clu name).gen * 4096)
  (s.tileReaders clu name).foldl (fun s r => s.faultParked r.1 r.2 cause w 0 none) s

/-! ## Waiting tasks (R366) -/

/-- Give a waiting record every operand that it can read now: it counts a read of each, and is ready once it has all. -/
def State.feedTask (s : State) (id : Nat) : State :=
  match s.tasks.get? id with
  | none => s
  | some k =>
    if k.st ≠ .waiting then s
    else
      let can (n : Nat) : Bool := match (s.name k.clu n).read k.team k.region false with | .ok _ _ => true | _ => false
      let fresh := (k.operands.eraseDups.filter fun n => !k.reads.contains n).filter can
      let s := fresh.foldl (fun s n => s.modClu k.clu fun c =>
        { c with names := c.names.modify n fun x => { x with reads := x.reads + 1 } }) s
      let reads := k.reads ++ fresh
      if k.operands.all reads.contains then
        let (n, s) := s.serial
        ({ s with tasks := s.tasks.put id { k with reads := reads, st := .ready, serial := n } }).post
          (.tileTaskDispatch id k.core)
      else { s with tasks := s.tasks.put id { k with reads := reads } }

/-- Tasks of a cluster that wait. -/
def State.feedTasks (s : State) (clu : Nat) : State :=
  ((s.tasks.filter fun p => p.2.clu = clu && p.2.st = .waiting).map (·.1)).foldl State.feedTask s

/-! ## Allocation and descriptors (R353, R354) -/

/-- Names on the free list. -/
def Cluster.freeCount (c : Cluster) : Nat := 4096 - c.fresh + c.freed.length
/-- Take the head of the free list. -/
def State.takeName (s : State) (clu owner : Nat) : Nat × State :=
  let c := s.clu clu
  let (n, c) := if c.fresh < 4096 then (c.fresh, { c with fresh := c.fresh + 1 }) else (c.freed.headD 0, { c with freed := c.freed.drop 1 })
  let old := c.names.getD n Name.fresh
  (n, s.setClu clu { c with names := c.names.put n { Name.fresh with st := .pending, gen := (old.gen + 1) % 16, owner := owner } })
/-- Take n names: their handles. -/
def State.takeNames (s : State) (clu owner : Nat) : Nat → List Nat × State
  | 0 => ([], s)
  | k + 1 =>
    let (n, s) := s.takeName clu owner
    let (ns, s) := State.takeNames s clu owner k
    ((n + (s.name clu n).gen * 4096) :: ns, s)

/-- Names a group holds that are not FREE. -/
def State.namesOf (s : State) (clu owner : Nat) : Nat :=
  ((s.clu clu).names.filter fun p => p.2.st ≠ .free && p.2.owner = owner).length

/-- TALLOC (R175, R353). -/
def execTalloc (d : BitVec 5) (n : BitVec 3) (s : State) : Host.Outcome State Fault Refusal :=
  issue (.talloc d n) (fun c s =>
    c.ifActs s (
      let k := n.toNat + 1
      let me := (c.tid, c.pid)
      let tiles := match s.group? c.clu c.t.group with | some g => g.tiles | none => 0
      if s.namesOf c.clu c.t.group + k > tiles then c.trap Cause.tileNamesExhausted (freeWord s.free 0)
      else
        let ahead := ((s.clu c.clu).tallocs.takeWhile (· ≠ me)).filter fun p =>
          match s.team? p.1 with | some t => decide (t.place = .resident) | none => false
        if ahead.isEmpty && decide ((s.clu c.clu).freeCount ≥ k) then
          let s := s.modClu c.clu fun x => { x with tallocs := x.tallocs.erase me }
          let (hs, s) := s.takeNames c.clu c.t.group k
          .done (c.modTeam s fun t => t.setSs d.toNat (hs.map (BitVec.ofNat 32)))
        else
          .park (s.modClu c.clu fun x =>
            { x with tallocs := if x.tallocs.contains me then x.tallocs else x.tallocs ++ [me] }) .talloc)) s

def State.descriptor (s : State) (clu ctx id : Nat) : Nat := ((s.clu clu).tdesc.getD (64 * ctx + id) 0).toNat

/-- TDESC (R354). -/
def execTdesc (x : BitVec 5) (i : BitVec 6) (s : State) : Host.Outcome State Fault Refusal :=
  issue (.tdesc x i) (fun c s =>
    c.ifActs s (
      let r (k : Nat) : Word := c.t.sreg (x.toNat + k)
      let v : BitVec 128 := r 3 ++ r 2 ++ r 1 ++ r 0
      .done (s.modClu c.clu fun k => { k with tdesc := Tab.store 0 k.tdesc (64 * c.t.ctx + i.toNat) v }))) s
/-- TDESCR (R354). -/
def execTdescr (d : BitVec 5) (i : BitVec 6) (s : State) : Host.Outcome State Fault Refusal :=
  issue (.tdescr d i) (fun c s =>
    c.ifActs s (
      let v := s.descriptor c.clu c.t.ctx i.toNat
      .done (c.modTeam s fun t => t.setSs d.toNat ((List.range 4).map fun k => BitVec.ofNat 32 (bits v (32 * k) 32))))) s

/-! ## Definitions (R355–R357) -/

/-- The checks on a definition's name: its handle first (R352), then those of the instruction's selector, then that it may be defined
(R355 step 1). -/
def Ctx.definable (c : Ctx) (s : State) (i : Instr) (w : Word) (badSel : Bool) (k : Nat → Name → Res) : Res :=
  c.handle s i w fun name n =>
    if badSel then c.trap Cause.illegalOperand (wordOf i)
    else if n.st ≠ .pending || n.defp then c.trap Cause.tileRedefine w else k name n

/-- Issue a definition (R177): DEFP and, inside a region, PROV; FCAUSE is cleared. -/
def Ctx.define (c : Ctx) (s : State) (name : Nat) (n : Name) (d : Defn) : State :=
  s.setName c.clu name { n with defn := some d, fcause := 0, prov := c.inRegion, definer := c.tid }

/-- The pages that runs of bytes touch. -/
def pagesOf (va : Nat) (rs : List (Nat × Nat)) : List Nat :=
  (rs.flatMap fun r => (List.range ((va + r.1 + r.2 - 1) / 65536 + 1 - (va + r.1) / 65536)).map
    fun k => ((va + r.1) / 65536 + k) * 65536).eraseDups

/-- Translate pages for an engine of the cluster; the first that faults, with its address, cause and level. -/
def State.enginePages (s : State) (clu ctx : Nat) (write : Bool) : List Nat → Option (Nat × Byte × Nat) × State
  | [] => (none, s)
  | p :: ps =>
    match s.engineXlat clu ctx p write with
    | (.fault cause level, s) => (some (p, cause, level), s)
    | (.ok _ _, s) => State.enginePages s clu ctx write ps

/-- The footprint's checks at issue (R355 step 3): alignment, canonical addresses, translation. -/
def Ctx.footprint (c : Ctx) (s : State) (va : Nat) (d : Desc) (write : Bool) (k : State → Res) : Res :=
  let last := d.runs.foldl (fun m r => max m (va + r.1 + r.2)) va
  if va % d.align ≠ 0 then .trap ⟨Cause.align, 0, va, none, c.f.addr⟩
  else if last > 2 ^ 56 then .trap ⟨Cause.addrNoncanon, 0, va, none, c.f.addr⟩
  else match s.enginePages c.clu c.t.ctx write (pagesOf va d.runs) with
    | (some (p, cause, level), _) =>
      if cause = Cause.eccUncorrectedMem then c.trapMem cause (max p va) c.active else .fault cause write (max p va) level none
    | (none, s) => k s

/-- Where an engine's access to an address stands: a physical address, a cause, or a link to wait for. -/
inductive Reached where
  | ok (pa : Nat)
  | fault (cause : Byte)
  | wait
  deriving DecidableEq, Repr

def State.engineReach (s : State) (clu ctx va : Nat) (write : Bool) : Reached × State :=
  match s.engineXlat clu ctx va write with
  | (.fault cause _, s) => (.fault cause, s)
  | (.ok pa _, s) =>
    match s.linkOf pa with
    | none => (.ok pa, s)
    | some l => match s.linkState l with
      | .up => (.ok pa, s)
      | .down => (.fault Cause.linkDown, s)
      | .retraining _ => (.wait, s)

/-- Cut a run at page boundaries: virtual address and length of each piece. -/
def pagePieces : Nat → Nat → Nat → List (Nat × Nat)
  | 0, _, _ => []
  | fuel + 1, va, n =>
    if n = 0 then []
    else
      let k := min n (65536 - va % 65536)
      (va, k) :: pagePieces fuel (va + k) (n - k)
def piecesOf (va : Nat) (rs : List (Nat × Nat)) : List (Nat × Nat) :=
  rs.flatMap fun r => pagePieces (r.2 / 65536 + 2) (va + r.1) r.2

/-- What an engine read gives. -/
inductive EngineRead where
  | ok (bs : List Byte)
  | fault (cause : Byte)
  | wait
  deriving DecidableEq, Repr

/-- A home line that an engine reads (R101, R208): narrow words are published first. -/
def State.engineLine (s : State) (ctx line : Nat) : State := (s.request line ctx).publish line false

/-- Read pieces of memory as an engine access (R100); a bad burst is an error (R97). -/
def State.enginePieces (s : State) (clu ctx : Nat) : List (Nat × Nat) → List Byte → EngineRead × State
  | [], acc => (.ok acc, s)
  | (va, n) :: rest, acc =>
    match s.engineReach clu ctx va false with
    | (.wait, s) => (.wait, s)
    | (.fault cause, s) => (.fault cause, s)
    | (.ok pa, s) =>
      if s.badAt pa n then (.fault Cause.eccUncorrectedMem, s)
      else
        let s := (List.range ((pa + n - 1) / 128 + 1 - pa / 128)).foldl (fun s k => s.engineLine ctx (pa / 128 + k)) s
        State.enginePieces s clu ctx rest (acc ++ readRun s.homeByte pa n)

/-- Write pieces of memory as an engine access: the serial numbers of its stores, or the cause. -/
def State.engineStores (s : State) (clu ctx : Nat) : List (Nat × Nat) → List Byte → List Nat → Sum (List Nat) (Option Byte) × State
  | [], _, ids => (.inl ids, s)
  | (va, n) :: rest, bs, ids =>
    match s.engineReach clu ctx va true with
    | (.wait, s) => (.inr none, s)
    | (.fault cause, s) => (.inr (some cause), s)
    | (.ok pa, s) =>
      let (new, s) := s.engineWrite (dieOfClu clu) ctx (atAddr pa (bs.take n))
      State.engineStores s clu ctx rest (bs.drop n) (ids ++ new)

/-- Whether some tier has room for a value of a shape now (R98). -/
def State.tileRoom (s : State) (clu owner : Nat) (h : Shape) : Bool := !(s.tilePlaces clu owner h.bytes s.free).isEmpty

/-- TLOAD (R355, R98): its issue releases the team's earlier writes to the source (R137), and the engine reads later. -/
def execTload (d x y : BitVec 5) (s : State) : Host.Outcome State Fault Refusal :=
  issue (.tload d x y) (fun c s =>
    c.ifActs s (
      let i := Instr.tload d x y
      let sel := (c.s1 x).toNat
      let conv := decide (bits sel 14 1 = 1)
      let va := (c.s2 y).toNat
      c.definable s i (c.s1 d) (bits sel 6 2 ≠ 0 || bits sel 15 17 ≠ 0) fun name n =>
        let mdN := s.descriptor c.clu c.t.ctx (bits sel 0 6)
        let tdN := s.descriptor c.clu c.t.ctx (bits sel 8 6)
        let md := Desc.ofNat mdN
        let td := Desc.ofNat tdN
        if !md.ok then c.trap Cause.descInvalid (BitVec.ofNat 32 (bits sel 0 6))
        else if conv && !td.ok then c.trap Cause.descInvalid (BitVec.ofNat 32 (bits sel 8 6))
        else if conv && (md.rows ≠ td.rows || md.cols ≠ td.cols) then c.trap Cause.tileShape (c.s1 d)
        else if conv && !(md.converted td).ok then c.trap Cause.descInvalid (BitVec.ofNat 32 (bits sel 8 6))
        else c.footprint s va md false fun s =>
          let s := s.flushWrites c.tid
          if s.writesOpen c.tid then .park (c.s.flushWrites c.tid) .posted
          else if !s.tileRoom c.clu c.t.group (if conv then (md.converted td).shape else md.shape) then
            c.trap Cause.tileSpace (c.s1 d)
          else
          let s := c.define s name n (.load c.tid (bits sel 0 6) (bits sel 8 6) conv (BitVec.ofNat 128 mdN) (BitVec.ofNat 128 tdN) va)
          .later (s.post (.tileDefinitionComplete c.clu name)) (.tileDef c.clu name n.gen))) s

/-- TDEF (R357, R98): the image's bytes are read at issue. -/
def execTdef (d x : BitVec 5) (y : BitVec 8) (s : State) : Host.Outcome State Fault Refusal :=
  issue (.tdef d x y) (fun c s =>
    c.ifActs s (
      let i := Instr.tdef d x y
      let id := (c.s1 x).toNat
      c.definable s i (c.s1 d) (decide (id ≥ 64)) fun name n =>
        let md := { Desc.ofNat (s.descriptor c.clu c.t.ctx id) with stride := 0 }
        let off := (c.uc y).toNat
        let (base, len) := c.localRange
        if !md.ok then c.trap Cause.descInvalid (BitVec.ofNat 32 id)
        else if off % 8 ≠ 0 then .trap ⟨Cause.align, 0, off, none, c.f.addr⟩
        else if off + md.shape.bytes > len then c.trap Cause.illegalOperand (wordOf i)
        else if !s.tileRoom c.clu c.t.group md.shape then c.trap Cause.tileSpace (c.s1 d)
        else match (s.core c.core).badLocal (base + off) md.shape.bytes with
          | some a => .trap ⟨Cause.eccUncorrectedMem, 0, s.localErr c.t a, none, c.f.addr⟩
          | none =>
            let s := c.define s name n (.image md.shape (s.lread c.core (base + off) md.shape.bytes))
            .done (s.post (.tileDefinitionComplete c.clu name)))) s

/-- A definition fails (R179): readers parked on the name are released with its cause, and tasks that wait on it fail. -/
def State.failDefinition (s : State) (clu name : Nat) (cause : Byte) : State :=
  let n := s.name clu name
  if n.st = .dying then
    (s.setName clu name { n with defn := none }).freeName clu name
  else if n.st = .pending then
    let s := s.setName clu name { n with defn := none, prov := false, fcause := cause, tier := 0, base := 0 }
    let s := s.faultReaders clu name cause
    (s.waitingTasks clu name).foldl (fun s i => s.failTask i cause) s
  else s

/-- A completed definition's value (R177): held while it is provisional; otherwise the name is DEFINED, its value where it
stands in an accumulator bank or in a tier with room, and with no room at all the definition fails (R98). -/
def State.placeValue (s : State) (clu name : Nat) (n : Name) (h : Shape) (img : List Byte) : State :=
  if n.prov then (s.setName clu name { n with defn := some (.held h img) }).feedTasks clu
  else
    let done := { n with st := .defined, defn := none, shape := h }
    let (k, s) := s.draw
    match (if n.tier = 1 then some (s.setName clu name { done with value := img })
      else s.seat clu name done img (s.tilePlaces clu n.owner img.length k) k) with
    | some s => (s.wakeReaders clu name).feedTasks clu
    | none => (s.setName clu name n).failDefinition clu name Cause.tileSpace

/-- TILE_DEFINITION_COMPLETE (R177, R355, R356): the engine reads a TLOAD's footprint and forms the value; an image or a
task's result is placed. A footprint that no longer translates fails the definition with CARD_FAULT. -/
def execTileDefinitionComplete (clu name : Nat) (s : State) : Host.Outcome State Fault Refusal :=
  event (
    let n := s.name clu name
    match n.defn with
    | some (.image h img) => if n.st = .pending then s.placeValue clu name n h img else s.failDefinition clu name 0
    | some (.load team _ _ conv desc tdesc va) =>
      let md := Desc.ofNat desc.toNat
      let ctx := match s.team? team with | some t => t.ctx | none => 0
      match s.enginePieces clu ctx (piecesOf va md.runs) [] with
      | (.wait, s) => s.post (.tileDefinitionComplete clu name)
      | (.fault cause, s) => s.failDefinition clu name (if cause = Cause.eccUncorrectedMem || cause = Cause.linkDown then cause else Cause.cardFault)
      | (.ok bs, s) =>
        let g := if conv then (md.converted (Desc.ofNat tdesc.toNat)).shape else md.shape
        if n.st = .pending then s.placeValue clu name n g ((if conv then recodeImage else convertImage) md.shape g bs) else s.failDefinition clu name 0
    | _ => s)

/-- TILE_DEFINITION_FAIL (R179): the failure reported is the name's own only while the definition that failed is still there;
one that an abort or a kill has taken away changes nothing (R187). -/
def execTileDefinitionFail (clu name : Nat) (cause : Byte) (s : State) : Host.Outcome State Fault Refusal :=
  event (if (s.name clu name).defn = some (.failed cause) then s.failDefinition clu name cause else s)

/-! ## The Garnet stack (R96) -/

/-- What slice n of the stack holds of a staged copy: column n (R96, R367). -/
def Staged.slice (g : Staged) (n : Nat) : List FV := (List.range g.shape.rows).map fun r => tileValue g.shape g.img r n
/-- Bytes that a column of a shape takes of its slice. -/
def Shape.columnBytes (h : Shape) : Nat :=
  if isBlock h.fmt then h.rows / 2 + (h.rows + 31) / 32 * (if h.fmt = 8 then 2 else 1) else h.rows * fmtBytes h.fmt
/-- Bytes taken of every slice that the staged copies use. -/
def garnetUsed (gs : List Staged) : Nat := gs.foldl (fun acc g => acc + g.shape.columnBytes) 0

/-- Whether a task that runs on a core's engine reads a name as B. -/
def State.readsB (s : State) (clu core name : Nat) : Bool :=
  s.tasks.any fun p => p.2.clu = clu && p.2.st = .running core && handleName p.2.b.toNat = name

/-- Drop staged copies until a column of `need` bytes fits: the oldest first, none that a running task reads, and the only
copy of a value once it has moved to another tier (R96). -/
def State.stageRoom (s : State) (clu core need : Nat) : State :=
  (s.core core).garnet.foldl (fun s g =>
    if garnetUsed (s.core core).garnet + need ≤ Config.garnetSliceBytes || s.readsB clu core g.name then s
    else
      let only (s : State) : Bool := (s.name clu g.name).tier = 2 && ((s.goodCopies clu g.name).filter (· ≠ core)).isEmpty
      let s := if only s then (s.moveTile clu g.name [3, 4, 5]).getD s else s
      if only s then s else s.modCore core fun c => { c with garnet := c.garnet.filter fun x => x.name ≠ g.name }) s

/-- Stage a value above a core for its engine to read as B (R96): from its tier, or for a provisional value from what its
definition holds. A copy that stands there without an error is used as it is; a bad one is replaced, if another copy
exists. The hardware may then keep the staged copy alone. -/
def State.stage (s : State) (clu name core : Nat) : Except (Byte × Nat) State :=
  let n := s.name clu name
  if (s.core core).garnet.any fun g => g.name = name && !g.bad then .ok s
  else
    let (h, data) : Shape × TileData := match n.defn with
      | some (.held h img) => (h, .ok img)
      | _ => (n.shape, s.tileData clu name n)
    match data with
    | .bad cause addr => .error (cause, addr)
    | .ok img =>
      if h.cols > 64 || h.columnBytes > Config.garnetSliceBytes then .ok s
      else
        let s := s.modCore core fun c => { c with garnet := c.garnet.filter fun g => g.name ≠ name }
        let s := s.stageRoom clu core h.columnBytes
        if garnetUsed (s.core core).garnet + h.columnBytes > Config.garnetSliceBytes then .ok s
        else
          let s := s.modCore core fun c => { c with garnet := c.garnet ++ [⟨name, h, img, false⟩] }
          let (k, s) := s.draw
          .ok (if n.st = .defined && decide (n.tier ≥ 3) && Config.freeChoice k % 4 = 1 then
              s.setName clu name { n with tier := 2, base := core, value := img }
            else s)

/-! ## Reads (R358–R363) -/

/-- TSTORE (R358): the checks, then a read of D, which counts until the engine has the tile; the engine writes later. -/
def execTstore (d x y : BitVec 5) (s : State) : Host.Outcome State Fault Refusal :=
  issue (.tstore d x y) (fun c s =>
    c.ifActs s (
      let i := Instr.tstore d x y
      let sel := (c.s1 x).toNat
      let va := (c.s2 y).toNat
      let go := fun (name : Nat) (n : Name) =>
        if sel ≥ 64 then c.trap Cause.illegalOperand (wordOf i)
        else
          let mdN := s.descriptor c.clu c.t.ctx sel
          let md := Desc.ofNat mdN
          if !md.ok then c.trap Cause.descInvalid (BitVec.ofNat 32 sel)
          else c.footprint s va md true fun s =>
            c.readTile s (c.s1 d) name n true fun s h _ =>
              if h.rows ≠ md.rows || h.cols ≠ md.cols then c.trap Cause.tileShape (c.s1 d)
              else
                let (x, s) := s.serial
                let e : TileStore := { clu := c.clu, name := name, team := c.tid, path := c.pid, ctx := c.t.ctx, desc := BitVec.ofNat 128 mdN,
                                       va := va, stores := [], started := false }
                .later ({ s with tstores := s.tstores.put x e }.post (.tileReadComplete c.clu name x)) (.tileStore x)
      if c.p.prog = 1 then go (handleName (c.s1 d).toNat) (s.name c.clu (handleName (c.s1 d).toNat))
      else c.handle s i (c.s1 d) go)) s

/-- TILE_READ_COMPLETE (R177, R358): the engine has the tile and writes the footprint; READS falls. A failure now is the
team's at its next boundary. A transfer of a saved context is paused (R408); one whose team or group has ended goes on, through its
context's translations (R418). -/
def execTileReadComplete (clu name xfer : Nat) (s : State) : Host.Outcome State Fault Refusal :=
  event (
    match s.tstores.get? xfer with
    | none => s
    | some e =>
      if e.started || (s.image? e.ctx e.clu).isSome then s
      else
        let n := s.name clu name
        let md := Desc.ofNat e.desc.toNat
        let fail (s : State) (cause : Byte) : State :=
          ({ s with tstores := s.tstores.del xfer }.endRead clu name).deferTrap e.team
            ⟨cause, BitVec.ofNat 32 (name + n.gen * 4096), 0, none, none⟩
        match s.tileData clu name n with
        | .bad cause _ => fail s cause
        | .ok img =>
        match s.engineStores clu e.ctx (piecesOf e.va md.runs) (convertImage n.shape { md.shape with orient := md.orient } img) [] with
        | (.inr none, s) => s.post (.tileReadComplete clu name xfer)
        | (.inr (some cause), s) => fail s cause
        | (.inl ids, s) =>
          { s with tstores := s.tstores.put xfer { e with started := true, stores := ids } }.endRead clu name)

/-- TGET (R359). -/
def execTget (d : BitVec 7) (x y : BitVec 5) (s : State) : Host.Outcome State Fault Refusal :=
  issue (.tget d x y) (fun c s =>
    c.ifActs s (
      let i := Instr.tget d x y
      let sel := (c.s1 y).toNat
      let row := bits sel 0 12
      let col := bits sel 16 12
      let go := fun (name : Nat) (n : Name) =>
        if bits sel 12 4 ≠ 0 || bits sel 28 4 ≠ 0 then c.trap Cause.illegalOperand (wordOf i)
        else
          c.readTile s (c.s1 x) name n false fun s h img =>
            if h.fmt = 1 && d.toNat % 2 = 1 then c.trap Cause.illegalOperand (wordOf i)
            else if h.fmt = 1 && decide (d.toNat + 1 ≥ c.t.vcount) then c.trap Cause.regBudget (BitVec.ofNat 32 (d.toNat + 1))
            else
              let val (l : Nat) : DWord :=
                if row ≥ h.rows || col + l ≥ h.cols then 0
                else if h.fmt = 1 then BitVec.ofNat 64 (elemCode 1 img (h.index row (col + l)))
                else BitVec.ofNat 64 ((toFmtPre Fmt.fp32 FEnv.plain (tileValue h img row (col + l))).finish Fmt.fp32 FEnv.plain 0).1
              .done (c.modTeam s fun t => t.putReg c.lanes (vCode d) (h.fmt = 1) val)
      if c.p.prog = 1 then go (handleName (c.s1 x).toNat) (s.name c.clu (handleName (c.s1 x).toNat))
      else c.handle s i (c.s1 x) go)) s

/-- TWAIT (R360). -/
def execTwait (x : BitVec 5) (s : State) : Host.Outcome State Fault Refusal :=
  issue (.twait x) (fun c s =>
    c.ifActs s (
      let go := fun (name : Nat) (n : Name) => c.readTile s (c.s1 x) name n false fun s _ _ => .done s
      if c.p.prog = 1 then go (handleName (c.s1 x).toNat) (s.name c.clu (handleName (c.s1 x).toNat))
      else c.handle s (.twait x) (c.s1 x) go)) s

/-- The word of TSTAT (R361). -/
def nameWord (n : Name) (isMatch : Bool) : Word :=
  let st : Nat := match n.st with | .free => 0 | .pending => 1 | .defined => 2 | .dying => 3
  BitVec.ofNat 32 (st + (if n.defp then 4 else 0) + (if n.prov then 8 else 0) + n.gen * 16 + n.tier * 2 ^ 8 +
    n.fcause.toNat * 2 ^ 11 + (if isMatch then 2 ^ 31 else 0))

/-- TSTAT (R361). -/
def execTstat (d : BitVec 8) (x : BitVec 5) (s : State) : Host.Outcome State Fault Refusal :=
  issue (.tstat d x) (fun c s =>
    if !c.acts && !Code.isQ d then .done s
    else
      let h := (c.s1 x).toNat
      if h ≥ 2 ^ 16 then c.trap Cause.illegalOperand (wordOf (.tstat d x))
      else
        let n := s.name c.clu (handleName h)
        let ok := n.gen = handleGen h && n.st ≠ .free && n.owner = c.t.group
        c.put s d false fun _ => (nameWord n ok).setWidth 64) s

/-- Act on a hint (R362): stage the value in a core's Garnet stack, or move it to the pool, L2 or the spill area. -/
def State.followHint (s : State) (clu name hint core : Nat) : State :=
  if hint = 1 then match s.stage clu name (12 * clu + core) with | .ok s => s | .error _ => s
  else if hint = 0 then s
  else (s.moveTile clu name [hint + 1]).getD s

/-- THINT (R362): the hint is kept with the name; whether the hardware acts on it is its choice. -/
def execThint (x : BitVec 5) (k : BitVec 4) (h : BitVec 3) (s : State) : Host.Outcome State Fault Refusal :=
  issue (.thint x k h) (fun c s =>
    c.ifActs s (
      let w := (c.s1 x).toNat
      if w ≥ 2 ^ 16 then c.trap Cause.illegalOperand (wordOf (.thint x k h))
      else
        let n := s.name c.clu (handleName w)
        if n.st ≠ .defined || n.owner ≠ c.t.group || n.gen ≠ handleGen w then .done s
        else
          let (j, s) := (s.setName c.clu (handleName w) { n with hint := h.toNat + 8 * k.toNat }).draw
          .done (if Config.freeChoice j % 2 = 1 then s.followHint c.clu (handleName w) h.toNat k.toNat else s))) s

/-- TKILL (R177, R363): parked readers are released with TILE_KILLED_WAIT, then the name dies. -/
def execTkill (x : BitVec 5) (s : State) : Host.Outcome State Fault Refusal :=
  issue (.tkill x) (fun c s =>
    c.ifActs s (c.handle s (.tkill x) (c.s1 x) fun name n =>
      if n.st = .dying then c.trap Cause.tileStale (c.s1 x)
      else .done ((s.faultReaders c.clu name Cause.tileKilledWait).dieName c.clu name))) s

/-! ## Matrix tasks (R232, R233, R364–R368) -/

/-- TTASK (R364). An operand's read that parks is counted (R207, code 0x11). -/
def execTtask (d x y : BitVec 5) (s : State) : Host.Outcome State Fault Refusal :=
  issue (.ttask d x y) (fun c s =>
    c.ifActs s (
      let i := Instr.ttask d x y
      let ctl := c.s1 y
      let k := bits ctl.toNat 0 12
      let zeroC := ctl.getLsbD 14
      let hd : Word := (c.s1 d).extractLsb' 0 16 |>.setWidth 32
      let hc : Word := (c.s1 d).extractLsb' 16 16 |>.setWidth 32
      let ha : Word := (c.s1 x).extractLsb' 0 16 |>.setWidth 32
      let hb : Word := (c.s1 x).extractLsb' 16 16 |>.setWidth 32
      if k % 32 ≠ 0 || decide (k < 32) || decide (k > 2048) || ctl.toNat ≥ 2 ^ 15 then c.trap Cause.illegalOperand (wordOf i)
      else c.definable s i hd false fun name n =>
        c.handle s i ha fun na xa => c.handle s i hb fun nb xb =>
          -- a DYING or failed operand faults as a read does (R177), once steps 1 to 5 have passed (log 37)
          let bad (q : Word × Name) : Option (Byte × Word) :=
            match q.2.read c.tid c.inRegion false with | .fault cause => some (cause, q.1) | _ => none
          let go (reads : List (Word × Name)) : Res :=
            if na = name || nb = name || (!zeroC && handleName hc.toNat = name) then c.trap Cause.tileRedefine hd
            else if (s.taskQueue c.clu).length ≥ 256 then .park s .taskQueue
            else match reads.findSome? bad with
              | some (cause, w) => c.trap cause w
              | none =>
                let (id, s) := s.serial
                let task : Task :=
                  { clu := c.clu, d := hd.extractLsb' 0 16, c := if zeroC then 0 else hc.extractLsb' 0 16,
                    a := ha.extractLsb' 0 16, b := hb.extractLsb' 0 16, ctl := ctl, team := c.tid, slot := c.t.slot,
                    core := c.core, ctx := c.t.ctx, group := c.t.group, serial := id, step := 0, st := .waiting, cause := 0, addr := c.f.addr, region := c.inRegion,
                    fp64 := false, acc := [], reads := [] }
                let s := c.define s name n (.task id)
                let s := ({ s with tasks := s.tasks.put id task }).feedTask id
                let parked := match s.tasks.get? id with
                  | some k => (k.operands.eraseDups.filter fun n => !k.reads.contains n).length
                  | none => 0
                .done (s.pmc c.core 0x11 parked c.t.ctx)
          if zeroC then go [(ha, xa), (hb, xb)] else c.handle s i hc fun _ xc => go [(ha, xa), (hb, xb), (hc, xc)])) s

/-- The rows of R232 by format. -/
def macRow (fmt : Nat) : Nat :=
  if fmt = 1 then 0 else if fmt = 0 then 1 else if fmt = 2 || fmt = 3 then 2 else if hasScale fmt then 3 else 4
/-- K per step of a row. -/
def macDepth (row : Nat) : Nat := if row = 3 then 2 else if row = 4 then 8 else 1

/-- The shape check at dispatch (R366). -/
def macShapes (k : Nat) (a b : Shape) (c : Option Shape) : Bool :=
  macRow a.fmt = macRow b.fmt && a.cols = k && b.rows = k &&
  (if a.fmt = 1 then
     a.rows = 64 && b.cols = 32 && (match c with | some c => c.fmt = 1 && c.rows = 64 && c.cols = 32 | none => true)
   else
     a.rows = 128 && b.cols = 64 && (match c with | some c => c.fmt = 0 && c.rows = 128 && c.cols = 64 | none => true))

/-- The value an operand of a task stands for, as its tier gives it. -/
def State.operand (s : State) (k : Task) (h : BitVec 16) : Shape × TileData :=
  let n := s.name k.clu (handleName h.toNat)
  match n.defn with
  | some (.held g img) => (g, .ok img)
  | _ => (n.shape, s.tileData k.clu (handleName h.toNat) n)

/-- Tasks that run on a core's engine, and completed Ds that its banks still hold (R367). -/
def State.running (s : State) (core : Nat) : Nat := (s.tasks.filter fun p => p.2.st = .running core).length
def State.banked (s : State) (clu core : Nat) : List (Nat × Name) :=
  (s.clu clu).names.filter fun p => p.2.tier = 1 && p.2.base = core && p.2.st ≠ .free

/-- A core of the cluster whose engine has an accumulator bank that no task runs in, the named one first (R366). -/
def State.freeBank (s : State) (clu core : Nat) : Option Nat :=
  (core :: (List.range 12).map (12 * clu + ·)).find? fun c => decide (cluOfCore c = clu) && decide (s.running c < 2)

/-- Free a bank of an engine for its next task: a completed D left in it moves to another tier (R367). A value not yet placed
stands with its definition. None where no tier has room. -/
def State.emptyBank (s : State) (clu core : Nat) : Option State :=
  if s.running core + (s.banked clu core).length < 2 then some s
  else match s.banked clu core with
    | [] => some s
    | (name, n) :: _ =>
      if n.st = .defined then s.moveTile clu name [3, 4, 5]
      else some (s.setName clu name { n with tier := 0, base := 0 })

/-- The first cells of a task: C's elements, or zeros under zeroC; or its error. -/
def State.firstCells (s : State) (k : Task) (rows cols : Nat) : Except Byte (List DWord) :=
  if k.step ≠ 0 then .ok k.acc
  else if k.ctl.getLsbD 14 then .ok (List.replicate (rows * cols) 0)
  else match s.operand k k.c with
    | (_, .bad cause _) => .error cause
    | (h, .ok img) => .ok ((List.range (rows * cols)).map fun i => BitVec.ofNat 64 (elemCode h.fmt img (h.index (i / cols) (i % cols))))

/-- TILE_TASK_DISPATCH (R366, R367): in the order records became ready, to an engine with a free bank, after the shape check; B
is staged in the Garnet stack above it. -/
def execTileTaskDispatch (id core : Nat) (s : State) : Host.Outcome State Fault Refusal :=
  event (
    match s.tasks.get? id with
    | none => s
    | some k =>
      if k.st ≠ .ready then s
      else
        let first := s.tasks.all fun p => !(p.2.clu = k.clu && p.2.st = .ready && decide (p.2.serial < k.serial))
        match s.freeBank k.clu core with
        | none => s.post (.tileTaskDispatch id core)
        | some e =>
          if !first then s.post (.tileTaskDispatch id core)
          else match s.emptyBank k.clu e with
            | none => s.post (.tileTaskDispatch id core)
            | some s =>
              let zeroC := k.ctl.getLsbD 14
              let ha := (s.operand k k.a).1
              let hb := (s.operand k k.b).1
              let hc := (s.operand k k.c).1
              if !macShapes (bits k.ctl.toNat 0 12) ha hb (if zeroC then none else some hc) then s.failTask id Cause.tileShape
              else
                let fp64 := decide (ha.fmt = 1)
                let (rows, cols) := if fp64 then (64, 32) else (128, 64)
                match s.firstCells k rows cols, s.stage k.clu (handleName k.b.toNat) e with
                | .error cause, _ => s.failTask id cause
                | _, .error (cause, _) => s.failTask id cause
                | .ok acc, .ok s =>
                  ({ s with tasks := s.tasks.put id { k with st := .running e, fp64 := fp64, acc := acc } }).post
                    (.tileStepBlock id))

/-- One step into an accumulator cell (R232, R233): a fused multiply-add, or the exact sum of a step's products, rounded
once. -/
def macStep (f : Fmt) (acc : Nat) (ps : List (FV × FV)) : Nat :=
  match ps with
  | [(x, y)] => ((fmaPre f FEnv.plain false false x y (f.decode acc)).finish f FEnv.plain 0).1
  | _ =>
    let prods := ps.map fun p => fvMul p.1 p.2
    ((faddPre f FEnv.plain false (fvSum prods) (f.decode acc)).finish f FEnv.plain 0).1
where
  /-- The exact product. -/
  fvMul (x y : FV) : FV :=
    match x, y with
    | .fin s m e, .fin t n k => .fin (s != t) (m * n) (e + k)
    | .inf s, .fin t n _ => if n = 0 then blockNan else .inf (s != t)
    | .fin s m _, .inf t => if m = 0 then blockNan else .inf (s != t)
    | .inf s, .inf t => .inf (s != t)
    | _, _ => blockNan
  /-- The exact sum; a sum of zeros is −0 only if all are −0. -/
  fvSum (vs : List FV) : FV :=
    match vs with
    | [] => .fin false 0 0
    | v :: rest => rest.foldl fvAdd v
  fvAdd (x y : FV) : FV :=
    match x, y with
    | .fin s m e, .fin t n k =>
      let q := min e k
      let a : Int := (m : Int) * 2 ^ (e - q).toNat * (if s then -1 else 1)
      let b : Int := (n : Int) * 2 ^ (k - q).toNat * (if t then -1 else 1)
      if a + b = 0 then .fin (s && t && m = 0 && n = 0) 0 q else .fin (decide (a + b < 0)) (a + b).natAbs q
    | .inf s, .inf t => if s = t then .inf s else blockNan
    | .inf s, .fin .. => .inf s
    | .fin .., .inf t => .inf t
    | _, _ => blockNan

/-- Cycles of a step (R367): 4 for FP32, 16 for FP64, else 1. -/
def macCycles (fmt : Nat) : Nat := if fmt = 0 then 4 else if fmt = 1 then 16 else 1

/-- One step block of a task: 32 values of K into every cell, in steps of the row's depth; column n of B comes from `col n`. -/
def Task.block (k : Task) (ha : Shape) (ia : List Byte) (col : Nat → List FV) : List DWord :=
  let f := if k.fp64 then Fmt.fp64 else Fmt.fp32
  let depth := macDepth (macRow ha.fmt)
  let k0 := k.step * depth
  let (rows, cols) := if k.fp64 then (64, 32) else (128, 64)
  let flip (neg : Bool) (v : FV) : FV := if neg then v.negated else v
  let as_ := (List.range rows).map fun m => (List.range 32).map fun j => flip (k.ctl.getLsbD 12) (tileValue ha ia m (k0 + j))
  let bs := (List.range cols).map fun n => (((col n).drop k0).take 32).map (flip (k.ctl.getLsbD 13))
  let cells := as_.flatMap fun a => bs.map fun b => a.zip b
  (k.acc.zip cells).map fun p =>
    BitVec.ofNat 64 ((chunks depth 33 p.2).foldl (fun acc st => macStep f acc st) p.1.toNat)

/-- The last step is done (R367): D's definition completes, its value in the accumulator tier of the engine's core. -/
def State.finishTask (s : State) (id : Nat) (k : Task) (core : Nat) (acc : List DWord) : State :=
  let name := handleName k.d.toNat
  let s := s.dropTask id
  let n := s.name k.clu name
  if n.defn ≠ some (.task id) then s
  else
    let h : Shape := if k.fp64 then ⟨1, false, 64, 32, 127⟩ else ⟨0, false, 128, 64, 127⟩
    let img := acc.flatMap fun x => natLe (if k.fp64 then 8 else 4) x.toNat
    (s.setName k.clu name { n with defn := some (.image h img), tier := 1, base := core }).post (.tileDefinitionComplete k.clu name)

/-- TILE_STEP_BLOCK (R96, R367, R368): a running task advances by one block, its B read from the Garnet slices and restaged
where no good copy stands there, and at its end D's definition completes in the accumulator tier; a cancelled one stops
here and writes nothing. -/
def execTileStepBlock (id : Nat) (s : State) : Host.Outcome State Fault Refusal :=
  event (
    match s.tasks.get? id with
    | none => s
    | some k =>
      match k.st with
      | .cancelled => s.stopTask id
      | .running core =>
        match s.stage k.clu (handleName k.b.toNat) core with
        | .error (cause, _) => s.failTask id cause
        | .ok s =>
          match s.operand k k.a, (s.core core).garnet.find? fun g => g.name = handleName k.b.toNat with
          | (_, .bad cause _), _ => s.failTask id cause
          | _, none => s.post (.tileStepBlock id)
          | (ha, .ok ia), some g =>
            let depth := macDepth (macRow ha.fmt)
            let acc := k.block ha ia g.slice
            let step := k.step + 32 / depth
            let s := (s.pmc core 0x13 (32 / depth) k.ctx).pmc core 0x12 (32 / depth * macCycles ha.fmt) k.ctx
            if step * depth < bits k.ctl.toNat 0 12 then
              ({ s with tasks := s.tasks.put id { k with acc := acc, step := step } }).post (.tileStepBlock id)
            else s.finishTask id k core acc
      | _ => s)

end Sys2Proof.Machine
end

