-- ==== Sys2Proof/Machine/Packets.lean ====
section
/-!
DEFINITION. Sys2Proof/Machine/Packets.lean: host command queues and their packets (R155–R158): which packet may start, how
one completes, and how a queue is aborted. The packets' own work stands in Host.lean.
-/
namespace Sys2Proof.Machine

/-! ## Host writes (R425) -/

/-- The number that stands for the host where an access asks for a context. -/
def hostCtx : Nat := 65
/-- The serial number of a host write that has not been performed. -/
def hostWrite? : Instr → Option Nat
  | .writeThroughStore r => if r.ctx = hostCtx then some r.id else none
  | _ => none
/-- The host writes that have not been performed. -/
def State.hostIds (s : State) : List Nat :=
  (s.pending ++ s.held.flatMap fun p => p.2.req :: p.2.behind).filterMap hostWrite?
/-- The held request behind which host writes wait. -/
def State.hostHeld (s : State) : Option (Nat × Held) :=
  s.held.find? fun p => (p.2.req :: p.2.behind).any fun e => (hostWrite? e).isSome

/-! ## Headers (R156) -/

def pType (h : Nat) : Nat := bits h 0 8
def pBarrier (h : Nat) : Bool := bits h 8 1 = 1
def pCqe (h : Nat) : Bool := bits h 9 1 = 1
def pAbort (h : Nat) : Nat := bits h 16 6
def pTag (h : Nat) : Nat := bits h 32 32
/-- Packets a ring holds (R155). -/
def CmdQueue.ring (c : CmdQueue) : Nat := 64 * 2 ^ c.size
/-- The index of the next packet that SUBM appends: those appended whose stores are not performed count (R373). -/
def CmdQueue.next (c : CmdQueue) : Word := c.wridx + BitVec.ofNat 32 (c.bells.filter (·.value.isNone)).length
/-- Its ring is full (R155, R373). -/
def CmdQueue.full (c : CmdQueue) : Bool := decide ((c.next - c.rdidx).toNat ≥ c.ring)
/-- A move of WRIDX is acted on. -/
def CmdQueue.ring1 (c : CmdQueue) (b : Bell) : CmdQueue :=
  { c with wridx := match b.value with | some w => w | none => c.wridx + 1 }
/-- Every move of WRIDX that waits is acted on, as a write of STATE finds it (R155). -/
def CmdQueue.rung (c : CmdQueue) : CmdQueue := { c.bells.foldl CmdQueue.ring1 c with bells := [] }
/-- The moves of WRIDX are acted on in order, up to one whose stores are not all performed (R373, R425). -/
def CmdQueue.act (isOpen : Nat → Bool) : List Bell → CmdQueue → CmdQueue
  | [], c => { c with bells := [] }
  | b :: bs, c => if b.stores.any isOpen then { c with bells := b :: bs } else CmdQueue.act isOpen bs (c.ring1 b)

def State.modCmdq (s : State) (q : Nat) (f : CmdQueue → CmdQueue) : State :=
  s.modMgmt fun m => { m with cmdq := m.cmdq.put q (f (m.cmd q)) }
/-- Change a started packet. -/
def State.modStarted (s : State) (q idx : Nat) (f : Started → Started) : State :=
  s.modCmdq q fun c => { c with started := c.started.map fun p => if p.index = idx then f p else p }
/-- A started packet that has not aborted its queue. -/
def State.started? (s : State) (q idx : Nat) : Option Started := (s.mgmt.cmd q).started.find? fun p => p.index = idx && p.aborted.isNone

/-- The rules on a packet's bits (R156, R158); the packet as a number of 512 bits. DESIGN CHOICE (log 40): a SIGNAL operation of 3 to
255 and a WORK count above 65,535, which R156 does not define and R158 does not list, count as malformed; an address of a
packet or of an abort list with bits [63:56] other than zero, for which the spec names no cause, is no malformed one, and
the walk ignores those bits. -/
def packetOk (p : Nat) : Bool :=
  bits p 10 6 = 0 && bits p 22 10 = 0 &&
  (let a := bits p 64 64
   match pType p with
   | 1 => a % 64 = 0 && decide (1 ≤ bits p 128 32) && decide (bits p 128 32 ≤ 65535) && bits p 160 352 = 0
   | 2 => (List.range 6).all fun i => decide (bits p (128 + 64 * i) 3 ≤ 4) && bits p (184 + 64 * i) 8 = 0
   | 3 => a % 8 = 0 && decide (bits p 192 8 ≤ 2) && bits p 200 312 = 0
   | 4 => a % 128 = 0 && bits p 128 384 = 0
   | 5 => a % 64 = 0 && bits p 128 384 = 0
   | 6 => bits p 64 448 = 0
   | _ => false)

/-! ## Which packet may start (R157, R424) -/

/-- Whether a queue's context belongs to its function. -/
def State.queueOwn (s : State) (q : Nat) : Bool :=
  match s.funcOfQueue q with
  | some f => bits (s.ctxMask f) (s.mgmt.cmd q).ctx 1 = 1
  | none => false

/-- The queue is ACTIVE, holds a packet that has not started, and no earlier BARRIER or WAIT holds it. -/
def State.mayStart (s : State) (q : Nat) : Bool :=
  let c := s.mgmt.cmd q
  c.st = 1 && c.rdidx ≠ c.wridx && s.queueOwn q &&
    c.started.all fun p => !(pBarrier p.header.toNat) && pType p.header.toNat ≠ 2

/-- The virtual address of a packet. -/
def CmdQueue.slot (c : CmdQueue) (idx : Nat) : Nat := c.base.toNat + 64 * (idx % c.ring)

/-- The packet that would start next, if the queue may start one and its ring can be read. -/
def State.nextPacket (s : State) (q : Nat) : Option Nat × State :=
  if !s.mayStart q then (none, s)
  else
    let c := s.mgmt.cmd q
    match s.frontRead c.ctx (c.slot c.rdidx.toNat) 64 with
    | (.inr _, s) => (none, s)
    | (.inl bs, s) => (some (leNat bs), s)

/-- A packet starts: RDIDX moves past it; its index. -/
def State.startPacket (s : State) (q p : Nat) : Nat × State :=
  let idx := (s.mgmt.cmd q).rdidx
  (idx.toNat, s.modCmdq q fun c => { c with
    rdidx := idx + 1,
    started := c.started ++ [{ index := idx.toNat, header := BitVec.ofNat 64 p, body := BitVec.ofNat 512 p, done := false,
                               status := 0, appended := 0, aborted := none }] })

/-! ## Aborting a queue (R158) -/

/-- Store an abort value to the signals of list j, those whose store faults left out; the stores' serial numbers. -/
def State.abortList (s : State) (q j : Nat) (value : DWord) : List Nat × State :=
  if j = 0 then ([], s)
  else
    let c := s.mgmt.cmd q
    match s.frontRead c.ctx (c.abtBase.toNat + 32 * (j - 1)) 32 with
    | (.inr _, s) => ([], s)
    | (.inl bs, s) =>
      (List.range 4).foldl (fun (ids, s) i =>
        let va := leNat ((bs.drop (8 * i)).take 8)
        if va = 0 then (ids, s)
        else match s.signalXlat c.ctx va true with
          | (.inr _, s) => (ids, s)
          | (.inl pa, s) =>
            let (id, s) := s.signalStore 0 c.ctx pa value
            (ids ++ [id], s)) ([], s)

/-- Post a packet's completion entry in the queue that CQ names (R155, R160). -/
def State.packetEntry (s : State) (q : Nat) (p : Started) (status : Byte) (appended : Nat) : State :=
  let c := s.mgmt.cmd q
  s.complete c.cq
    (completionEntry (pTag p.header.toNat) q status.toNat (pType p.header.toNat) p.index
      (if pType p.header.toNat = 1 && status ≠ 0 then appended else 0))

/-- MARKERs whose earlier packets have all completed complete, in order. -/
def State.finishMarkers (s : State) (q : Nat) : Nat → State
  | 0 => s
  | fuel + 1 =>
    match (s.mgmt.cmd q).started with
    | [] => s
    | p :: rest =>
      if pType p.header.toNat = 6 then
        let s := s.modCmdq q fun c => { c with started := rest }
        let s := if pCqe p.header.toNat then s.packetEntry q p 0 0 else s
        State.finishMarkers s q fuel
      else s

/-- Packets that have aborted their queue are over once their abort lists are stored: their entries are posted whatever CQE says
(R158). -/
def State.closeAborted (s : State) (q : Nat) : State :=
  let ready := (s.mgmt.cmd q).started.filter fun p => match p.aborted with | some ids => !(ids.any s.writeOpen) | none => false
  let s := ready.foldl (fun s p =>
    let s := s.modCmdq q fun c => { c with started := c.started.filter fun x => !(x.index = p.index && x.aborted.isSome) }
    (s.packetEntry q p p.status p.appended).finishMarkers q ((s.mgmt.cmd q).started.length + 1)) s
  if (s.mgmt.cmd q).started.any fun p => p.aborted.isSome then s.postOnce (.markerPacket q) else s

/-- The queue enters ABORTED by a started packet: no more start, and its abort list is stored, then its entry posted. -/
def State.abortPacket (s : State) (q idx : Nat) (status : Byte) (value : DWord) : State :=
  match s.started? q idx with
  | none => s
  | some p =>
    let (ids, s) := (s.modCmdq q fun c => { c with st := 2 }).abortList q (pAbort p.header.toNat) value
    (s.modStarted q idx fun p => { p with status := status, aborted := some ids }).closeAborted q

/-! ## Completing a packet (R156, R157) -/

/-- Let the next packet of a queue start, if it may: its event is posted; one of a reserved type aborts the queue. -/
def State.pokeQueue (s : State) (q : Nat) : State :=
  match s.nextPacket q with
  | (none, s) => s
  | (some p, s) =>
    match pType p with
    | 1 => s.post (.workPacket q)
    | 2 => s.post (.waitPacket q)
    | 3 => s.post (.signalPacket q)
    | 4 => s.post (.copyPacket q)
    | 5 => s.post (.graphPacket q)
    | 6 => s.post (.markerPacket q)
    | _ =>
      let (idx, s) := s.startPacket q p
      s.abortPacket q idx Cause.cmdInvalid (BitVec.allOnes 64)

/-- Act on the moves of WRIDX that may be acted on, and let the next packet start; MARKER_PACKET looks again at those that
wait. -/
def State.pokeBells (s : State) (q : Nat) : State :=
  let s := s.modCmdq q fun c => c.act s.writeOpen c.bells
  (if (s.mgmt.cmd q).bells.isEmpty then s else s.postOnce (.markerPacket q)).pokeQueue q

/-- A started packet completes with a status: its entry is posted if CQE is 1, waiting MARKERs complete, and the next
packet may start. -/
def State.finishPacket (s : State) (q idx : Nat) (status : Byte) : State :=
  match s.started? q idx with
  | none => s
  | some p =>
    let s := s.modCmdq q fun c => { c with started := c.started.filter fun x => x.index ≠ idx }
    let s := if pCqe p.header.toNat then s.packetEntry q p status p.appended else s
    (s.finishMarkers q ((s.mgmt.cmd q).started.length + 1)).pokeQueue q

/-- Start the queue's next packet if it is of a type: a malformed one aborts the queue, else `k` runs on its index and the
packet. -/
def State.startType (s : State) (q type : Nat) (k : State → Nat → Nat → State) : State :=
  match s.nextPacket q with
  | (none, s) => s
  | (some p, s) =>
    if pType p ≠ type then s
    else if !packetOk p then
      let (idx, s) := s.startPacket q p
      s.abortPacket q idx Cause.cmdInvalid (BitVec.allOnes 64)
    else
      let (idx, s) := s.startPacket q p
      (k s idx p).pokeQueue q

end Sys2Proof.Machine
end

