-- ==== Sys2Proof/Machine/Engines.lean ====
section
/-!
DEFINITION. Sys2Proof/Machine/Engines.lean: job cards and the copy, gather and collective engines (R86, R135–R137,
R192–R194, R369, R370, R430, R431), task graphs (R43, R190, R191, R371, R372), and the instructions that submit packets
and that wait on and update signals (R201, R202, R373–R375).
-/
namespace Sys2Proof.Machine

/-! ## Job cards (R192, R193) -/

/-- A footprint of a card. -/
structure Foot where
  base  : Nat
  len   : Nat
  w     : Bool
  valid : Bool
  rsvd  : Nat
  deriving DecidableEq, Repr

def cardFoot (c j : Nat) : Foot :=
  let x := bits c (256 + 128 * j) 128
  ⟨bits x 0 56, bits x 64 40, bits x 56 1 = 1, bits x 57 1 = 1, bits x 58 6 + bits x 104 24⟩
/-- Byte k of a card. -/
def cardByte (c k : Nat) : Nat := bits c (8 * k) 8
def cardEngine (c : Nat) : Nat := bits c 0 4
def cardReplay (c : Nat) : Bool := bits c 4 1 = 1
def cardSigen (c : Nat) : Bool := bits c 5 1 = 1
def cardArren (c : Nat) : Bool := bits c 6 1 = 1
def cardLocal (c : Nat) : Bool := bits c 7 1 = 1
def cardSignal (c : Nat) : Nat := bits c 64 64
def cardValue (c : Nat) : DWord := BitVec.ofNat 64 (bits c 128 64)
def cardArrival (c : Nat) : Nat := bits c 192 32
def cardTeam (c : Nat) : Nat := bits c 224 8

/-- The footprints a card uses: those it reads, and its destination. -/
def cardRoles (c : Nat) : List Nat × Nat :=
  if cardEngine c = 1 then ([cardByte c 96], cardByte c 97)
  else if cardEngine c = 2 then ([cardByte c 96, cardByte c 97], cardByte c 98)
  else ([0], 1)

/-- A collective's parameters (R430). -/
def colOp (c : Nat) : Nat := cardByte c 96
def colType (c : Nat) : Nat := cardByte c 97
def colRop (c : Nat) : Nat := cardByte c 98
def colRank (c : Nat) : Nat := bits c 800 16
def colRanks (c : Nat) : Nat := bits c 816 16
def colTable (c : Nat) : Nat := bits c 832 64
/-- Bytes of an element of a collective's type. -/
def colBytes (c : Nat) : Nat :=
  let t := colType c
  if t = 3 || t = 5 then 8 else if t = 1 || t = 2 then 2 else 4

/-- The engine parameters' own rules. -/
def cardParamsOk (c : Nat) : Bool :=
  let (src, dst) := cardRoles c
  let d := cardFoot c dst
  let f (i : Nat) : Foot := cardFoot c (src.getD i 0)
  if cardEngine c = 1 then bits c 784 240 = 0 && (f 0).len = d.len
  else if cardEngine c = 2 then
    bits c 800 224 = 0 && decide (cardByte c 99 ≤ 3) && decide (d.len ≥ (f 1).len / 4 * 2 ^ cardByte c 99)
  else
    decide (colOp c ≤ 2) && decide (colType c ≤ 5) && (colOp c = 1 || decide (colRop c ≤ 2)) && cardByte c 99 = 0 &&
    bits c 960 64 = 0 && decide (2 ≤ colRanks c) && decide (colRanks c ≤ 1024) && decide (colRank c < colRanks c) &&
    !(f 0).w && d.w && (f 0).len % colBytes c = 0 && d.len % colBytes c = 0 &&
    (if colOp c = 0 then (f 0).len = d.len else if colOp c = 1 then d.len = colRanks c * (f 0).len
     else (f 0).len = colRanks c * d.len)

/-- R193: whether a card is accepted, for a group of `teams` teams whose local range has `len` bytes (0 and 0 outside a
group). -/
def cardOk (c teams len : Nat) : Bool :=
  let (src, dst) := cardRoles c
  decide (1 ≤ cardEngine c) && decide (cardEngine c ≤ 3) && bits c 8 56 = 0 && bits c 232 24 = 0 &&
  ((List.range 4).all fun j => (cardFoot c j).rsvd = 0) &&
  ((src ++ [dst]).all fun j => decide (j < 4) && (cardFoot c j).valid && decide (0 < (cardFoot c j).len)) &&
  cardParamsOk c &&
  (!cardLocal c || (decide (cardTeam c < teams) && decide ((cardFoot c dst).base + (cardFoot c dst).len ≤ len))) &&
  (!cardArren c || (decide (cardTeam c < teams) && cardArrival c % 8 = 0 && decide (cardArrival c + 8 ≤ len)))

/-! ## Trackers (R136, R194) -/

/-- A card that has not completed. -/
def Card.open (k : Card) : Bool := match k.st with | .done _ => false | _ => true
/-- The outstanding cards of a stream. -/
def State.tracker (s : State) (x : Stream) : List (Nat × Card) := s.cards.filter fun p => p.2.stream = x && p.2.open
def State.trackerFull (s : State) (x : Stream) : Bool := decide ((s.tracker x).length ≥ 32)

/-- The virtual ranges of a card's footprints (R136, R192), with whether it writes them; a local destination is no virtual
range. -/
def Card.ranges (k : Card) : List (Nat × Nat × Bool) :=
  let c := k.img.toNat
  let (src, dst) := cardRoles c
  (List.range 4).filterMap fun j =>
    let f := cardFoot c j
    if !f.valid || (cardLocal c && j = dst && !src.contains j) then none
    else some (f.base, f.len, f.w || (j = dst && !cardLocal c))
/-- Two cards overlap, and at least one writes there (R136). -/
def Card.conflicts (a b : Card) : Bool :=
  a.ranges.any fun x => b.ranges.any fun y =>
    (x.2.2 || y.2.2) && decide (x.1 < y.1 + y.2.1) && decide (y.1 < x.1 + x.2.1)

/-- A card enters its stream. -/
def State.submitCard (s : State) (x : Stream) (ctx clu core base len arr addr : Nat) (img : Nat) (packet : Option (Nat × Nat)) :
    Nat × State :=
  let (id, s) := s.serial
  let k : Card :=
    { stream := x, ctx := ctx, clu := clu, core := core, base := base, len := len, arrivalAddr := arr, addr := addr,
      img := BitVec.ofNat 1024 img, order := id, st := .waiting, offset := 0, buf := [], heard := [], began := s.ns, stores := [],
      packet := packet }
  (id, ({ s with cards := s.cards.put id k }).post (.cardStart id))

def State.modCard (s : State) (id : Nat) (f : Card → Card) : State := { s with cards := s.cards.modify id f }

/-- A team's card while an image of its context waits to be restored on its cluster: nothing of it moves (R194, R200). -/
def State.cardAway (s : State) (k : Card) : Bool := k.ofTeam && (s.image? k.ctx k.clu).isSome

/-- CARD_START (R136): a card begins once no earlier card of its stream that it conflicts with is outstanding, and while no
image of its context waits to be restored on its cluster. -/
def execCardStart (id : Nat) (s : State) : Host.Outcome State Fault Refusal :=
  event (
    match s.cards.get? id with
    | none => s
    | some k =>
      if k.st ≠ .waiting || s.cardAway k then s
      else if (s.tracker k.stream).any fun p => decide (p.2.order < k.order) && p.2.conflicts k then s.post (.cardStart id)
      else
        let s := (s.modCard id fun k => { k with st := .running, began := s.ns }).post (.cardTransfer id)
        if cardEngine k.img.toNat = 3 then s.postOnce (.collectiveTimeout id) else s)

/-! ## Transfers (R137, R370) -/

/-- What one transfer did. -/
inductive Moved where
  /-- It put bytes; the card as it stands. -/
  | ok (k : Card)
  /-- The last one was done before. -/
  | finished
  /-- A link retrains, or a peer has not been heard. -/
  | wait
  /-- A footprint fails a check of R80, at an address. -/
  | fault (cause : Byte) (write : Bool) (va : Nat)
  /-- The card ends with this status. -/
  | stop (status : Byte)
  deriving DecidableEq, Repr

/-- A failure that a card's access to an aperture meets (R427): the host's ends it with CARD_FAULT, a link's with LINK_DOWN, and a
fault of the peer is a footprint's (R428). -/
def State.cardFailed (s : State) (f : ApFail) (write : Bool) (va : Nat) : Moved × State :=
  if !s.failDue f then (.wait, s.sendFail f)
  else
    let s := s.metFail f.who f.cause
    if !f.fabric then (.stop Cause.cardFault, s)
    else if f.cause = Cause.linkDown then (.stop Cause.linkDown, s) else (.fault f.cause write va, s)

/-- Causes that end a card and that no agent repairs (R97, R427). -/
def endsCard (cause : Byte) : Bool := cause = Cause.linkDown || cause = Cause.eccUncorrectedMem

/-- Translate a transfer's pieces, all before any is accessed; what ends the transfer, if anything does. -/
def State.cardReach (s : State) (k : Card) (write : Bool) : List (Nat × Nat) → Option Moved × State
  | [] => (none, s)
  | (va, _) :: rest =>
    if va ≥ 2 ^ 56 then (some (.fault Cause.addrNoncanon write va), s)
    else match s.engineReach k.clu k.ctx va write with
      | (.wait, s) => (some .wait, s)
      | (.fault cause, s) => (some (if endsCard cause then .stop cause else .fault cause write va), s)
      | (.ok pa, s) =>
        match s.apFail (.card k.order) pa with
        | some f =>
          let (m, s) := s.cardFailed f write va
          (some m, s)
        | none => State.cardReach s k write rest

/-- Read bytes for a card. -/
def State.cardRead (s : State) (k : Card) (va n : Nat) (f : State → List Byte → Moved × State) : Moved × State :=
  match s.cardReach k false (pagePieces 2 va n) with
  | (some m, s) => (m, s)
  | (none, s) =>
    match s.enginePieces k.clu k.ctx (pagePieces 2 va n) [] with
    | (.wait, s) => (.wait, s)
    | (.fault cause, s) => (if endsCard cause then .stop cause else .fault cause false va, s)
    | (.ok bs, s) => f s bs

/-- Bytes of a card's destination. -/
def cardTotal (c : Nat) : Nat :=
  if cardEngine c = 2 then (cardFoot c (cardByte c 97)).len / 4 * 2 ^ cardByte c 99 else (cardFoot c (cardRoles c).2).len
/-- Bytes a card has put into its destination: `offset` counts a collective's source bytes before them. -/
def Card.put (k : Card) : Nat := if cardEngine k.img.toNat = 3 then k.offset - (cardFoot k.img.toNat 0).len else k.offset
/-- Bytes a card has for its destination, put or at hand. -/
def Card.got (k : Card) : Nat := k.put + k.buf.length
/-- Where a card's next byte goes: a local-store offset of its core, or a virtual address. -/
def Card.target (k : Card) : Nat :=
  let c := k.img.toNat
  (if cardLocal c then k.base else 0) + (cardFoot c (cardRoles c).2).base + k.put

/-- Put bytes at a card's target: in the local store, where they then arrive (R200), or at home. -/
def State.cardPlace (s : State) (k : Card) (bs : List Byte) : Moved × State :=
  let c := k.img.toNat
  let k' := { k with offset := k.offset + bs.length }
  if cardLocal c then
    let s := s.lwrite k.core k.target bs
    (.ok k', if cardArren c then s.arrive k.core k.arrivalAddr bs.length else s)
  else
    let ps := pagePieces 2 k.target bs.length
    match s.cardReach k true ps with
    | (some m, s) => (m, s)
    | (none, s) =>
      match s.engineStores k.clu k.ctx ps bs [] with
      | (.inr none, s) => (.wait, s)
      | (.inr (some cause), s) => (if endsCard cause then .stop cause else .fault cause true k.target, s)
      | (.inl ids, s) => (.ok { k' with stores := k.stores ++ ids }, s)

/-- A transfer (R137, R200): of the bytes at hand, `bs` after those kept, at most 128 are put, up to a word boundary of the
destination or its end, so that no aligned word of it is ever seen in part. -/
def State.cardPut (s : State) (k : Card) (bs : List Byte) : Moved × State :=
  let hand := k.buf ++ bs
  let n := if decide (hand.length ≤ 128) && decide (k.put + hand.length ≥ cardTotal k.img.toNat) then hand.length
    else (k.target + min 128 hand.length) / 4 * 4 - k.target
  if n = 0 then (.ok { k with buf := hand }, s) else s.cardPlace { k with buf := hand.drop n } (hand.take n)

/-- Bytes of a read at an address that ends at a 128-byte boundary at the latest, so that it takes each aligned word whole. -/
def burstLen (va left : Nat) : Nat := min left (128 - va % 128)

/-- One transfer of a copy card. -/
def State.copyStep (s : State) (k : Card) : Moved × State :=
  let f := cardFoot k.img.toNat ((cardRoles k.img.toNat).1.headD 0)
  if k.put ≥ f.len then (.finished, s)
  else if k.got ≥ f.len then s.cardPut k []
  else s.cardRead k (f.base + k.got) (burstLen (f.base + k.got) (f.len - k.got)) fun s bs => s.cardPut k bs

/-- One element of a gather card. -/
def State.gatherStep (s : State) (k : Card) : Moved × State :=
  let c := k.img.toNat
  let table := cardFoot c (cardByte c 96)
  let index := cardFoot c (cardByte c 97)
  let e := 2 ^ cardByte c 99
  if k.put ≥ cardTotal c then (.finished, s)
  else if k.got ≥ cardTotal c then s.cardPut k []
  else s.cardRead k (index.base + 4 * (k.got / e)) 4 fun s ib =>
    let j := leNat ib
    if (j + 1) * e > table.len then (.stop Cause.cardFault, s)
    else s.cardRead k (table.base + j * e) e fun s bs => s.cardPut k bs

/-! ## Collectives (R430, R431) -/

/-- A rank's data as this rank holds it. -/
def Card.rank (k : Card) (r : Nat) : List Byte := k.heard.getD r []
/-- Combine two elements. -/
def colCombine (c x y : Nat) : Nat :=
  let t := colType c
  if t = 4 || t = 5 then
    let ty := intTy (if t = 4 then 0 else 2)
    bankInt (if colRop c = 0 then 1 else if colRop c = 1 then 5 else 6) ty x y
  else
    let f := if t = 0 then Fmt.fp32 else if t = 1 then Fmt.bf16 else if t = 2 then Fmt.fp16 else Fmt.fp64
    bankFloat (7 + colRop c) f x y
/-- Bytes [off, off + n) of the destination: a rank's source, or the elements combined in rank order. -/
def Card.colResult (k : Card) (off n : Nat) : List Byte :=
  let c := k.img.toNat
  let ls := (cardFoot c 0).len
  if colOp c = 1 then (List.range n).map fun i => ((k.rank ((off + i) / ls)).getD ((off + i) % ls) 0)
  else
    let e := colBytes c
    let start := (if colOp c = 2 then colRank c * (cardFoot c 1).len else 0) + off
    let elem (r i : Nat) : Nat := leNat (((k.rank r).drop (start + i * e)).take e)
    (List.range (n / e)).flatMap fun i =>
      natLe e (((List.range (colRanks c)).drop 1).foldl (fun acc r => colCombine c acc (elem r i)) (elem 0 i))

/-- Whether a link towards some peer of the card's collective is down (R431). -/
def State.rankLinkDown (s : State) (k : Card) (table : List Byte) : Bool :=
  let c := k.img.toNat
  (List.range (colRanks c)).any fun r =>
    r ≠ colRank c &&
      s.linkState (apPort (s.apEntry (dieOfClu k.clu) (leNat ((table.drop (2 * r)).take 2) % 1024))) = Link.down

/-- One transfer of a collective card: its own source first, then, once every peer is heard, its destination. -/
def State.colStep (s : State) (k : Card) : Moved × State :=
  let c := k.img.toNat
  let src := cardFoot c 0
  s.cardRead k (colTable c) (2 * colRanks c) fun s table =>
    if s.rankLinkDown k table then (.stop Cause.linkDown, s)
    else if k.offset < src.len then
      let n := burstLen (src.base + k.offset) (src.len - k.offset)
      s.cardRead k (src.base + k.offset) n fun s bs =>
        (.ok { k with offset := k.offset + n, heard := k.heard.put (colRank c) (k.rank (colRank c) ++ bs) }, s)
    else if !((List.range (colRanks c)).all fun r => (k.heard.get? r).isSome) then (.wait, s)
    else if k.put ≥ cardTotal c then (.finished, s)
    else s.cardPut k (k.colResult k.got (min 128 (cardTotal c - k.got) / colBytes c * colBytes c))

/-- The destination of a failed collective is undefined (R431, log 6). -/
def State.scramble (s : State) (k : Card) : State :=
  let c := k.img.toNat
  if cardEngine c ≠ 3 then s
  else
    let (d, s) := s.draw
    let f := cardFoot c 1
    (List.range ((f.len + 127) / 128)).foldl (fun s i =>
      let n := min 128 (f.len - 128 * i)
      let bs := readRun (Config.freeByte d) (128 * i) n
      if cardLocal c then s.lwrite k.core (k.base + f.base + 128 * i) bs
      else (s.engineStores k.clu k.ctx (pagePieces 2 (f.base + 128 * i) n) bs []).2) s

/-! ## Faults, pauses and completion (R86, R192, R369, R433) -/

/-- A card ends with a status: its completion comes next. One that is away fails once it is back. -/
def State.endCard (s : State) (id : Nat) (status : Byte) : State :=
  match s.cards.get? id with
  | none => s
  | some k =>
    if s.cardAway k then s.modCard id fun k => { k with st := .failing status }
    else
      let s := if status = 0 then s else s.scramble k
      (s.modCard id fun k => { k with st := .ending status }).post (.cardComplete id)

/-- The words of a class-1 job (R433). -/
def State.cardWords (s : State) (id : Nat) (k : Card) (cause : Byte) (va : Nat) : Word × Word × Word :=
  let (slot, core) := match k.stream with
    | .team i => (match s.team? i with | some t => (t.slot, t.core % Config.coresPerCluster) | none => (0, 0))
    | _ => (0, 0)
  let entry := ((s.tracker k.stream).takeWhile fun p => p.1 ≠ id).length
  (BitVec.ofNat 32 (k.clu + slot * 2 ^ 6 + core * 2 ^ 11 + entry % 32 * 2 ^ 16 + cause.toNat * 2 ^ 21),
   BitVec.ofNat 32 va, BitVec.ofNat 32 (bits va 32 24 + k.ctx % 64 * 2 ^ 24))

/-- CARD_TRANSFER (R86, R370): one transfer of at most 128 bytes. A replayable card whose footprint fails pauses there and
posts a class-1 job, which waits for room in its queue; any other ends with the cause. -/
def execCardTransfer (id : Nat) (s : State) : Host.Outcome State Fault Refusal :=
  event (
    match s.cards.get? id with
    | none => s
    | some k =>
      match k.st with
      | .failing status => s.endCard id status
      | .running =>
        let e := cardEngine k.img.toNat
        let (m, s) := if e = 1 then s.copyStep k else if e = 2 then s.gatherStep k else s.colStep k
        match m with
        | .ok k => ({ s with cards := s.cards.put id k }).post (.cardTransfer id)
        | .finished => s.endCard id 0
        | .wait => s.post (.cardTransfer id)
        | .stop status => s.endCard id status
        | .fault cause _ va =>
          if !cardReplay k.img.toNat then s.endCard id cause
          else if !s.jobRoom (dieOfClu k.clu) 1 then s.post (.cardTransfer id)
          else
            let (w1, w2, w3) := s.cardWords id k cause va
            (s.postJob (dieOfClu k.clu) 1 w1 w2 w3 0 0 (some id)).modCard id fun k => { k with st := .faulted }
      | _ => s)

/-- Bytes that have already arrived at a card's arrival word. -/
def Card.arrived (k : Card) : Nat := if cardLocal k.img.toNat then k.put else 0

/-- Whether a team still waits for a card. -/
def State.awaited (s : State) (id : Nat) : Bool :=
  s.teams.any fun p => (p.2.outst.any fun o => decide (o.cond = .card id)) ||
    p.2.paths.any fun q => decide (q.2.st = .parked (.card id))

/-- Update the signal a card names (R192): by its value, or, of a failed card, to −1; the status it ends with. -/
def State.cardSignalled (s : State) (die ctx c : Nat) (status : Byte) : Byte × State :=
  if !cardSigen c then (status, s)
  else match s.signalXlat ctx (cardSignal c) true with
    | (.inr cause, s) => (cause, s)
    | (.inl pa, s) =>
      (status, s.signalUpdate die ctx pa (if status = 0 then 1 else 0)
        (if status = 0 then cardValue c else BitVec.allOnes 64))
/-- The signal of a card that no team submitted and that is rejected receives −1 (R193). -/
def State.rejectSignal (s : State) (ctx c : Nat) : State := (s.settleAll.cardSignalled 0 ctx c Cause.cardInvalid).2

/-- CARD_COMPLETE (R135, R192, R193, R369): once the card's stores are performed and visible, its signal is updated, its
arrival word receives the bytes that have not arrived, and it leaves its tracker with its status. A signal that fails a
check is not updated, and its cause becomes the status (R201). -/
def execCardComplete (id : Nat) (s : State) : Host.Outcome State Fault Refusal :=
  event (
    match s.cards.get? id with
    | none => s
    | some k =>
      match k.st with
      | .ending status =>
        let s := s.settleAll
        if s.cardAway k then s
        else if k.stores.any s.writeOpen || s.unapplied (dieOfClu k.clu) then s.post (.cardComplete id)
        else
          let c := k.img.toNat
          let (status, s) := s.cardSignalled (dieOfClu k.clu) k.ctx c status
          let s := if cardArren c then s.arrive k.core k.arrivalAddr (cardTotal c - k.arrived) else s
          let s := match k.stream with
            | .node ctx node =>
              (s.modCtx ctx fun x => { x with nodes := x.nodes.modify node fun n => { n with left := 0, fail := status } }).post
                (.nodeRetire ctx node)
            | _ => s
          let s := if s.awaited id then s.modCard id fun k => { k with st := .done status, stores := [] }
            else { s with cards := s.cards.del id }
          match k.packet with
          | some (q, idx) => s.finishPacket q idx status
          | none => s
      | _ => s)

/-- A card that has begun, or will, and has not ended. -/
def Card.live (k : Card) : Bool :=
  match k.st with | .waiting => true | .running => true | .paused => true | .faulted => true | _ => false

/-- COLLECTIVE_TIMEOUT (R431, R439): a rank that has heard nothing from some peer for 100 ms completes PEER_ABORT, running or
not. -/
def execCollectiveTimeout (id : Nat) (s : State) : Host.Outcome State Fault Refusal :=
  event (
    match s.cards.get? id with
    | none => s
    | some k =>
      let c := k.img.toNat
      if !k.live || cardEngine c ≠ 3 then s
      else if (List.range (colRanks c)).all fun r => r = colRank c || (k.heard.get? r).isSome then s
      else if s.ns ≥ k.began + 100000000 then s.wake.endCard id Cause.peerAbort
      else s.postOnce (.collectiveTimeout id))

/-- What a collective card shows its peers (R430, R431). -/
def cardHead (c : Nat) : PeerHead :=
  ⟨colOp c, colType c, colRop c, colRanks c, (cardFoot c 0).len, (cardFoot c 1).len, bits c 896 64⟩
/-- Whether two cards of one TAG differ in what must agree (R431); an all-gather's ROP is ignored (R430). -/
def headsDiffer (a b : PeerHead) : Bool :=
  decide ({ a with rop := if a.op = 1 then 0 else a.rop } ≠ { b with rop := if b.op = 1 then 0 else b.rop })

/-- COLLECTIVE_PEER_MESSAGE (R431, R439): a peer's parameters and source arrive, or word that its card has failed. A message of
another TAG is of another collective; parameters that differ end the card. -/
def execCollectivePeerMessage (id rank : Nat) (m : PeerMsg) (s : State) : Host.Outcome State Fault Refusal :=
  event (
    let s := s.wake.modMgmt fun m => { m with lastFabric := s.ns }
    match s.cards.get? id with
    | none => s
    | some k =>
      let c := k.img.toNat
      if !k.live || cardEngine c ≠ 3 || rank ≥ colRanks c || rank = colRank c then s
      else match m with
        | .data head bs =>
          if head.tag ≠ (cardHead c).tag || (k.heard.get? rank).isSome then s
          else if headsDiffer head (cardHead c) || decide (bs.length ≠ (cardFoot c 0).len) then s.endCard id Cause.cardInvalid
          else s.modCard id fun k => { k with heard := k.heard.put rank bs }
        | .abort tag => if tag ≠ (cardHead c).tag then s else s.endCard id Cause.peerAbort)

/-! ## CARD and CARDW (R369) -/

/-- A team's context as engines take it: the firmware slot has none (R343). -/
def Team.engineCtx (t : Team) : Nat := if t.fw then fwCtx else t.ctx

/-- A run of at most 128 aligned bytes read as a plain load of the team. -/
def Ctx.loadBlock (c : Ctx) (s : State) (va n : Nat) (k : State → Nat → Res) : Res :=
  if va % n ≠ 0 then c.trapMem Cause.align va c.active
  else c.reach s [(c.lane0, va)] n true false true false fun s as =>
    c.load s as n fun s vals _ => k s (vals.headD (0, 0)).2

/-- The core and bases of a card's local destination and arrival word, for the issuing team. -/
def Ctx.cardHome (c : Ctx) (s : State) (img : Nat) : Nat × Nat × Nat × Nat :=
  match s.group? c.clu c.t.group with
  | none => (0, 0, 0, 0)
  | some g =>
    let core := match g.teams[cardTeam img]? with
      | some i => (match s.team? i with | some t => t.core | none => c.core)
      | none => c.core
    let base := g.ranges.getD core 0
    (core, base, g.len, base + cardArrival img)

/-- The pages of the footprints that a card writes, with their scopes (R62); one that does not translate is left out. -/
def State.cardPages (s : State) (clu ctx : Nat) (k : Card) : List (Nat × Nat) :=
  (k.ranges.filter (·.2.2)).flatMap fun r =>
    (List.range ((r.1 % 65536 + r.2.1 + 65535) / 65536)).filterMap fun i =>
      match (s.engineXlat clu ctx ((r.1 / 65536 + i) * 65536) true).1 with
      | .ok pa scope => some (pa, scope)
      | .fault _ _ => none

/-- Steps 1 to 5 of R369; `k` on the card's number. -/
def Ctx.submit (c : Ctx) (s : State) (x : BitVec 5) (k : State → Nat → Res) : Res :=
  let va := (c.s2 x).toNat
  c.loadBlock s va 128 fun s img =>
    let teams := match s.group? c.clu c.t.group with | some g => g.teams.length | none => 0
    let (core, base, len, arr) := c.cardHome s img
    if !cardOk img (if c.t.fw then 0 else teams) (if c.t.fw then 0 else len) then
      c.trap Cause.cardInvalid (BitVec.ofNat 32 va)
    else if s.trackerFull (.team c.tid) then .park c.s .tracker
    else
      let s := s.flushWrites c.tid
      if s.writesOpen c.tid then .park (c.s.flushWrites c.tid) .posted
      else
        let (id, s) := s.submitCard (.team c.tid) c.t.engineCtx c.clu core base len arr va img none
        let pages := match s.cards.get? id with | some k => s.cardPages c.clu c.t.engineCtx k | none => []
        let s := c.modTeam s fun t => { t with pscope := widerScope t.pscope pages }
        k s id

/-- CARD (R369). -/
def execCard (x : BitVec 5) (s : State) : Host.Outcome State Fault Refusal :=
  issue (.card x) (fun c s => c.ifActs s (c.submit s x fun s id => .later s (.card id))) s

/-- CARDW (R369): parks after submission until the card completes; the end of the wait is an acquire. -/
def execCardw (d x : BitVec 5) (s : State) : Host.Outcome State Fault Refusal :=
  issue (.cardw d x) (fun c s =>
    c.ifActs s (
      if c.p.prog = 0 then
        c.submit s x fun s id => .park (c.modPath s fun p => { p with prog := id + 1 }) (.card id)
      else
        let id := c.p.prog - 1
        match s.cards.get? id with
        | none => .done s
        | some k =>
          match k.st with
          | .done status =>
            let s := ({ s with cards := s.cards.del id }).applyDie c.die
            .done (c.modTeam s fun t => t.setS d.toNat (status.setWidth 32))
          | _ => .park s (.card id))) s

/-! ## Task graphs (R43, R190, R191) -/

def nPred (b : Nat) : Nat := bits b 0 32
def nType (b : Nat) : Nat := bits b 32 8
def nGdone (b : Nat) : Bool := bits b 40 1 = 1
def nSucc (b : Nat) : Nat := bits b 48 8
def nTrue (b : Nat) : Nat := bits b 56 8
def nPayload (b : Nat) : Nat := bits b 64 64
def nSuccAt (b i : Nat) : Nat := bits b (128 + 64 * i) 64

/-- R190: whether a block is well formed. -/
def nodeOk (b : Nat) : Bool :=
  decide (nType b ≤ 3) && bits b 41 7 = 0 && decide (nSucc b ≤ 6) && decide (nTrue b ≤ nSucc b) &&
  (nType b = 3 || nTrue b = 0) &&
  (List.range 6).all fun i => if i < nSucc b then nSuccAt b i % 64 = 0 else nSuccAt b i = 0

def State.modNode (s : State) (ctx n : Nat) (f : Node → Node) : State :=
  s.modCtx ctx fun c => { c with nodes := c.nodes.modify n f }

/-- Send the decrement of a block's PRED (R43, R371), with what it reports to; its request's serial number. A block that
does not translate gives the cause. -/
def State.sendDecrement (s : State) (agent : Agent) (die ctx va pa scope : Nat) (packet : Option (Nat × Nat)) : Nat × State :=
  let (id, s) := s.serial
  let s := s.openWrite id die false
  let s := s.modCtx ctx fun c => { c with decs := c.decs.put id (va, packet) }
  (id, s.post (.bankAluOperation
    { id := id, agent := agent, ctx := ctx, scope := scope, op := 1, ty := 1, lanes := [⟨pa, 0xFFFFFFFF, 0⟩], graph := true,
      stamp := (s.die die).clock }))

/-- Decrement successors of a node by virtual address: the serial numbers. One that does not translate gives its cause to the
graph's status. -/
def State.decrementAll (s : State) (ctx : Nat) (packet : Option (Nat × Nat)) : List Nat → List Nat → List Nat × State
  | [], ids => (ids, s)
  | va :: rest, ids =>
    match s.frontXlat ctx va true with
    | (.fault cause _, s) => State.decrementAll (s.failPacket packet cause) ctx packet rest ids
    | (.ok pa _, s) =>
      let (id, s) := s.sendDecrement (.die 0) 0 ctx va pa Scope.package packet
      State.decrementAll s ctx packet rest (ids ++ [id])

/-- A node retires (R43, R191): it leaves the list; a failed one gives its cause to its graph, any other decrements its
successors, a conditional node those of one side, as a release of its work. -/
def State.retireNode (s : State) (ctx n : Nat) (x : Node) (side : Option Bool) : List Nat × State :=
  let b := x.block.toNat
  let s := s.modCtx ctx fun c => { c with nodes := c.nodes.del n }
  let succ := (List.range (nSucc b)).filter fun i =>
    match side with | some t => decide (i < nTrue b) = t | none => true
  let (ids, s) :=
    if x.fail ≠ 0 then ([], s.failPacket x.packet x.fail)
    else s.settleAll.decrementAll ctx x.packet (succ.map (nSuccAt b)) []
  match x.packet with
  | some (q, _) => (ids, s.post (.graphPacket q))
  | none => (ids, s)

/-- The records of a kernel node, read in order; the first cause met. -/
def State.nodeRecords (s : State) (ctx va : Nat) : Nat → List Nat → Sum (List Nat) Byte × State
  | 0, rs => (.inl rs, s)
  | n + 1, rs =>
    match s.frontRead ctx va 64 with
    | (.inr cause, s) => (.inr cause, s)
    | (.inl bs, s) => State.nodeRecords s ctx (va + 64) n (rs ++ [leNat bs])

/-- The exit record of a graph node's rejected record (R171, R172), where its pool has a ring. -/
def State.rejectedRecord (s : State) (ctx r : Nat) : State :=
  if poolValid (s.poolEntry ctx (recPool r)) then
    s.exitRecord ctx (recPool r) Cause.workInvalid.toNat 8 0 0 0 0 0 0 0 (recWork r)
  else s

/-- A node whose work has ended retires (R43), as a release of that work: once its writes are visible. -/
def State.releaseNode (s : State) (ctx n : Nat) (x : Node) : State :=
  let s := s.settleAll
  if s.allVisible then (s.retireNode ctx n x none).2 else s.post (.nodeRetire ctx n)

/-- A due node dispatches (R43, R191): a kernel node submits its records once every ring has room for them, a card node
its card, a conditional node reads its predicate and retires, an empty one retires. DESIGN CHOICE (log 38): an empty or a
conditional node retires so whatever its GDONE says, as R191 has it; R190 lets a node with GDONE retire on GDONE only. -/
def State.dispatchNode (s : State) (ctx n : Nat) (x : Node) : State :=
  let failed := fun (s : State) (x : Node) (cause : Byte) => (s.retireNode ctx n { x with fail := cause } none).2
  match s.settleAll.frontRead ctx x.addr 64 with
  | (.inr cause, s) => failed s x cause
  | (.inl bs, s) =>
    let b := leNat bs
    let x := { x with block := BitVec.ofNat 512 b, gdone := nGdone b, due := false }
    if !nodeOk b then failed s x Cause.graphInvalid
    else if nType b = 0 then (s.retireNode ctx n x none).2
    else if nType b = 3 then
      match s.frontRead ctx (nPayload b) 8 with
      | (.inr cause, s) => failed s x cause
      | (.inl w, s) => (s.retireNode ctx n x (some (decide (leNat w ≠ 0)))).2
    else if nType b = 2 then
      match s.frontRead ctx (nPayload b) 128 with
      | (.inr cause, s) => failed s x cause
      | (.inl w, s) =>
        if nPayload b % 128 ≠ 0 then failed s x Cause.cardInvalid
        else if !cardOk (leNat w) 0 0 then failed (s.rejectSignal ctx (leNat w)) x Cause.cardInvalid
        else
          let (_, s) := s.submitCard (.node ctx n) ctx 0 0 0 0 0 (nPayload b) (leNat w) none
          s.modNode ctx n fun _ => { x with left := 1 }
    else
      match s.nodeRecords ctx (nPayload b / 64 * 64) (nPayload b % 64 + 1) [] with
      | (.inr cause, s) => failed s x cause
      | (.inl rs, s) =>
        match s.badRecord ctx ((List.range rs.length).zip rs) with
        | (some i, s) => failed (s.rejectedRecord ctx (rs.getD i 0)) x Cause.workInvalid
        | (none, s) =>
          if !s.ringsFit ctx rs then s.post (.nodeRetire ctx n)
          else rs.foldl (fun s r => s.appendRecord ctx r (.node n)) (s.modNode ctx n fun _ => { x with left := rs.length })

/-- Conditional nodes dispatch, and read their predicates, at the instant their PRED reaches 0 (R191): in the step that performs
the decrement (`step`). -/
def State.dispatchConditionals (s : State) : State :=
  s.ctxs.foldl (fun s x => (x.2.nodes.filter (·.2.due)).foldl (fun s p =>
    match (s.settleAll.frontRead x.1 p.2.addr 64).1 with
    | .inl bs => if nodeOk (leNat bs) && nType (leNat bs) = 3 then s.dispatchNode x.1 p.1 p.2 else s
    | .inr _ => s) s) s

/-- NODE_RETIRE (R43, R191): a due node dispatches; one whose work has ended retires, unless it waits for GDONE. -/
def execNodeRetire (ctx n : Nat) (s : State) : Host.Outcome State Fault Refusal :=
  event (
    match (s.ctx ctx).nodes.get? n with
    | none => s
    | some x =>
      if x.due then s.dispatchNode ctx n x
      else if x.fail ≠ 0 then (s.retireNode ctx n x none).2
      else if x.left > 0 || x.gdone then s
      else s.releaseNode ctx n x)

/-- GARM (R371): one decrement of PRED at its home bank ALU, with an atomic's release bit. -/
def execGarm (x : BitVec 5) (r : BitVec 1) (s : State) : Host.Outcome State Fault Refusal :=
  issue (.garm x r) (fun c s =>
    c.ifActs s (
      let va := (c.s2 x).toNat
      if va % 64 ≠ 0 then c.trapMem Cause.align va c.active
      else c.reach s [(c.lane0, va)] 4 true true true false fun s as =>
        c.orderAtomic s (r = 1) false as 4 fun s =>
          match as with
          | [] => .done s
          | a :: _ =>
            let (id, s) := s.sendDecrement (.core c.core) c.die c.t.ctx va a.pa a.scope none
            let s := c.sent s as [id]
            .later (if r = 1 then c.modTeam s fun t => { t with pscope := Scope.core } else s) (.stores [id]))) s

/-- GDONE (R372): FENCE #2, then the node named, if it is on its context's list, retires, as a release of all its work (R43). -/
def execGdone (x : BitVec 5) (s : State) : Host.Outcome State Fault Refusal :=
  issue (.gdone x) (fun c s =>
    c.ifActs s (
      let va := (c.s2 x).toNat
      c.release s c.t.pscope fun s =>
        match (s.ctx c.t.ctx).nodes.find? fun p => p.2.addr = va && p.2.gdone && !p.2.due with
        | none => .done s
        | some (n, node) =>
          let s := s.settleAll
          if !s.allVisible then .park c.s.settleAll .posted
          else
            let (ids, s) := s.retireNode c.t.ctx n node none
            .later s (.stores ids))) s

/-! ## SUBM (R373) -/

/-- SUBM (R373). `prog` = 1 says that its fence is over. WRIDX rises once the packet's store is performed, and those of several
SUBMs in order; only then does the queue look for it, and the instruction complete. -/
def execSubm (x : BitVec 5) (y : BitVec 8) (s : State) : Host.Outcome State Fault Refusal :=
  issue (.subm x y) (fun c s =>
    c.ifActs s (
      let q := (c.uc y).toNat
      let va := (c.s2 x).toNat
      let d := s.mgmt.cmd q
      if q ≥ 256 || d.st ≠ 1 || (!c.t.fw && d.ctx ≠ c.t.ctx) then c.trap Cause.illegalOperand (wordOf (.subm x y))
      else
        let go := fun (s : State) =>
          c.loadBlock s va 64 fun s p =>
            match s.frontXlat d.ctx (d.slot d.next.toNat) true with
            | (.fault cause level, _) => .fault cause true (d.slot d.next.toNat) level none
            | (.ok pa _, s) =>
              let (ids, s) := s.engineWrite 0 d.ctx (atAddr pa (natLe 64 p))
              let (id, s) := s.serial
              let s := s.modCmdq q fun k => { k with bells := k.bells ++ [⟨id, none, ids⟩] }
              .later (s.pokeBells q) (.appended q id)
        if d.full then
          c.loadBlock c.s va 64 fun _ _ =>
            if c.p.prog = 1 then .park c.s (.ring q)
            else c.release c.s c.t.pscope fun s => .park (c.modPath s fun p => { p with prog := 1 }) (.ring q)
        else if c.p.prog = 1 then go s
        else c.release s c.t.pscope go)) s

/-! ## Signals (R201, R202, R374, R375) -/

/-- A signed comparison of a signal with its comparand (R156). -/
def signalCond (cond : Nat) (v x : DWord) : Bool :=
  if cond = 1 then decide (v.toInt ≥ x.toInt) else if cond = 2 then v = x else if cond = 3 then v ≠ x
  else decide (v.toInt < x.toInt)
/-- Whether a wait is over: the condition holds, or the signal is negative (R202). -/
def signalEnds (cond : Nat) (v x : DWord) : Bool := decide (v.toInt < 0) || signalCond cond v x

/-- A signal's address: aligned, translated, on a PACKAGE or HOST page. -/
def Ctx.signal (c : Ctx) (s : State) (x : BitVec 5) (wr : Bool) (k : State → LaneAcc → Res) : Res :=
  let va := (c.s2 x).toNat
  if va % 8 ≠ 0 then c.trapMem Cause.align va c.active
  else c.reach s [(c.lane0, va)] 8 true wr true false fun s as =>
    match as with
    | [] => .done s
    | a :: _ =>
      if a.scope = Scope.package || a.scope = Scope.host then c.cleanBank s [a] 8 fun s => k s a
      else c.trapMem Cause.pageScopeInvalid va c.active

/-- SIGW (R374). -/
def execSigw (d x : BitVec 5) (k : BitVec 3) (s : State) : Host.Outcome State Fault Refusal :=
  issue (.sigw d x k) (fun c s =>
    c.ifActs s (
      c.signal s x false fun s a =>
        let (bs, s) := s.engineRead c.t.ctx a.pa 8
        let v : DWord := BitVec.ofNat 64 (leNat bs)
        if signalEnds k.toNat v (c.s2 d) then
          c.acquire s (s.stampOf (lineOf a.pa)) fun s => .done (c.modTeam s fun t => t.putS true d.toNat v)
        else .park s (.signal a.pa k.toNat (c.s2 d)))) s

/-- SIGA (R375). -/
def execSiga (d x : BitVec 5) (r : BitVec 1) (o : BitVec 2) (s : State) : Host.Outcome State Fault Refusal :=
  issue (.siga d x r o) (fun c s =>
    c.ifActs s (
      c.signal s x true fun s a =>
        c.orderAtomic s (r = 1) false [a] 8 fun s =>
          let v : DWord := if o = 2 then - c.s2 d else c.s2 d
          let (ids, s) := c.sendBank (if o = 0 then 0 else 1) 2 [[(a, v)]] s []
          let s := c.sent s [a] ids
          .later (if r = 1 then c.modTeam s fun t => { t with pscope := Scope.core } else s) (.stores ids))) s

end Sys2Proof.Machine
end

