-- ==== Sys2Proof/Machine/Beryl.lean ====
section
/-!
DEFINITION. Sys2Proof/Machine/Beryl.lean: assumptions (R181–R183, R376, R379), watches (R111–R113, R184), guarded regions
and their commit (R185–R187, R377, R378) and revocation (R188).
-/
namespace Sys2Proof.Machine

/-! ## Objects and their watches (R106, R183, R184) -/

/-- Lines of a run of bytes. -/
def linesOf (pa n : Nat) : List Nat := (List.range ((pa + n - 1) / 128 + 1 - pa / 128)).map (pa / 128 + ·)

/-- Arm a watch over a line: W ← 1, with forced publish and demotion of a line in N (R106, R111). -/
def State.armLine (s : State) (line : Nat) : State :=
  let s := s.demote line
  s.setDir line { s.dirOf line with w := true }

/-- Free an object: its watch entries are disarmed, and W falls on lines that no other entry covers (R106, R183). -/
def State.freeObject (s : State) (obj : Nat) : State :=
  let (mine, rest) := s.watch.partition fun w => w.obj = obj
  let s := { s with watch := rest, objs := s.objs.del obj }
  (mine.flatMap fun w => linesOf (4 * w.first) (4 * (w.last - w.first) + 4)).foldl (fun s line =>
    if s.watch.any fun w => decide (w.slice = s.sliceKey line) && decide (w.first / 32 ≤ line) && decide (line ≤ w.last / 32) then s
    else s.setDir line { s.dirOf line with w := false }) s

/-- The slices that a physical run touches. -/
def State.slicesOf (s : State) (run : Nat × Nat) : List Nat := ((linesOf run.1 run.2).map s.sliceKey).eraseDups

/-- The watch entries of an object over physical runs (R184): one for each slice that a run touches, from the run's first
word to its last within the lines of that slice. -/
def State.watchesFor (s : State) (obj : Nat) (value : Bool) (runs : List (Nat × Nat)) : List WatchEntry :=
  runs.flatMap fun r => (s.slicesOf r).map fun k =>
    let own := (linesOf r.1 r.2).filter fun l => decide (s.sliceKey l = k)
    ⟨k, value, obj, max r.1 (128 * own.headD 0) / 4, min (r.1 + r.2 - 1) (128 * own.getLastD 0 + 127) / 4⟩
/-- Whether every slice has room for them (R184: 64 entries each). -/
def State.watchRoom (s : State) (new : List WatchEntry) : Bool :=
  new.all fun w => decide (((s.watch ++ new).filter fun x => x.slice = w.slice).length ≤ 64)

/-! ## AREG (R182, R376) -/

/-- Translate a region page by page, as LD does: physical pieces, or the first address that faults with cause and level. -/
def Ctx.regionPieces (c : Ctx) : List (Nat × Nat) → State → List (Nat × Nat) → Sum (List (Nat × Nat)) (Nat × Byte × Nat) × State
  | [], s, acc => (.inl acc, s)
  | (va, n) :: rest, s, acc =>
    match s.translate c.core c.t.ctx c.t.fw va false false with
    | (.fault cause level, s) => (.inr (va, cause, level), s)
    | (.ok pa _, s) => Ctx.regionPieces c rest s (acc ++ [(pa, n)])

/-- Maximal contiguous runs of pieces in order. -/
def mergeRuns : List (Nat × Nat) → List (Nat × Nat)
  | [] => []
  | (a, n) :: rest =>
    match mergeRuns rest with
    | (b, m) :: more => if a + n = b then (a, n + m) :: more else (a, n) :: (b, m) :: more
    | [] => [(a, n)]

/-- Two regions share a byte. -/
def meets (a n b m : Nat) : Bool := decide (a < b + m) && decide (b < a + n)

/-- Pages of a region as pieces. -/
def regionOf (base len : Nat) : List (Nat × Nat) := pagePieces (len / 65536 + 2) base len

/-- Register an object under the lowest free number (R376): watches for RO and VALUE, and the state it starts in (R182
steps 3 to 6). None where a table lacks room. -/
def Ctx.register (c : Ctx) (s : State) (kind b1 l1 l2 : Nat) (arg : DWord) (p1 p2 : List (Nat × Nat)) : Option (Nat × State) :=
  match (List.range 1024).find? fun n => (s.objs.get? n).isNone && (s.revokes.get? n).isNone with
  | none => none
  | some n =>
    let runs := mergeRuns p1
    let o : Obj := { armed := true, kind := kind, ctx := c.t.ctx, base1 := BitVec.ofNat 56 b1, len1 := l1, arg := arg, len2 := l2 }
    if kind = 1 then
      let overlap := meets b1 l1 (arg.toNat % 2 ^ 56) l2 || p1.any fun x => p2.any fun y => meets x.1 x.2 y.1 y.2
      some (n, { s with objs := s.objs.put n { o with armed := !overlap } })
    else
      let ws := s.watchesFor n (kind = 2) runs
      if !s.watchRoom ws then none
      else
        let s := { s with watch := s.watch ++ ws }
        let s := (runs.flatMap fun r => linesOf r.1 r.2).foldl State.armLine s
        if kind = 2 then
          let (bs, s) := s.engineRead c.t.ctx ((runs.headD (0, 0)).1) 8
          some (n, { s with objs := s.objs.put n { o with armed := BitVec.ofNat 64 (leNat bs) = arg } })
        else some (n, { s with objs := s.objs.put n o })

/-- AREG (R376): once its watches are armed its path is parked; `prog` − 1 is then the object it took. -/
def execAreg (d : BitVec 8) (x : BitVec 5) (k : BitVec 2) (s : State) : Host.Outcome State Fault Refusal :=
  issue (.areg d x k) (fun c s =>
    if c.p.prog > 0 then c.put s d false fun _ => BitVec.ofNat 64 (c.p.prog - 1)
    else c.ifActsD s d (
      let kind := k.toNat
      let b1 := (c.s2 x).toNat
      let l1 := (c.s2 (x + 2)).toNat
      let arg := c.s2 (x + 4)
      let l2 := (c.s2 (x + 6)).toNat
      let badLen (n : Nat) : Bool := n % 4 ≠ 0 || n = 0 || decide (n > 2 ^ 40)
      if b1 % 4 ≠ 0 || badLen l1 || (kind = 1 && (arg.toNat % 4 ≠ 0 || badLen l2)) ||
          (kind = 2 && (b1 % 8 ≠ 0 || l1 ≠ 8)) then
        c.trap Cause.illegalOperand (wordOf (.areg d x k))
      else if b1 + l1 > 2 ^ 56 then c.trapMem Cause.addrNoncanon b1 c.active
      else if kind = 1 && decide (arg.toNat + l2 > 2 ^ 56) then c.trapMem Cause.addrNoncanon arg.toNat c.active
      else match c.regionPieces (regionOf b1 l1) s [] with
        | (.inr (va, cause, level), _) => c.failXlat cause false va level c.active
        | (.inl p1, s) =>
          match c.regionPieces (if kind = 1 then regionOf arg.toNat l2 else []) s [] with
          | (.inr (va, cause, level), _) => c.failXlat cause false va level c.active
          | (.inl p2, s) =>
            match c.register s kind b1 l1 l2 arg p1 p2 with
            | none => c.trap Cause.assumeTableFull 0
            | some (n, s) => .park (c.modPath s fun p => { p with prog := n + 1 }) .registered)) s

/-! ## AENTER (R377) -/

/-- The object that an instruction of the issuing team names, if it exists and is of the team's context. -/
def Ctx.object (c : Ctx) (s : State) (n : Nat) : Option Obj :=
  match s.objs.get? n with
  | some o => if o.ctx = c.t.ctx then some o else none
  | none => none

/-- AENTER (R377): it acts for the team, whatever the guard. -/
def execAenter (x : BitVec 8) (i : BitVec 8) (s : State) : Host.Outcome State Fault Refusal :=
  issue (.aenter x i) (fun c s =>
    let n := (c.ua x).toNat
    if c.t.paths.length > 1 || c.t.guard.length ≥ 4 then c.trap Cause.guardNest (BitVec.ofNat 32 c.t.guard.length)
    else match c.object s n with
      | none => c.trap Cause.assumeBadId (BitVec.ofNat 32 n)
      | some o =>
        let e : GuardEntry :=
          { obj := n, fallback := (((c.bundle : Int) + 16 * i.toInt) % 2 ^ 64).toNat, mode := c.t.mode, preds := c.t.p,
            mask := c.p.mask, addr := c.f.addr, path := c.pid, chain := c.p.chain }
        let s := c.modTeam s fun t => { t with guard := e :: t.guard }
        let s := c.modPath s fun p => { p with win := if p.win = Win.fallback then .closed else p.win }
        if o.armed then .done s else .final (s.abortTeam c.tid Cause.assumeRevoked n true none)) s

/-! ## Commit (R140, R185, R378) -/

/-- Definitions of a region that commits: PROV is cleared, completed ones are DEFINED, and their readers are woken; its
tasks go on as ordinary ones (R185). -/
def State.keepProvisional (s : State) (tid clu : Nat) : State :=
  let s := { s with tasks := s.tasks.map fun (p : Nat × Task) => (p.1, if p.2.team = tid then { p.2 with region := false } else p.2) }
  ((s.clu clu).names.filter fun p => p.2.prov && p.2.definer = tid).foldl (fun s p =>
    let n := { p.2 with prov := false }
    match n.defn with
    | some (.held h img) => s.placeValue clu p.1 n h img
    | _ => s.setName clu p.1 n) s

/-- The path of a team whose AEXIT waits for its commit. -/
def Team.committing (t : Team) : Option Nat := (t.paths.find? fun p => p.2.st = .parked .commit && p.2.prog = 1).map (·.1)

/-- Whether steps 1 to 3 of every revocation that a held request waits for are over. -/
def State.heldFree (s : State) (h : Held) : Bool :=
  h.objs.all fun o => match s.revokes.get? o with | some r => r.done | none => true

/-- Before a commit the core's L1 gives up what it holds of the lines' words that are written: what it has in flight there is
performed, and dirty words are written back (R105). -/
def State.clearLines (s : State) (core : Nat) (ls : List (Nat × List (Nat × Byte))) : State :=
  ls.foldl (fun s p =>
    let s := s.drainOwn core (some p.1)
    let s := (s.writeBackWords core p.1 (touchedWords p.2)).drainOwn core (some p.1)
    (wordRuns (touchedWords p.2)).foldl (fun s r => s.dropWords core p.1 r.1 r.2) s) s

/-- One line of a commit at its slice (R378 step 2): it queues behind a held request, or is held for the watches it hits, or
reserves its line. -/
def State.reserve (s : State) (tid line : Nat) (bs : List (Nat × Byte)) : State :=
  match s.heldOn line with
  | some (k, h) =>
    if isCommit tid h.req || h.behind.any (isCommit tid) then s else s.queueBehind k h (.commitGroup tid)
  | none => s.hold line (.commitGroup tid) (s.watchHits (bs.map (·.1))).eraseDups

/-- The lines of a team's commit at their slices, each in its turn. -/
def State.reserveAll (s : State) (t : Team) (tid : Nat) : State :=
  let ls := linePieces t.gbytes
  ls.foldl (fun s p => s.reserve tid p.1 p.2) (s.clearLines t.core ls)

/-- A request that queued behind a held one takes its turn (R113): a commit reserves its lines, any other is performed, or
held anew. -/
def State.takeBehind (s : State) (e : Instr) : State :=
  match e with
  | .commitGroup tid => (match s.team? tid with
      | some t => if t.committing.isSome then (s.reserveAll t tid).post e else s
      | none => s)
  | e => s.runBehind e

/-- The lines of a commit that lie behind an aperture: its stores there are posted ones (R339, R419). -/
def Team.postedLines (t : Team) : List (Nat × List (Nat × Byte)) := (linePieces t.gbytes).filter fun p => isPosted (128 * p.1)

/-- One line of a commit (R378 step 3): performed at its home, or posted to its aperture as a plain store; its serial number. -/
def State.commitLine (s : State) (tid addr : Nat) (t : Team) (p : Nat × List (Nat × Byte)) : Nat × State :=
  let (scope, va) := t.gscopes.getD p.1 (Scope.package, 0)
  let die := dieOfCore t.core
  let r (id : Nat) (tag : Option Nat) : StoreReq :=
    { id := id, agent := .core t.core, ctx := t.ctx, scope := scope, line := p.1, bytes := p.2, sharer := false,
      stamp := (s.die die).clock, posted := tag }
  if isPosted (128 * p.1) then
    let (tag, s) := s.takePosted tid t addr va (128 * p.1)
    let (id, s) := s.serial
    (id, (s.openWrite id die true).post (.writeThroughStore (r id (some tag))))
  else
    let (id, s) := s.serial
    (id, s.performStore (r id none))

/-- Step 3 of R378: every buffered word is performed at its home, with no other request between; the reservations and the
stack are gone, and what queued behind the reservations follows in order. -/
def State.performCommit (s : State) (tid pid : Nat) (t : Team) : State :=
  let clu := cluOfCore t.core
  let (mine, rest) := s.held.partition fun p => isCommit tid p.2.req
  let s := { s with held := rest }
  let s := s.modTeam tid fun t => { t with guard := [], gbytes := [], gscopes := [] }
  let s := s.modPath tid pid fun p => { p with prog := 2 }
  let addr := match t.paths.get? pid with | some p => slotAddr p.pc | none => 0
  let (ids, s) := (linePieces t.gbytes).foldl (fun (acc : List Nat × State) (p : Nat × List (Nat × Byte)) =>
    let (id, s) := acc.2.commitLine tid addr t p
    (acc.1 ++ [id], s)) ([], s)
  let s := s.modTeam tid fun t => { t with writes := t.writes ++ ids }
  let s := (mine.flatMap fun p => p.2.behind).foldl State.takeBehind (s.keepProvisional tid clu)
  (mine.flatMap fun p => p.2.objs).eraseDups.foldl (fun s o =>
    match s.revokes.get? o with | some r => s.postOnce (.revocation o r.die) | none => s) s

/-- A commit at the slices (R378): each line is reserved or held in its turn, and with every one reserved, or free of the
revocations it called for, the group is performed, once the core's posted-store table has room (R419). A team that was
aborted has withdrawn it. -/
def State.runCommit (s : State) (tid : Nat) : State :=
  match s.team? tid with
  | none => s
  | some t =>
    match t.committing with
    | none => s
    | some pid =>
      let s := s.reserveAll t tid
      if (linePieces t.gbytes).all fun p =>
          match s.heldOn p.1 with | some (_, h) => isCommit tid h.req && s.heldFree h | none => false then
        if (s.core t.core).posted.length + t.postedLines.length > 256 then s.post (.commitGroup tid)
        else s.performCommit tid pid t
      else s

/-- COMMIT_GROUP (R378). -/
def execCommitGroup (tid : Nat) (s : State) : Host.Outcome State Fault Refusal := event (s.runCommit tid)

/-- AEXIT (R378): an inner one pops its entry; the outermost waits for its earlier writes, then for its commit, and ends
as a release. -/
def execAexit (s : State) : Host.Outcome State Fault Refusal :=
  issue .aexit (fun c s =>
    if c.p.prog = 2 then c.release s c.t.pscope fun s => .done s
    else if !c.acts then .done s
    else if c.t.guard.isEmpty || c.t.paths.length > 1 then c.trap Cause.guardNest (BitVec.ofNat 32 c.t.guard.length)
    else if c.t.guard.length > 1 then .done (c.modTeam s fun t => { t with guard := t.guard.drop 1 })
    else
      let s := s.flushWrites c.tid
      if s.releaseHeld c.tid c.t.pscope then .park s .posted
      else .park ((c.modPath s fun p => { p with prog := 1 }).post (.commitGroup c.tid)) .commit) s

/-! ## Revocation (R188) -/

/-- Cores with a resident team that holds an object on its guard stack. -/
def State.holderCores (s : State) (obj : Nat) : List Nat :=
  ((s.teams.filter fun p => p.2.place = .resident && p.2.guard.any fun g => g.obj = obj).map (·.2.core)).eraseDups

/-- The revocation is over: its aborted teams have been released. -/
def State.endRevoke (s : State) (obj : Nat) : State :=
  match s.revokes.get? obj with
  | none => s
  | some r =>
    let s := { s with revokes := s.revokes.del obj }
    if r.free then s.freeObject obj else s

/-- Cores where a path waits for step 5 of an object's revocation. -/
def State.releaseCores (s : State) (obj : Nat) : List Nat :=
  ((s.teams.filter fun p => p.2.paths.any fun q => q.2.st = .parked (.release obj)).map (·.2.core)).eraseDups

/-- Step 5 begins. -/
def State.finishRevoke (s : State) (obj : Nat) : State :=
  let cores := s.releaseCores obj
  if cores.isEmpty then s.endRevoke obj else s.postAll (cores.map fun c => .fallbackRelease obj c)

/-- With every acknowledgement in, step 4: the held requests that wait for nothing else are released; with none held,
step 5. -/
def State.revokeAcked (s : State) (obj : Nat) : State :=
  let s := { s with revokes := s.revokes.modify obj fun r => { r with done := true } }
  let mine := s.held.filter fun p => p.2.objs.contains obj
  if mine.isEmpty then s.finishRevoke obj
  else s.postAll ((mine.filter fun p => s.heldFree p.2).map fun p => .heldRequestRelease p.1)

/-- REVOCATION (R188 step 2): STATE ← REVOKED, broadcast to the cores; those without a team that holds it acknowledge at
once. One whose acknowledgements are in goes on to step 5 when nothing is held for it any more. -/
def execRevocation (obj _die : Nat) (s : State) : Host.Outcome State Fault Refusal :=
  event (
    match s.revokes.get? obj with
    | none => s
    | some r =>
      if r.done then if s.held.any fun p => p.2.objs.contains obj then s else s.finishRevoke obj
      else if !r.cores.isEmpty then s
      else
        let cores := s.holderCores obj
        let s := { s with objs := s.objs.modify obj (fun o => { o with armed := false }),
                          revokes := s.revokes.modify obj fun r => { r with cores := cores } }
        if cores.isEmpty then s.revokeAcked obj else s.postAll (cores.map fun c => .coreRevocation obj c))

/-- CORE_REVOCATION (R188 step 3): the core's teams that hold the object are aborted and wait for step 5, and it
acknowledges. -/
def execCoreRevocation (obj core : Nat) (s : State) : Host.Outcome State Fault Refusal :=
  event (
    match s.revokes.get? obj with
    | none => s
    | some r =>
      if !r.cores.contains core then s
      else
        let mine := (s.teams.filter fun p => p.2.core = core && p.2.place = .resident && p.2.guard.any fun g => g.obj = obj).map (·.1)
        let s := mine.foldl (fun s t => s.abortTeam t Cause.assumeRevoked obj true (some obj)) s
        let left := r.cores.erase core
        let s := { s with revokes := s.revokes.modify obj fun r => { r with cores := left } }
        if left.isEmpty then s.revokeAcked obj else s)

/-- HELD_REQUEST_RELEASE (R113, R188 step 4): the request is performed, those that queued behind it follow in order, each
checked again, and the revocations it waited for go on. -/
def execHeldRequestRelease (k : Nat) (s : State) : Host.Outcome State Fault Refusal :=
  event (
    match s.held.get? k with
    | none => s
    | some h =>
      if !s.heldFree h then s
      else
        let s : State := match h.req with
          | .commitGroup tid => s.runCommit tid
          | e =>
            h.behind.foldl State.takeBehind ({ s with held := s.held.del k }.runRequest e)
        h.objs.foldl (fun s o =>
          match s.revokes.get? o with
          | some r => if r.done && !(s.held.any fun p => p.2.objs.contains o) then s.finishRevoke o else s
          | none => s) s)

/-- FALLBACK_RELEASE (R188 step 5): the core's aborted teams go on at their fallbacks. -/
def execFallbackRelease (obj core : Nat) (s : State) : Host.Outcome State Fault Refusal :=
  event (
    let s := { s with teams := s.teams.map fun (p : Nat × Team) =>
      (p.1, if p.2.core = core then
        { p.2 with paths := p.2.paths.map fun (q : Nat × Path) =>
            (q.1, if q.2.st = PathSt.parked (.release obj) then { q.2 with st := PathSt.ready, since := s.cycle } else q.2) }
      else p.2) }
    match s.revokes.get? obj with
    | some r => if r.done && (s.releaseCores obj).isEmpty && !(s.held.any fun p => p.2.objs.contains obj) then s.endRevoke obj else s
    | none => s)

/-! ## ADROP, ATEST, AREVK (R379) -/

/-- The object named in X [9:0]; `prog` = 1 says that a revocation was started for the instruction before. -/
def Ctx.named (c : Ctx) (s : State) (i : Instr) (x : Code) (k : Nat → Obj → Res) : Res :=
  let n := (c.ub x).toNat
  if n ≥ 1024 then c.trap Cause.illegalOperand (wordOf i)
  else match c.object s n with
    | none => c.trap Cause.assumeBadId (BitVec.ofNat 32 n)
    | some o => k n o

/-- Start a revocation, or join the one under way, and wait for it; X has been read and popped as it started. -/
def Ctx.revokeWait (c : Ctx) (s : State) (n : Nat) (free : Bool) : Res :=
  .park ((c.modPath s fun p => { p with prog := 1 }).startRevoke n c.die free) (.revoke n)

/-- ATEST. -/
def execAtest (p : BitVec 4) (x : BitVec 8) (s : State) : Host.Outcome State Fault Refusal :=
  issue (.atest p x) (fun c s =>
    c.ifActs s (c.named s (.atest p x) x fun _ o => .done (c.putP s p.toNat fun _ => o.armed))) s
/-- AREVK: one of a REVOKED object completes at once, its revocation done or not. -/
def execArevk (x : BitVec 8) (s : State) : Host.Outcome State Fault Refusal :=
  issue (.arevk x) (fun c s =>
    c.ifActs s (
      if c.p.prog = 1 then .done s
      else c.named s (.arevk x) x fun n o => if o.armed then c.revokeWait s n false else .done s)) s
/-- ADROP (R183). -/
def execAdrop (x : BitVec 8) (s : State) : Host.Outcome State Fault Refusal :=
  issue (.adrop x) (fun c s =>
    c.ifActs s (
      if c.p.prog = 1 then .done s
      else c.named s (.adrop x) x fun n o =>
        if !o.armed && (s.revokes.get? n).isNone then .done (s.freeObject n) else c.revokeWait s n true)) s

end Sys2Proof.Machine
end

