-- ==== Sys2Proof/Machine/Special.lean ====
section
/-!
DEFINITION. Sys2Proof/Machine/Special.lean: the special functions of R307. The exact value of a function is enclosed
between two fixed-point numbers far finer than any format, by its power series over exact arguments; the codes that the
rule's bound admits follow from the enclosure, and the device chooses among them (log 8).
-/
namespace Sys2Proof.Machine

/-! ## Enclosures -/

/-- Fraction bits of a fixed-point number, and of an argument before its reduction modulo 2π. -/
def fxBits : Nat := 640
def fxWide : Nat := 1024
/-- One, as a fixed-point number. -/
def fxOne : Int := 2 ^ fxBits
/-- A bound on the error of every series below, in units of the last place: each makes a few hundred roundings. -/
def fxSlop : Int := 2 ^ 64

/-- The sum of `n` terms of a series, from the term's successor and its weight. -/
def series (next weight : Nat → Int → Int) : Nat → Nat → Int → Int
  | 0, _, _ => 0
  | n + 1, k, t => weight k t + series next weight n (k + 1) (next k t)

/-- The product of two fixed-point numbers. -/
def fxMul (a b : Int) : Int := a * b / fxOne
/-- 2 artanh z for z up to 1/3. -/
def fxArtanh2 (z : Int) : Int := series (fun _ t => fxMul t (fxMul z z)) (fun k t => 2 * t / (2 * k + 1)) 220 0 z
/-- ln y for y from 1 to 2. -/
def fxLn (y : Int) : Int := fxArtanh2 ((y - fxOne) * fxOne / (y + fxOne))
/-- e^y for y from 0 to 1. -/
def fxExp (y : Int) : Int := series (fun k t => fxMul t y / (k + 1)) (fun _ t => t) 200 0 fxOne
/-- sin r and cos r for r from 0 to 2π. -/
def fxSin (r : Int) : Int := series (fun k t => -fxMul t (fxMul r r) / ((2 * k + 2) * (2 * k + 3))) (fun _ t => t) 150 0 r
def fxCos (r : Int) : Int := series (fun k t => -fxMul t (fxMul r r) / ((2 * k + 1) * (2 * k + 2))) (fun _ t => t) 150 0 fxOne
/-- arctan (1 / q) with `fxWide` fraction bits. -/
def wideArctan (q : Int) : Int := series (fun _ t => -t / (q * q)) (fun k t => t / (2 * k + 1)) 240 0 (2 ^ fxWide / q)
/-- 2π with `fxWide` fraction bits, by Machin's formula. -/
def wideTau : Int := 32 * wideArctan 5 - 8 * wideArctan 239
/-- m × 2^e modulo 2π, reduced exactly (R307). -/
def fxReduce (m : Nat) (e : Int) : Int := (m * 2 ^ (e + fxWide).toNat : Nat) % wideTau / 2 ^ (fxWide - fxBits)

/-- A value and its error. -/
def fxAround (v : Int) : Int × Int := (v - fxSlop, v + fxSlop)

/-- 2^x for a fixed-point x: scaled by its integral part. -/
def encloseExp2 (x : Int) : Int × Int :=
  let n := x / fxOne
  if n < -560 then (0, 2 ^ 80)
  else
    let (lo, hi) := fxAround (fxExp (fxMul (x % fxOne) (fxLn (2 * fxOne))))
    if n ≥ 0 then (lo * 2 ^ n.toNat, hi * 2 ^ n.toNat) else (lo / 2 ^ (-n).toNat, hi / 2 ^ (-n).toNat + 1)

/-- tanh x for a positive x: below 1, and within 2^−576 of it once x is 300. -/
def encloseTanh (x : Int) : Int × Int :=
  if x ≥ 300 * fxOne then (fxOne - fxSlop, fxOne)
  else
    let ln2 := fxLn (2 * fxOne)
    let big := fxExp (2 * x % ln2) * 2 ^ (2 * x / ln2).toNat
    let (lo, hi) := fxAround ((big - fxOne) * fxOne / (big + fxOne))
    (lo, min hi fxOne)

/-- The exact value of a function of ±m × 2^e that is not among R307's exact results, enclosed. -/
def specialEnclose (fn : Nat) (s : Bool) (m : Nat) (e : Int) : Int × Int :=
  let x : Int := m * 2 ^ (e + fxBits).toNat
  let signed (p : Int × Int) : Int × Int := if s then (-p.2, -p.1) else p
  if fn = 0 then encloseExp2 (if s then -x else x)
  else if fn = 1 then
    fxAround (leadExp m e * fxOne + fxLn (m * fxOne / 2 ^ Nat.log2 m) * fxOne / fxLn (2 * fxOne))
  else if fn = 2 then signed (fxAround (fxSin (fxReduce m e)))
  else if fn = 3 then fxAround (fxCos (fxReduce m e))
  else signed (encloseTanh x)

/-! ## The codes within the bound -/

/-- A format's number among the keys of the device's choice. -/
def Fmt.tag (f : Fmt) : Nat := 100 * f.ebits + f.mbits
/-- A code's place in the order of values, 0 for both zeros. -/
def Fmt.place (f : Fmt) (b : Nat) : Int :=
  let mag := b % 2 ^ (f.width - 1)
  if bits b (f.width - 1) 1 = 1 then -(mag : Int) else mag
/-- The codes at a place: none beyond infinity. -/
def Fmt.codesAt (f : Fmt) (k : Int) : List Nat :=
  if k = 0 then [0, f.signBit true]
  else if k.natAbs > f.infBits false then []
  else [k.natAbs + f.signBit (decide (k < 0))]
/-- The value at a place; infinity stands for the value it overflows from (R221). -/
def Fmt.fxValue (f : Fmt) (k : Int) : Int :=
  let v : Int := match f.decode k.natAbs with
    | .fin _ m e => m * 2 ^ (e + fxBits).toNat
    | _ => 2 ^ (f.maxE + f.mbits + 1 + fxBits).toNat
  if k < 0 then -v else v
/-- The place of the greatest code at or below a fixed-point value; of the least at or above it. -/
def Fmt.floorPlace (f : Fmt) (v : Int) : Int :=
  f.place (roundTo f ⟨3, false, false, false⟩ (decide (v < 0)) v.natAbs (-fxBits) false 0).1
def Fmt.ceilPlace (f : Fmt) (v : Int) : Int :=
  f.place (roundTo f ⟨2, false, false, false⟩ (decide (v < 0)) v.natAbs (-fxBits) false 0).1

/-- R307's bound on an enclosed value: within 2 units in the last place for FP32, the two codes that bracket it for FP16
and BF16. -/
def Fmt.within (f : Fmt) (p : Int × Int) : List Nat :=
  let low := f.floorPlace p.1
  if f = Fmt.fp32 then
    let q := max (leadExp (max 1 (max p.1.natAbs p.2.natAbs)) (-fxBits)) f.emin - f.mbits
    let two : Int := 2 ^ (q + 1 + fxBits).toNat
    ((List.range 10).map fun (k : Nat) => low + k - 4).flatMap fun k =>
      let v := f.fxValue k
      if v - p.2 ≤ two && p.1 - v ≤ two then f.codesAt k else []
  else (List.range (f.ceilPlace p.2 - low + 1).toNat).flatMap fun (k : Nat) => f.codesAt (low + k)

/-- The codes that R307 admits for a function of a source outside its exact results. -/
def specialCodes (fn : Nat) (f : Fmt) (s : Bool) (m : Nat) (e : Int) : List Nat := f.within (specialEnclose fn s m e)

/-! ## The functions -/

/-- Whether m × 2^e is an integer power of two times one: its exponent. -/
def pow2Exp? (m : Nat) (e : Int) : Option Int :=
  if m ≠ 0 && m = 2 ^ Nat.log2 m then some (leadExp m e) else none

/-- An integer value, if the finite value is one of modest size. -/
def intValue? (s : Bool) (m : Nat) (e : Int) : Option Int :=
  if m = 0 then some 0
  else if leadExp m e > 40 then none
  else
    let (lo, rem, _) := quanta m e 0
    if rem = 0 then some (if s then -(lo : Int) else lo) else none

/-- FEXP2 (0), FLOG2 (1), FSIN (2), FCOS (3), FTANH (4). The exact results of R307's table; every other result is one of
the codes within the bound, which one being the device's (log 8), with FX raised and FU and FO judged on the value
returned. -/
def special (fn : Nat) (f : Fmt) (env : FEnv) (b : Nat) : Pre :=
  let x := readF f env b
  -- codes of the source as flushed
  let src := match x with | .fin s 0 _ => f.signBit s | _ => b
  let device : Pre :=
    let allowed := match x with | .fin s m e => specialCodes fn f s m e | _ => []
    let r := allowed.getD (Config.specialChoice fn f.tag src % allowed.length) f.canonNan
    match f.decode r with
    | .inf s => .code (if env.sat then f.maxBits s else f.infBits s) (fO ||| fX)
    | .nan .. => .code f.canonNan fX
    | .fin s m _ =>
      if m < 2 ^ f.mbits && env.ftz && f.flushes && m ≠ 0 then .code (f.signBit s) (fU ||| fX)
      else .code r (fX ||| (if m ≠ 0 && m < 2 ^ f.mbits then fU else 0))
  if x.isNan then nanPre f env [x] 0
  else
    let one (s : Bool) : Pre := .code (f.signBit s + f.bias * 2 ^ f.mbits) 0
    if fn = 0 then
      match x with
      | .inf s => if s then .code 0 0 else infPre f env false 0
      | .fin s m e =>
        match intValue? s m e with
        | some n =>
          -- 2^n in the format's range is exact; beyond it, overflow under R221 or an inexact small result
          if (decide (f.emin - f.mbits ≤ n)) && decide (n ≤ f.maxE + f.mbits) then
            let (r, fl) := roundTo f env false 1 n false 0; .code r fl
          else if n > 0 then
            let (r, fl) := roundTo f { env with rm := 0 } false 1 n false 0; .code r fl
          else device
        | none =>
          -- beyond 128 no FP32 code lies within 2 units of 2^x
          if !s && decide (leadExp m e ≥ if f = Fmt.fp32 then 7 else f.ebits) then
            let (r, fl) := roundTo f { env with rm := 0 } false 1 (2 ^ (f.ebits + 1)) false 0; .code r fl
          else device
      | _ => device
    else if fn = 1 then
      match x with
      | .inf s => if s then invalidPre f else infPre f env false 0
      | .fin s m e =>
        if m = 0 then infPre f env true fZ
        else if s then invalidPre f
        else match pow2Exp? m e with
          | some k => let (r, fl) := roundTo f { env with rm := 0 } (decide (k < 0)) k.natAbs 0 false 0; .code r fl
          | none => device
      | _ => device
    else if fn = 2 then
      match x with
      | .inf _ => invalidPre f
      | .fin s 0 _ => .code (f.signBit s) 0
      | _ => device
    else if fn = 3 then
      match x with
      | .inf _ => invalidPre f
      | .fin _ 0 _ => one false
      | _ => device
    else
      match x with
      | .inf s => one s
      | .fin s 0 _ => .code (f.signBit s) 0
      | _ => device

end Sys2Proof.Machine
end

