-- ==== Sys2Proof/Machine/FloatInstr.lean ====
section
/-!
DEFINITION. Sys2Proof/Machine/FloatInstr.lean: the floating-point and conversion instructions (R300–R316).
-/
namespace Sys2Proof.Machine

/-! ## Results of lanes, with their flags and draws -/

/-- One element's result: whether it takes a rounding (and so a draw under STOCH, R222), and code and flags from the
draw. -/
structure Elem where
  rounds : Bool
  run : Nat → Nat × FFlags

/-- A finished code. -/
def Elem.code (b : Nat) (fl : FFlags) : Elem := ⟨false, fun _ => (b, fl)⟩
def Elem.ofPre (f : Fmt) (env : FEnv) (p : Pre) : Elem := ⟨p.rounds, fun d => p.finish f env d⟩

/-- The elements of a lane in increasing order, each taking its draw from the lane's stream (R219, R222): codes, flags,
and the stream after them. -/
def runElems (rm : Nat) : DWord → List Elem → List Nat × FFlags × DWord
  | g, [] => ([], 0, g)
  | g, e :: es =>
    let g' := if e.rounds && rm = 5 then randStep g else g
    let (b, fl) := e.run (randOut g').toNat
    let (bs, fls, g'') := runElems rm g' es
    (b :: bs, fl ||| fls, g'')

/-- Codes packed at their element positions. -/
def joinElems (width : Nat) (bs : List Nat) : DWord :=
  BitVec.ofNat 64 (((List.range bs.length).zip bs).foldl (fun acc p => acc + p.2 * 2 ^ (width * p.1)) 0)

def Ctx.env (c : Ctx) : FEnv := fenvOf c.t.mode
def Ctx.fmt (c : Ctx) : Fmt := fmtOfT c.T
def Ctx.elems (c : Ctx) : Nat := elemsOfT c.T
/-- A lane's stream state (R223). -/
def Ctx.stream (c : Ctx) (l : Nat) : DWord := c.t.rng.getD l 0
/-- TRAPEN [5:1] (R72). -/
def Ctx.fpTraps (c : Ctx) : FFlags := c.t.trapen.extractLsb' 1 5

/-- Whether the result is one value, not one for each lane (R147, R258). -/
def Ctx.uniformResult (c : Ctx) (d : Code) : Bool :=
  Code.uniformDst d || (Code.isQ d && (match c.queue (Code.port d) with | some (_, q) => decide (q.kind ≠ kindL32) | none => false))

/-- A result by lane: codes, flags and the stream afterwards. -/
abbrev LaneOut := Nat × List Nat × FFlags × DWord

/-- Flags, FP_TRAP and streams of a computed instruction (R302): the trap, or the state in which the flags are due when the
result is written (R61) and the streams have moved. Lanes are named unless the result is uniform. -/
def Ctx.flagged (c : Ctx) (s : State) (uniform : Bool) (rs : List LaneOut) (k : State → Res) : Res :=
  let fl := rs.foldl (fun (acc : FFlags) r => acc ||| r.2.2.1) 0
  let bad := rs.filter fun r => r.2.2.1 &&& c.fpTraps ≠ 0
  if !bad.isEmpty then
    let h1 : Word := (statusOfFlags fl).setWidth 32
    if uniform then c.trap Cause.fpTrap h1 else c.trapLanes Cause.fpTrap h1 (maskOf (bad.map (·.1)))
  else k (c.modTeam s fun t =>
    { t with landing := if fl = 0 then t.landing else t.landing ++ [(c.written (c.stop s), statusOfFlags fl)],
             rng := rs.foldl (fun g r => Tab.store 0 g r.1 r.2.2.2) t.rng })

/-- Compute every active lane's elements, or the lowest one's for a uniform result. A uniform port with no active lane
receives its value without a draw of any lane: a free value under STOCH (log 7). -/
def Ctx.laneOuts (c : Ctx) (uniform : Bool) (f : Nat → List Elem) : List LaneOut :=
  let ls := if uniform then c.lanes.take 1 else c.lanes
  ls.map fun l => let (bs, fl, g) := runElems c.env.rm (c.stream l) (f l); (l, bs, fl, g)

/-- Write computed elements to a destination. -/
def Ctx.float (c : Ctx) (s : State) (d : Code) (wide : Bool) (width : Nat) (f : Nat → List Elem) : Res :=
  let u := c.uniformResult d
  let rs := c.laneOuts u f
  c.flagged s u rs fun s =>
    let idle := (runElems c.env.rm (BitVec.ofNat 64 (Config.freeChoice s.free)) (f 0)).1
    let s := if rs.isEmpty && u then { s with free := s.free + 1 } else s
    c.put s d wide fun l =>
      match rs.find? fun r => r.1 = l with
      | some r => joinElems width r.2.1
      | none => joinElems width idle

/-- Element codes of an operand. -/
def elemCodes (f : Fmt) (n : Nat) (x : DWord) : List Nat := (List.range n).map fun e => bits x.toNat (f.width * e) f.width
def Ctx.wideF (c : Ctx) : Bool := c.T = 5
def Ctx.fb (c : Ctx) (x : Code) (l : Nat) : List Nat := elemCodes c.fmt c.elems (c.b c.wideF x l)
def Ctx.fc (c : Ctx) (y : Code) (l : Nat) : List Nat := elemCodes c.fmt c.elems (c.c c.wideF y l)
def Ctx.fa (c : Ctx) (d : Code) (l : Nat) : List Nat := elemCodes c.fmt c.elems (c.a c.wideF d l)

/-- Two sources, one source, and two sources with D (R301). -/
def Ctx.fp2 (c : Ctx) (s : State) (d x y : Code) (f : Fmt → FEnv → Nat → Nat → Elem) : Res :=
  c.float s d c.wideF c.fmt.width fun l => (List.zip (c.fb x l) (c.fc y l)).map fun p => f c.fmt c.env p.1 p.2
def Ctx.fp1 (c : Ctx) (s : State) (d x : Code) (f : Fmt → FEnv → Nat → Elem) : Res :=
  c.float s d c.wideF c.fmt.width fun l => (c.fb x l).map fun b => f c.fmt c.env b
def Ctx.fp3 (c : Ctx) (s : State) (d x y : Code) (f : Fmt → FEnv → FV → FV → FV → Pre) : Res :=
  c.float s d c.wideF c.fmt.width fun l => (List.zip (c.fb x l) (List.zip (c.fc y l) (c.fa d l))).map fun p =>
    Elem.ofPre c.fmt c.env (f c.fmt c.env (readF c.fmt c.env p.1) (readF c.fmt c.env p.2.1) (readF c.fmt c.env p.2.2))

/-- A function of two read values, rounded once; of one. -/
def byPre2 (f : Fmt → FEnv → FV → FV → Pre) (m : Fmt) (env : FEnv) (x y : Nat) : Elem :=
  Elem.ofPre m env (f m env (readF m env x) (readF m env y))
def byPre1 (f : Fmt → FEnv → FV → Pre) (m : Fmt) (env : FEnv) (x : Nat) : Elem := Elem.ofPre m env (f m env (readF m env x))

/-- FADD (R303): X + Y. -/
def execFadd (d x y : BitVec 8) (s : State) : Host.Outcome State Fault Refusal :=
  issue (.fadd d x y) (fun c s => c.fp2 s d x y (byPre2 fun m e a b => faddPre m e false a b)) s
/-- FSUB (R303): X − Y. -/
def execFsub (d x y : BitVec 8) (s : State) : Host.Outcome State Fault Refusal :=
  issue (.fsub d x y) (fun c s => c.fp2 s d x y (byPre2 fun m e a b => faddPre m e true a b)) s
/-- FMUL (R303): X × Y. -/
def execFmul (d x y : BitVec 8) (s : State) : Host.Outcome State Fault Refusal :=
  issue (.fmul d x y) (fun c s => c.fp2 s d x y (byPre2 fmulPre)) s
/-- FMA (R303): X × Y + D, fused. -/
def execFma (d x y : BitVec 8) (s : State) : Host.Outcome State Fault Refusal :=
  issue (.fma d x y) (fun c s => c.fp3 s d x y fun m e a b z => fmaPre m e false false a b z) s
/-- FMS (R303): X × Y − D, fused. -/
def execFms (d x y : BitVec 8) (s : State) : Host.Outcome State Fault Refusal :=
  issue (.fms d x y) (fun c s => c.fp3 s d x y fun m e a b z => fmaPre m e false true a b z) s
/-- FNMA (R303): −(X × Y) + D, fused. -/
def execFnma (d x y : BitVec 8) (s : State) : Host.Outcome State Fault Refusal :=
  issue (.fnma d x y) (fun c s => c.fp3 s d x y fun m e a b z => fmaPre m e true false a b z) s
/-- FMIN (R304). -/
def execFmin (d x y : BitVec 8) (s : State) : Host.Outcome State Fault Refusal :=
  issue (.fmin d x y) (fun c s => c.fp2 s d x y fun m e a b => let r := fminmax m e false a b; Elem.code r.1 r.2) s
/-- FMAX (R304). -/
def execFmax (d x y : BitVec 8) (s : State) : Host.Outcome State Fault Refusal :=
  issue (.fmax d x y) (fun c s => c.fp2 s d x y fun m e a b => let r := fminmax m e true a b; Elem.code r.1 r.2) s

/-- The bits of an element below its sign (R305). -/
def Fmt.magnitude (f : Fmt) (b : Nat) : Nat := b % 2 ^ (f.width - 1)
/-- Its sign bit. -/
def Fmt.negative (f : Fmt) (b : Nat) : Bool := bits b (f.width - 1) 1 = 1

/-- FABS (R305): the sign bit cleared. -/
def execFabs (d x : BitVec 8) (s : State) : Host.Outcome State Fault Refusal :=
  issue (.fabs d x) (fun c s => c.fp1 s d x fun m _ b => Elem.code (m.magnitude b) 0) s
/-- FNEG (R305): the sign bit inverted. -/
def execFneg (d x : BitVec 8) (s : State) : Host.Outcome State Fault Refusal :=
  issue (.fneg d x) (fun c s => c.fp1 s d x fun m _ b => Elem.code (m.magnitude b + m.signBit (!m.negative b)) 0) s
/-- FCPS (R305): X with the sign of Y. -/
def execFcps (d x y : BitVec 8) (s : State) : Host.Outcome State Fault Refusal :=
  issue (.fcps d x y) (fun c s => c.fp2 s d x y fun m _ a b => Elem.code (m.magnitude a + m.signBit (m.negative b)) 0) s
/-- FDIV (R306): X / Y. -/
def execFdiv (d x y : BitVec 8) (s : State) : Host.Outcome State Fault Refusal :=
  issue (.fdiv d x y) (fun c s => c.fp2 s d x y (byPre2 fdivPre)) s
/-- FSQRT (R306). -/
def execFsqrt (d x : BitVec 8) (s : State) : Host.Outcome State Fault Refusal :=
  issue (.fsqrt d x) (fun c s => c.fp1 s d x (byPre1 fun m e a => fsqrtPre m e false a)) s
/-- FRCP (R306): 1 / X. -/
def execFrcp (d x : BitVec 8) (s : State) : Host.Outcome State Fault Refusal :=
  issue (.frcp d x) (fun c s => c.fp1 s d x (byPre1 frcpPre)) s
/-- FRSQ (R306): 1 / √X. -/
def execFrsq (d x : BitVec 8) (s : State) : Host.Outcome State Fault Refusal :=
  issue (.frsq d x) (fun c s => c.fp1 s d x (byPre1 fun m e a => fsqrtPre m e true a)) s
/-- FEXP2 (R307): 2^X, within the bound of R307. -/
def execFexp2 (d x : BitVec 8) (s : State) : Host.Outcome State Fault Refusal :=
  issue (.fexp2 d x) (fun c s => c.fp1 s d x fun m e b => Elem.ofPre m e (special 0 m e b)) s
/-- FLOG2 (R307): log2 X, within the bound of R307. -/
def execFlog2 (d x : BitVec 8) (s : State) : Host.Outcome State Fault Refusal :=
  issue (.flog2 d x) (fun c s => c.fp1 s d x fun m e b => Elem.ofPre m e (special 1 m e b)) s
/-- FSIN (R307): sin X, within the bound of R307. -/
def execFsin (d x : BitVec 8) (s : State) : Host.Outcome State Fault Refusal :=
  issue (.fsin d x) (fun c s => c.fp1 s d x fun m e b => Elem.ofPre m e (special 2 m e b)) s
/-- FCOS (R307): cos X, within the bound of R307. -/
def execFcos (d x : BitVec 8) (s : State) : Host.Outcome State Fault Refusal :=
  issue (.fcos d x) (fun c s => c.fp1 s d x fun m e b => Elem.ofPre m e (special 3 m e b)) s
/-- FTANH (R307): tanh X, within the bound of R307. -/
def execFtanh (d x : BitVec 8) (s : State) : Host.Outcome State Fault Refusal :=
  issue (.ftanh d x) (fun c s => c.fp1 s d x fun m e b => Elem.ofPre m e (special 4 m e b)) s

/-- A comparison's predicate and FI (R308): it must hold for every element; FP_TRAP as R302 states. -/
def Ctx.fcompare (c : Ctx) (s : State) (p : BitVec 4) (x y : Code) (r : FRel) : Res :=
  let rs : List LaneOut := c.lanes.map fun l =>
    let es := (List.zip (c.fb x l) (c.fc y l)).map fun q => r.eval (readF c.fmt c.env q.1) (readF c.fmt c.env q.2)
    (l, [if es.all (·.1) then 1 else 0], es.foldl (fun (acc : FFlags) e => acc ||| e.2) 0, c.stream l)
  c.flagged s false rs fun s =>
    .done (c.putP s p.toNat fun l => match rs.find? fun q => q.1 = l with | some q => q.2.1 = [1] | none => false)

/-- FCEQ (R308). -/
def execFceq (p : BitVec 4) (x y : BitVec 8) (s : State) : Host.Outcome State Fault Refusal :=
  issue (.fceq p x y) (fun c s => c.fcompare s p x y .eq) s
/-- FCLT (R308). -/
def execFclt (p : BitVec 4) (x y : BitVec 8) (s : State) : Host.Outcome State Fault Refusal :=
  issue (.fclt p x y) (fun c s => c.fcompare s p x y .lt) s
/-- FCLE (R308). -/
def execFcle (p : BitVec 4) (x y : BitVec 8) (s : State) : Host.Outcome State Fault Refusal :=
  issue (.fcle p x y) (fun c s => c.fcompare s p x y .le) s
/-- FCUN (R308). -/
def execFcun (p : BitVec 4) (x y : BitVec 8) (s : State) : Host.Outcome State Fault Refusal :=
  issue (.fcun p x y) (fun c s => c.fcompare s p x y .un) s
/-- FCLASS (R309): a one-hot mask for each element, on the unflushed source. -/
def execFclass (d x : BitVec 8) (s : State) : Host.Outcome State Fault Refusal :=
  issue (.fclass d x) (fun c s => c.put s d false fun l => joinElems 16 ((c.fb x l).map fun b => 2 ^ fclass c.fmt b)) s

/-- FRND's element (R310): the integral value in the same format. -/
def frndElem (f : Fmt) (env : FEnv) (b : Nat) : Elem :=
  match readF f env b with
  | .fin s m e => ⟨true, fun d =>
      let (n, inexact) := roundInt env.rm s m e d
      ((roundTo f FEnv.plain s n 0 false 0).1, if inexact then fX else 0)⟩
  | .inf s => Elem.code (f.infBits s) 0
  | v => Elem.ofPre f env (nanPre f env [v] 0)

/-- FRND (R310). -/
def execFrnd (d x : BitVec 8) (s : State) : Host.Outcome State Fault Refusal :=
  issue (.frnd d x) (fun c s => c.fp1 s d x frndElem) s
/-- FSCALE (R311): X × 2^n, n a signed 32-bit Y, or for packed types the signed 16-bit element of Y. -/
def execFscale (d x y : BitVec 8) (s : State) : Host.Outcome State Fault Refusal :=
  issue (.fscale d x y) (fun c s => c.float s d c.wideF c.fmt.width fun l =>
    let n := (c.c false y l).toNat
    ((List.range c.elems).zip (c.fb x l)).map fun p =>
      let k := if c.elems = 1 then intOf 32 true n else intOf 16 true (bits n (16 * p.1) 16)
      Elem.ofPre c.fmt c.env (fscalePre c.fmt c.env (readF c.fmt c.env p.2) k)) s

/-! ## Conversion (R312, R313) -/

/-- A source of a scalar type as a value (R224, R225): integers exactly, floats flushed under FTZ. -/
def sourceValue (env : FEnv) (ty : Nat) (x : DWord) : FV :=
  if ty ≤ 3 then ofInt (intOf (intTy ty).w (intTy ty).signed x.toNat)
  else readF (fmtOfT ty) env (x.toNat % 2 ^ (fmtOfT ty).width)

/-- Conversion to a scalar type (R224). A finite value that becomes an integer is rounded and so takes a draw under STOCH,
exact or not (R222, R312); a conversion to the same integer type copies (R312). -/
def convertElem (env : FEnv) (src dst : Nat) (v : FV) : Elem :=
  if dst ≤ 3 then
    ⟨decide (src ≠ dst) && (match v with | .fin .. => true | _ => false),
     fun d => toInt (intTy dst).w (intTy dst).signed env.rm v d⟩
  else Elem.ofPre (fmtOfT dst) env (toFmtPre (fmtOfT dst) env v)

/-- CVT and CVTS. -/
def Ctx.convert (c : Ctx) (s : State) (d x : Code) (src : Nat) (env : FEnv) : Res :=
  c.float s d (pairT c.T) 64 fun l =>
    [convertElem env src c.T (sourceValue env src (c.read (pairT src) (intTy src).signed x c.popB l))]

/-- CVT (R312). -/
def execCvt (d x : BitVec 8) (src : BitVec 4) (s : State) : Host.Outcome State Fault Refusal :=
  issue (.cvt d x src) (fun c s => c.convert s d x src.toNat c.env) s
/-- CVTS (R312): CVT with SAT = 1. -/
def execCvts (d x : BitVec 8) (src : BitVec 4) (s : State) : Host.Outcome State Fault Refusal :=
  issue (.cvts d x src) (fun c s => c.convert s d x src.toNat { c.env with sat := true }) s

/-- Bits of an element of a packed type. -/
def packedWidth (t : Nat) : Nat := 32 / elemsOfT t

/-- PACK (R313): X converted into element i of D. -/
def execPack (d x i : BitVec 8) (s : State) : Host.Outcome State Fault Refusal :=
  issue (.pack d x i) (fun c s =>
    let w := packedWidth c.T
    c.float s d false 32 fun l =>
      let old := (c.a false d l).toNat
      let xb := (c.b false x l).toNat
      let e : Elem := if c.T = 8 then ⟨true, fun dr => toInt 16 true c.env.rm (ofInt (intOf 32 true xb)) dr⟩
        else convertElem c.env 4 c.T (sourceValue c.env 4 (BitVec.ofNat 64 xb))
      [⟨e.rounds, fun dr =>
        let (b, fl) := e.run dr
        (old - bits old (w * i.toNat) w * 2 ^ (w * i.toNat) + b % 2 ^ w * 2 ^ (w * i.toNat), fl)⟩]) s
/-- UNPK (R313): element i of X, exactly, as FP32 or a sign-extended integer. -/
def execUnpk (d x i : BitVec 8) (s : State) : Host.Outcome State Fault Refusal :=
  issue (.unpk d x i) (fun c s =>
    let w := packedWidth c.T
    c.float s d false 32 fun l =>
      let b := bits (c.b false x l).toNat (w * i.toNat) w
      if c.T = 8 then [Elem.code (lowBits 32 (intOf 16 true b)) 0]
      else
        let env := { FEnv.plain with nanp := c.env.nanp }
        let r := (toFmtPre Fmt.fp32 env (readF c.fmt c.env b)).finish Fmt.fp32 env 0
        [Elem.code r.1 (r.2 &&& fI)]) s

/-! ## Block formats and random bits (R314–R316) -/

/-- The eight blocks of word w: block j is register X + j across the word's lanes, an inactive lane as +0. -/
def Ctx.qntBlocks (c : Ctx) (x : BitVec 7) (sf4 : Bool) (w : Nat) : List (Block × Bool × List Bool) :=
  (List.range 8).map fun j => quantise sf4 c.env.sat ((List.range 32).map fun k =>
    let l := 32 * w + k
    if c.active.getLsbD l then readF c.fmt c.env ((c.t.vreg (x.toNat + j) l).toNat % 2 ^ c.fmt.width) else .fin false 0 0)

/-- QNT (R314, R230). A flag belongs to the lanes that hold the elements at fault (log 19). -/
def execQnt (d x : BitVec 7) (f : BitVec 1) (s : State) : Host.Outcome State Fault Refusal :=
  issue (.qnt d x f) (fun c s =>
    let sf4 : Bool := f = 1
    let units := c.words.map fun w => (w, c.qntBlocks x sf4 w)
    let flagsOf (l : Nat) : FFlags := match units.find? fun u => u.1 = l / 32 with
      | some u => (u.2.foldl (fun (acc : FFlags) b =>
          acc ||| (if b.2.1 then fI else 0) ||| (if b.2.2.getD (l % 32) false then fX else 0)) 0)
      | none => 0
    let rs : List LaneOut := c.lanes.map fun l => (l, [], flagsOf l, c.stream l)
    c.flagged s false rs fun s =>
      .done (c.modTeam s fun t => c.lanes.foldl (fun t l =>
        match units.find? fun u => u.1 = l / 32 with
        | some u =>
          let bs := u.2.map (·.1)
          let tr := unitTrailer sf4 bs
          (t.setV d.toNat l (BitVec.ofNat 32 (unitWord bs (l % 32)))).setV (d.toNat + 1) l
            (BitVec.ofNat 32 (leNat ((tr.drop (4 * (l % 32))).take 4)))
        | none => t) t)) s

/-- DQNT (R315, R231). -/
def execDqnt (d x : BitVec 7) (f : BitVec 1) (s : State) : Host.Outcome State Fault Refusal :=
  issue (.dqnt d x f) (fun c s =>
    let sf4 : Bool := f = 1
    let trailer (w : Nat) : List Byte := (List.range 4).flatMap fun k => natLe 4 (c.t.vreg (x.toNat + 1) (32 * w + k)).toNat
    let rs := c.laneOuts false fun l =>
      let word := (c.t.vreg x.toNat l).toNat
      (List.range 8).map fun j =>
        let (sc, sp) := trailerScale sf4 (trailer (l / 32)) j
        let e := Elem.ofPre c.fmt c.env (toFmtPre c.fmt c.env (blockValue sf4 sc sp (bits word (4 * j) 4)))
        if sc = 0xFF then ⟨e.rounds, fun dr => ((e.run dr).1, (e.run dr).2 ||| fI)⟩ else e
    c.flagged s false rs fun s =>
      .done (c.modTeam s fun t => rs.foldl (fun t r =>
        ((List.range 8).zip r.2.1).foldl (fun t p => t.setV (d.toNat + p.1) r.1 (BitVec.ofNat 32 p.2)) t) t)) s

/-- RAND (R316): two draws of each active lane's stream, the first in bits [31:16]. -/
def execRand (d : BitVec 8) (s : State) : Host.Outcome State Fault Refusal :=
  issue (.rand d) (fun c s =>
    let g1 (l : Nat) := randStep (c.stream l)
    let g2 (l : Nat) := randStep (g1 l)
    let s := c.modTeam s fun t => { t with rng := c.lanes.foldl (fun r l => Tab.store 0 r l (g2 l)) t.rng }
    c.put s d false fun l => (randOut (g1 l) ++ randOut (g2 l)).setWidth 64) s

end Sys2Proof.Machine
end

