-- ==== Sys2Proof/Machine/CrossLane.lean ====
section
/-!
DEFINITION. Sys2Proof/Machine/CrossLane.lean: the cross-lane instructions (R317–R324). Every source is read at issue,
after the interlock (R68), so a value that another path of the team wrote is read as it stands after that write.
-/
namespace Sys2Proof.Machine

/-- X read in lane k (R317): a lane at or above the lane count reads 0. -/
def Ctx.laneX (c : Ctx) (x : Code) (k : Nat) : DWord := if k < c.t.lanes then c.b c.wide x k else 0

/-- A shuffle: D[L] ← X[src L], sources read first (R318). -/
def Ctx.shuffle (c : Ctx) (s : State) (d x : Code) (src : Nat → Nat) : Res :=
  c.put s d c.wide fun l => c.laneX x (src l)

/-- The source lanes of SHUP and SHDN (R318). -/
def shupLane (n l : Nat) : Nat := if l % 32 ≥ n then l - n else l
def shdnLane (n l : Nat) : Nat := if l % 32 + n ≤ 31 then l + n else l

/-- SHFL (R318): lane 32w + (Y mod 32). -/
def execShfl (d x y : BitVec 8) (s : State) : Host.Outcome State Fault Refusal :=
  issue (.shfl d x y) (fun c s => c.shuffle s d x fun l => 32 * (l / 32) + (c.c false y l).toNat % 32) s
/-- SHFX (R318): lane Y of the team. -/
def execShfx (d x y : BitVec 8) (s : State) : Host.Outcome State Fault Refusal :=
  issue (.shfx d x y) (fun c s => c.shuffle s d x fun l => (c.c false y l).toNat) s
/-- SHUP (R318). -/
def execShup (d x : BitVec 8) (n : BitVec 5) (s : State) : Host.Outcome State Fault Refusal :=
  issue (.shup d x n) (fun c s => c.shuffle s d x (shupLane n.toNat)) s
/-- SHDN (R318). -/
def execShdn (d x : BitVec 8) (n : BitVec 5) (s : State) : Host.Outcome State Fault Refusal :=
  issue (.shdn d x n) (fun c s => c.shuffle s d x (shdnLane n.toNat)) s
/-- BCAST (R319): X[Y] to every active lane, or once. -/
def execBcast (d x y : BitVec 8) (s : State) : Host.Outcome State Fault Refusal :=
  issue (.bcast d x y) (fun c s => c.shuffle s d x fun _ => (c.uc y).toNat) s

/-- The contributing lanes of lane l: the path's active lanes, or with ws those of its own word (R320, R323). -/
def Ctx.contributing (c : Ctx) (ws : Bool) (l : Nat) : List Nat :=
  if ws then c.lanes.filter fun k => k / 32 = l / 32 else c.lanes

/-- VOTA (R320): 1 if p[X] is 1 in every contributing lane. -/
def execVota (d x : BitVec 4) (w : BitVec 1) (s : State) : Host.Outcome State Fault Refusal :=
  issue (.vota d x w) (fun c s =>
    .done (c.putP s d.toNat fun l => (c.contributing (w = 1) l).all fun k => (c.t.preg x.toNat).getLsbD k)) s
/-- VOTY (R320): 1 if p[X] is 1 in any contributing lane. -/
def execVoty (d x : BitVec 4) (w : BitVec 1) (s : State) : Host.Outcome State Fault Refusal :=
  issue (.voty d x w) (fun c s =>
    .done (c.putP s d.toNat fun l => (c.contributing (w = 1) l).any fun k => (c.t.preg x.toNat).getLsbD k)) s

/-- A word's ballot (R321). -/
def Ctx.ballot (c : Ctx) (p w : Nat) : Word := wordOfMask (c.active &&& c.t.preg p) w

/-- Whether the result goes to each lane: a v destination, or an L32 port. -/
def Ctx.laneResult (c : Ctx) (d : Code) : Bool := !c.uniformResult d

/-- BALLOT (R321): each lane its own word's ballot, or word w's ballot once. -/
def execBallot (d : BitVec 8) (x : BitVec 4) (w : BitVec 5) (s : State) : Host.Outcome State Fault Refusal :=
  issue (.ballot d x w) (fun c s =>
    if c.laneResult d then c.put s d false fun l => (c.ballot x.toNat (l / 32)).setWidth 64
    else c.put s d false fun _ => (c.ballot x.toNat w.toNat).setWidth 64) s

/-- MATCH (R322): the mask of active lanes of the word whose X is equal in all W bits. -/
def execMatchLanes (d x : BitVec 8) (s : State) : Host.Outcome State Fault Refusal :=
  issue (.matchLanes d x) (fun c s => c.put s d false fun l =>
    (wordOfMask (maskOf ((c.contributing true l).filter fun k => c.b c.wide x k = c.b c.wide x l)) (l / 32)).setWidth 64) s

/-- ACNT (R323): the count of contributing lanes with p[X] set, or of those below the lane. -/
def execAcnt (d : BitVec 8) (x : BitVec 4) (w r : BitVec 1) (s : State) : Host.Outcome State Fault Refusal :=
  issue (.acnt d x w r) (fun c s => c.put s d false fun l =>
    let inS := (c.contributing (w = 1) l).filter fun k => (c.t.preg x.toNat).getLsbD k
    BitVec.ofNat 64 (if r = 1 then (inS.filter fun k => k < l).length else inS.length)) s

/-! ## REDU and SCAN (R324) -/

/-- A value of an integer combination: exact for ADD, MIN and MAX, bits for AND, OR and XOR. -/
def redValue (ty : IntTy) (op x : Nat) : Int := if op ≤ 2 then intOf ty.w ty.signed x else x
def redIdentity (ty : IntTy) (op : Nat) : Int :=
  if op = 1 then intMax ty.w ty.signed else if op = 2 then intMin ty.w ty.signed else if op = 3 then 2 ^ ty.w - 1 else 0
def redCombine (op : Nat) (a b : Int) : Int :=
  if op = 0 then a + b else if op = 1 then min a b else if op = 2 then max a b
  else if op = 3 then ((a.toNat &&& b.toNat : Nat) : Int) else if op = 4 then ((a.toNat ||| b.toNat : Nat) : Int)
  else ((a.toNat ^^^ b.toNat : Nat) : Int)
/-- The exact combination of some lanes' values in an element, and sat() on the result written. -/
def redElem (ty : IntTy) (op : Nat) (sat : Bool) (xs : List Nat) : Nat :=
  satInt ty.w ty.signed (sat && decide (op ≤ 2))
    (xs.foldl (fun acc x => redCombine op acc (redValue ty op x)) (redIdentity ty op))

/-- An integer combination over lanes. -/
def Ctx.intCombine (c : Ctx) (x : Code) (op : Nat) (ls : List Nat) : DWord :=
  ofElems c.ity fun e => redElem c.ity op c.sat (ls.map fun k => elemOf c.ity (c.b c.wide x k) e)

/-- The identity of a floating-point operation: −0, +∞, −∞. -/
def fpIdentity (f : Fmt) (op : Nat) : Nat := if op = 6 then f.signBit true else f.infBits (op = 8)

/-- One lane's step along a sequence of floating-point combinations. -/
def fpCombine (f : Fmt) (env : FEnv) (op acc x : Nat) : Elem :=
  if op = 6 then Elem.ofPre f env (faddPre f env false (readF f env acc) (readF f env x))
  else let r := fminmax f env (op = 8) acc x; Elem.code r.1 r.2

/-- A place of the sequence: the lane, the running codes before and after its value, the flags raised and its stream. -/
structure FpStep where
  lane   : Nat
  before : List Nat
  after  : List Nat
  flags  : FFlags
  stream : DWord
  deriving DecidableEq, Repr

/-- The first contributing lane's value (R324): read as R225 states and not rounded; a NaN is produced as R215 states and
raises FI if it signals. -/
def fpFirst (f : Fmt) (env : FEnv) (op x : Nat) : Nat × FFlags :=
  if op = 6 then (toFmtPre f env (readF f env x)).finish f env 0 else fminmax f env (op = 8) x x
/-- What the next addition takes from it: its infinity unclamped, since SAT acts on results. -/
def fpCarry (f : Fmt) (x first : Nat) : Nat := match f.decode x with | .inf _ => x | _ => first

/-- The sequence of combinations over lanes in increasing order. The running value is what the next combination reads, with
what a lane receives of it. -/
def Ctx.fpSequence (c : Ctx) (x : Code) (op : Nat) : Option (List Nat × List Nat) → List Nat → List FpStep
  | _, [] => []
  | none, l :: ls =>
    let v := c.fb x l
    let first := v.map (fpFirst c.fmt c.env op)
    let codes := first.map (·.1)
    ⟨l, v.map fun _ => fpIdentity c.fmt op, codes, first.foldl (fun (acc : FFlags) r => acc ||| r.2) 0, c.stream l⟩
      :: Ctx.fpSequence c x op (some ((List.zip v codes).map fun p => fpCarry c.fmt p.1 p.2, codes)) ls
  | some (acc, shown), l :: ls =>
    let (bs, fl, g) := runElems c.env.rm (c.stream l) ((List.zip acc (c.fb x l)).map fun p => fpCombine c.fmt c.env op p.1 p.2)
    ⟨l, shown, bs, fl, g⟩ :: Ctx.fpSequence c x op (some (bs, bs)) ls

/-- The sequences of the path, one for each word under ws. -/
def Ctx.fpSequences (c : Ctx) (x : Code) (op : Nat) (ws : Bool) : List FpStep :=
  if ws then c.words.flatMap fun w => c.fpSequence x op none (c.lanes.filter fun k => k / 32 = w)
  else c.fpSequence x op none c.lanes

/-- A floating-point REDU or SCAN: flags and streams first, then the value `pick` takes from the sequence of the lane. -/
def Ctx.fpReduce (c : Ctx) (s : State) (d x : Code) (op : Nat) (ws : Bool) (pick : Nat → List FpStep → Option (List Nat)) :
    Res :=
  let steps := c.fpSequences x op ws
  let rs : List LaneOut := steps.map fun q => (q.lane, q.after, q.flags, q.stream)
  c.flagged s false rs fun s => c.put s d c.wideF fun l =>
    let mine := if ws then steps.filter fun q => q.lane / 32 = l / 32 else steps
    joinElems c.fmt.width ((pick l mine).getD ((List.range c.elems).map fun _ => fpIdentity c.fmt op))

/-- REDU (R324): the whole combination to every active lane, or once. -/
def execRedu (d x : BitVec 8) (w : BitVec 1) (o : BitVec 4) (s : State) : Host.Outcome State Fault Refusal :=
  issue (.redu d x w o) (fun c s =>
    if o.toNat < 6 then c.put s d c.wide fun l => c.intCombine x o.toNat (c.contributing (w = 1) l)
    else c.fpReduce s d x o.toNat (w = 1) fun _ qs => qs.getLast?.map (·.after)) s
/-- SCAN (R324): the combination up to and including the lane, or of the lanes strictly below. -/
def execScan (d x : BitVec 8) (e w : BitVec 1) (o : BitVec 4) (s : State) : Host.Outcome State Fault Refusal :=
  issue (.scan d x e w o) (fun c s =>
    if o.toNat < 6 then c.put s d c.wide fun l =>
      c.intCombine x o.toNat ((c.contributing (w = 1) l).filter fun k => if e = 1 then decide (k < l) else decide (k ≤ l))
    else c.fpReduce s d x o.toNat (w = 1) fun l qs =>
      (qs.find? fun q => q.lane = l).map fun q => if e = 1 then q.before else q.after) s

end Sys2Proof.Machine
end

