-- ==== Sys2Proof/Machine/System.lean ====
section
/-!
DEFINITION. Sys2Proof/Machine/System.lean: the CSRs (R71, R72, R203–R213, R380, R413, R428, R440), firmware calls (R381),
TINV (R382), firmware jobs (R383, R433), SVCR (R384), saves and restores (R385), the cross trigger and trace switches
(R386, R387) and the start of a causal trial (R388).
-/
namespace Sys2Proof.Machine

/-! ## CSRs: views and fields (R7, R71) -/

/-- The bits of a CSR's RW fields; 0 for a number with none (R72, R203, R206–R210, R413, R428, R440). -/
def csrMask (n : Nat) : Word :=
  if n = 0x00A then 0x7F
  else if 0x500 ≤ n && n ≤ 0x50F then (if n % 2 = 0 then 0xFFFFFFFC else 0xFFFFFF)
  else if n = 0x510 then 0xFFFF
  else if 0x520 ≤ n && n ≤ 0x52F then
    (if n % 4 = 1 then 0xFFFFFF else if n % 4 = 3 then 0x7 else 0xFFFFFFFF)
  else if n = 0x530 then 0xFFFFFFE0
  else if n = 0x531 then 0xFFFFF
  else if n = 0x532 then 0xFFFFFFFF
  else if n = 0x800 then 0x7
  else if 0x808 ≤ n && n ≤ 0x817 then 0xFFFF
  else if n = 0x840 then 0x7
  else if n = 0x841 then 0x7F
  else if 0x842 ≤ n && n ≤ 0x858 then (if n = 0x844 || n = 0x848 then 0 else 0xFFFFFFFF)
  else if n = 0x870 then 0x3F
  else if 0x871 ≤ n && n ≤ 0x875 then 0xFFFFFFFF
  else if n = 0x876 then 0xFFFFFFF0
  else if n = 0x877 then 0xFFFFFF
  else if n = 0x880 then 0xFFFF0000
  else if n = 0x881 then 0xFFFFF
  else if n = 0x882 then 0x1FFFF
  else if n = 0x884 then 0xFFFFFFFF
  else if n = 0x8A0 then 0xFFFFFF
  else if n = 0x8B0 then 0xFFFFFFF0
  else if n = 0x8B1 then 0xFFFFF
  else if 0x980 ≤ n && n ≤ 0x9BF then 0xFFFF
  else 0

/-- The bits of a CSR's W1C fields: STATUS, and OVF of a counter selector (R59, R207, R208). -/
def csrW1C (n : Nat) : Word :=
  if n = 0x008 then 0xFFFF
  else if (0x808 ≤ n && n ≤ 0x817) || (0x980 ≤ n && n ≤ 0x9BF) then 0x10000
  else 0

/-- Whose CSRs an access reaches: a core, a team on it (a number that names none where no team accesses), and the context
whose debug CSRs it means (R440). -/
structure CsrView where
  core : Nat
  tid  : Nat
  ctx  : Nat
  deriving DecidableEq, Repr

def CsrView.die (v : CsrView) : Nat := dieOfCore v.core
def CsrView.clu (v : CsrView) : Nat := cluOfCore v.core

/-- The context that CTXSEL names on a die (R209). -/
def State.ctxSel (s : State) (die : Nat) : Nat := ((s.die die).csr.getD 0x870 0).toNat

/-! ## EDF entries as words (R204) -/

def Edf.empty : Edf := ⟨0, false, 0, 0, 0, 0, 0, 0, []⟩
/-- The entry that EDFSEL names. -/
def State.edfSelected (s : State) (clu : Nat) : Nat := (s.clu clu).edfSel.toNat
/-- Word k of an EDF entry. DESIGN CHOICE (log 34): WORK of an entry whose VALID is 0 reads as 0; the spec does not say. -/
def State.edfWord (s : State) (clu i k : Nat) : Word :=
  let e := (s.clu clu).edf.getD i Edf.empty
  if k = 0 then BitVec.ofNat 32 ((if e.valid then 1 else 0) + 2 * e.ctx +
    (if (s.clu clu).running = some i then 128 else 0) + (if e.valid && s.edfWork e.ctx clu then 256 else 0))
  else if k = 1 then BitVec.ofNat 32 e.period
  else if k = 2 then BitVec.ofNat 32 e.budget
  else if k = 3 then BitVec.ofNat 32 (s.edfRemain clu i)
  else if k = 4 then BitVec.ofNat 32 e.deadline
  else if k = 5 then BitVec.ofNat 32 (e.deadline / 2 ^ 32)
  else if k = 6 then BitVec.ofNat 32 e.drain
  else if k = 7 then BitVec.ofNat 32 e.carry
  else e.prog.getD (k - 8) 0
/-- An entry with the RW fields of word k written; an entry that becomes valid waits for its next period, and a free cluster chooses
anew (R205). -/
def State.setEdfWord (s : State) (clu i k : Nat) (x : Word) : State :=
  let e := (s.clu clu).edf.getD i Edf.empty
  let n := x.toNat
  let e' : Edf :=
    if k = 0 then { e with valid := x.getLsbD 0, ctx := bits n 1 6 }
    else if k = 1 then { e with period := n }
    else if k = 2 then { e with budget := n }
    else if k = 4 then { e with deadline := e.deadline / 2 ^ 32 * 2 ^ 32 + n }
    else if k = 5 then { e with deadline := e.deadline % 2 ^ 32 + n * 2 ^ 32 }
    else if k = 6 then { e with drain := n }
    else if k ≥ 8 then { e with prog := Tab.store 0 e.prog (k - 8) x }
    else e
  let s := s.modClu clu fun c => { c with edf := c.edf.put i e' }
  if e'.valid && !e.valid then s.postAll [.edfPeriodStart clu i, .groupAdmission clu] else s

/-! ## Reading a CSR -/

/-- LANDSTATE (R66). -/
def Team.landState (t : Team) : Word :=
  (List.range 8).foldl (fun a k =>
    a + BitVec.ofNat 32 ((match t.tags.get? k with | none => 0 | some g => if g.landed then 2 else 1) * 4 ^ k)) 0

/-- A CSR of a team. -/
def Team.csr (t : Team) (n : Nat) : Word :=
  if n = 0x001 then t.cycleh
  else if n = 0x003 then t.timeh
  else if n = 0x008 then t.status.setWidth 32
  else if n = 0x00A then t.trapen
  else if n = 0x00C then BitVec.ofNat 32 t.vcount
  else if n = 0x00D then BitVec.ofNat 32 t.scount
  else if n = 0x00E then BitVec.ofNat 32 t.lanes
  else if n = 0x010 then t.landState
  else if 0x040 ≤ n && n < 0x060 then wordOfMask t.faultmask (n - 0x040)
  else if n = 0x060 then t.faultSum
  else if n = 0x090 then t.stalls
  else if n = 0x400 then t.hcause
  else if 0x420 ≤ n && n < 0x440 then wordOfMask t.hflt (n - 0x420)
  else 0

/-- The value a CSR holds, read with no effect (R71, R72, R206–R210, R413, R440); an unassigned number holds 0. -/
def State.csrValue (s : State) (v : CsrView) (n : Nat) : Word :=
  let d := s.die v.die
  let core := s.core v.core
  if n = 0x000 then BitVec.ofNat 32 s.cycle
  else if n = 0x002 then BitVec.ofNat 32 s.ns
  else if n < 0x080 || n = 0x090 || (0x400 ≤ n && n < 0x440) then
    (match s.team? v.tid with | some t => t.csr n | none => 0)
  else if n < 0x090 || n = 0x091 then core.csr.getD n 0
  else if 0x500 ≤ n && n ≤ 0x533 then s.ctxCsr v.die v.ctx n
  else if n = 0x800 || (0x808 ≤ n && n ≤ 0x817) then core.csr.getD n 0
  else if n = 0x840 then (s.clu v.clu).edfSel
  else if 0x841 ≤ n && n ≤ 0x858 then s.edfWord v.clu (s.edfSelected v.clu) (n - 0x841)
  else if 0x860 ≤ n && n ≤ 0x867 then
    if n % 2 = 0 then (d.clock.get ((n - 0x860) / 2)).setWidth 32 else d.latch.getD n 0
  else if 0x871 ≤ n && n ≤ 0x877 then s.ctxCsr v.die (s.ctxSel v.die) n
  else if n = 0x8A1 then BitVec.ofNat 32 (s.qtVal (d.csr.getD 0x8A0 0).toNat)
  else if 0x900 ≤ n && n ≤ 0x97F then if n % 2 = 0 then d.csr.getD n 0 else d.latch.getD n 0
  else if n = 0x870 || (0x880 ≤ n && n ≤ 0x885) || n = 0x8A0 || n = 0x8B0 || n = 0x8B1 || (0x980 ≤ n && n ≤ 0x9BF) then
    d.csr.getD n 0
  else 0

/-- What a read of a low half latches (R72, R206, R208). -/
def State.csrLatch (s : State) (v : CsrView) (n : Nat) : State :=
  let d := s.die v.die
  if n = 0x000 then s.modTeam v.tid fun t => { t with cycleh := BitVec.ofNat 32 (s.cycle / 2 ^ 32) }
  else if n = 0x002 then s.modTeam v.tid fun t => { t with timeh := BitVec.ofNat 32 (s.ns / 2 ^ 32) }
  else if 0x860 ≤ n && n ≤ 0x867 && n % 2 = 0 then
    let hi : Word := ((d.clock.get ((n - 0x860) / 2)).extractLsb' 32 16).setWidth 32
    s.modDie v.die fun x => { x with latch := Tab.store 0 x.latch (n + 1) hi }
  else if 0x900 ≤ n && n ≤ 0x97F && n % 2 = 0 then
    s.modDie v.die fun x => { x with latch := Tab.store 0 x.latch (n + 1) (d.dpmcHi.getD ((n - 0x900) / 2) 0) }
  else s

/-- One read of a CSR: its value, and the state with what the read latches. -/
def State.csrRead (s : State) (v : CsrView) (n : Nat) : Word × State :=
  (s.csrValue v n, s.csrLatch v n)

/-! ## Writing a CSR -/

/-- Tracing is on for some context of a die (R210). -/
def State.tracing (s : State) (die : Nat) : Bool := (s.die die).traced ≠ 0

/-- Put a CSR's stored word, its RW and W1C fields as they shall stand. DESIGN CHOICE (log 42): DROOPCFG stays unchanged whenever
its new value is 0, 1 or 7, by CSRS and CSRC too, of which R70 does not speak. -/
def State.csrPut (s : State) (v : CsrView) (n : Nat) (x : Word) : State :=
  if n = 0x008 then s.modTeam v.tid fun t => { t with status := x.setWidth 16 }
  else if n = 0x00A then s.modTeam v.tid fun t => { t with trapen := x }
  else if 0x500 ≤ n && n ≤ 0x532 then s.setCtxCsr v.die v.ctx n x
  else if n = 0x800 then
    if 2 ≤ x.toNat && x.toNat ≤ 6 then s.modCore v.core fun c => { c with csr := Tab.store 0 c.csr n x } else s
  else if 0x808 ≤ n && n ≤ 0x817 then s.modCore v.core fun c => { c with csr := Tab.store 0 c.csr n x }
  else if n = 0x840 then s.modClu v.clu fun c => { c with edfSel := x }
  else if 0x841 ≤ n && n ≤ 0x858 then s.setEdfWord v.clu (s.edfSelected v.clu) (n - 0x841) x
  else if 0x871 ≤ n && n ≤ 0x877 then s.setCtxCsr v.die (s.ctxSel v.die) n x
  else if (0x880 ≤ n && n ≤ 0x882) && s.tracing v.die then s
  else s.modDie v.die fun d => { d with csr := Tab.store 0 d.csr n x }

/-- The write of APINV (R428): the die's cached copy of the entry is dropped. -/
def State.apInvalidate (s : State) (die : Nat) (i : Word) : State :=
  s.modDie die fun d => { d with apcache := d.apcache.del i.toNat }

/-- CSRW (R71): RW fields take the value, W1C bits written with 1 clear, others ignore it. A %status bit that hardware has set
in this cycle stays (R59). -/
def State.csrWrite (s : State) (v : CsrView) (n : Nat) (x : Word) : State :=
  if n = 0x8B2 then s.apInvalidate v.die x
  else if csrMask n = 0 && csrW1C n = 0 then s
  else
    let old := s.csrValue v n
    let kept : Word := if n = 0x008 then (match s.team? v.tid with | some t => t.fresh.setWidth 32 | none => 0) else 0
    s.csrPut v n (((x &&& csrMask n) ||| (old &&& ~~~(csrMask n))) &&& ~~~(x &&& csrW1C n &&& ~~~kept))
/-- CSRS and CSRC (R71): RW fields only. -/
def State.csrSet (s : State) (v : CsrView) (n : Nat) (x : Word) : State :=
  if csrMask n = 0 then s else s.csrPut v n (s.csrValue v n ||| (x &&& csrMask n))
def State.csrClear (s : State) (v : CsrView) (n : Nat) (x : Word) : State :=
  if csrMask n = 0 then s else s.csrPut v n (s.csrValue v n &&& ~~~(x &&& csrMask n))

/-! ## CSRR, CSRW, CSRS, CSRC (R380) -/

/-- The CSRs of the issuing code. -/
def Ctx.csrView (c : Ctx) (s : State) : CsrView := ⟨c.core, c.tid, if c.t.fw then s.ctxSel c.die else c.t.ctx⟩
/-- Whether a number lies in the issuing code's view. -/
def Ctx.sees (c : Ctx) (n : Nat) : Bool := csrInView c.t.fw (c.p.win = .trap) n

/-- CSRR (R380). -/
def execCsrr (d : BitVec 8) (k : BitVec 12) (s : State) : Host.Outcome State Fault Refusal :=
  issue (.csrr d k) (fun c s =>
    c.ifActsD s d (
      let (x, s) := if c.sees k.toNat then s.csrRead (c.csrView s) k.toNat else (0, s)
      c.put s d false fun _ => x.setWidth 64)) s

/-- The three writes; one outside the view has trapped with PRIV at the shared checks (R247 step 3). -/
def Ctx.csrStore (c : Ctx) (s : State) (k : BitVec 12) (f : State → CsrView → Nat → State) : Res :=
  c.ifActs s (.done (f s (c.csrView s) k.toNat))

/-- CSRW (R380). -/
def execCsrw (x : BitVec 8) (k : BitVec 12) (s : State) : Host.Outcome State Fault Refusal :=
  issue (.csrw x k) (fun c s => c.csrStore s k fun s v n => s.csrWrite v n (c.ua x)) s
/-- CSRS (R380). -/
def execCsrs (x : BitVec 8) (k : BitVec 12) (s : State) : Host.Outcome State Fault Refusal :=
  issue (.csrs x k) (fun c s => c.csrStore s k fun s v n => s.csrSet v n (c.ua x)) s
/-- CSRC (R380). -/
def execCsrc (x : BitVec 8) (k : BitVec 12) (s : State) : Host.Outcome State Fault Refusal :=
  issue (.csrc x k) (fun c s => c.csrStore s k fun s v n => s.csrClear v n (c.ua x)) s

/-- LATCHING_READ (R72): a read of a low-half counter by a team latches its high half. -/
def execLatchingRead (team csr : Nat) (s : State) : Host.Outcome State Fault Refusal :=
  event (
    match s.team? team with
    | none => s
    | some t => if csr = 0x000 || csr = 0x002 || t.fw then s.csrLatch ⟨t.core, team, t.ctx⟩ csr else s)
/-- STATUS_CLEAR (R59). -/
def execStatusClear (team : Nat) (val : Word) (s : State) : Host.Outcome State Fault Refusal :=
  event (match s.team? team with | none => s | some t => s.csrWrite ⟨t.core, team, t.ctx⟩ 0x008 val)
/-- DROOPCFG_WRITE (R70). -/
def execDroopcfgWrite (core : Nat) (val : Word) (s : State) : Host.Outcome State Fault Refusal :=
  event (if core < Config.cores then s.csrWrite ⟨core, s.seq, 0⟩ 0x800 val else s)
/-- APINV (R428). -/
def execApinv (die : Nat) (index : Word) (s : State) : Host.Outcome State Fault Refusal :=
  event (if die < Config.dies then s.apInvalidate die index else s)

/-! ## FWCALL (R256, R381) -/

/-- The overlay that a core's firmware store holds, as an overlay number. -/
def State.overlayOf (s : State) (core : Nat) : Nat := (s.core core).overlay.getD 0

/-- What FWCALL writes: s30 the calling overlay, s31 the bundle after its own (R381). -/
def Team.linkOverlay (t : Team) (caller bundle : Nat) : Team :=
  (t.setS 30 (BitVec.ofNat 32 caller)).setS 31 (BitVec.ofNat 32 (bundle + 16))

/-- FWCALL from the firmware slot (R381): overlay n is entered at X with the way back in s30 and s31, at once or when its load
completes. -/
def Ctx.fwGo (c : Ctx) (s : State) (i : Instr) (n : Nat) (x : Word) : Res :=
  if (s.mgmt.overlays.get? n).isNone || x.extractLsb' 0 4 ≠ 0 || x.extractLsb' 16 16 ≠ 0 then
    c.trap Cause.illegalOperand (wordOf i)
  else if (s.core c.core).overlay = some n then
    .jump (c.modPath (c.modTeam s fun t => t.linkOverlay n c.bundle) fun p => { p with pc := x.toNat, entered := false })
  else
    .park ((c.modPath (c.waitHere c.s) fun p => { p with waitPc := x.toNat }).post (.overlayLoadComplete c.core n)) (.overlay n)

/-- FWCALL from a handler: a class-7 job with a copy of h0–h7 (R433), at an address in firmware memory that the spec does not
give (log 23). The path waits for the outcome word; X has been read and popped as the job was posted. -/
def Ctx.fwPost (c : Ctx) (s : State) (n : Nat) (x : Word) : Res :=
  if !s.jobRoom c.die 7 then .park c.s (.jobRoom c.die 7)
  else
    let (k, s) := s.draw
    let pa := 32 * (Config.freeChoice k % 2 ^ 27)
    let (_, s) := s.engineWrite c.die c.t.ctx (atAddr pa ((List.range 8).flatMap fun k => natLe 4 (c.t.hreg k).toNat))
    let s := s.postJob c.die 7 (BitVec.ofNat 32 (n + c.core * 2 ^ 8 + c.t.slot * 2 ^ 18)) x (BitVec.ofNat 32 pa) c.tid c.pid none
    .park (c.modPath s fun p => { p with prog := 1 }) .fwcall

/-- FWCALL #n, X (R381). -/
def execFwcall (x n : BitVec 8) (s : State) : Host.Outcome State Fault Refusal :=
  issue (.fwcall x n) (fun c s =>
    c.ifActs s (
      if c.t.fw then c.fwGo s (.fwcall x n) n.toNat (c.ub x)
      else if c.p.prog = 2 then .done s
      else if c.p.prog = 1 then .park c.s .fwcall
      else c.fwPost s n.toNat (c.ub x))) s
/-- FWCALL sO, X (R381): firmware only. -/
def execFwcallReg (a : BitVec 5) (x : BitVec 8) (s : State) : Host.Outcome State Fault Refusal :=
  issue (.fwcallReg a x) (fun c s =>
    c.ifActs s (
      if !c.t.fw || (c.s1 a).toNat ≥ 256 then c.trap Cause.illegalOperand (wordOf (.fwcallReg a x))
      else c.fwGo s (.fwcallReg a x) (c.s1 a).toNat (c.ub x))) s

/-! ## TINV (R382) -/

/-- The range of a granule. -/
def tinvRange (g x : Nat) : Nat × Nat :=
  if g = 0 then (x / 2 ^ 16 * 2 ^ 16, x / 2 ^ 16 * 2 ^ 16 + 2 ^ 16)
  else if g = 1 then (x / 2 ^ 26 * 2 ^ 26, x / 2 ^ 26 * 2 ^ 26 + 2 ^ 26)
  else if g = 2 then (x / 2 ^ 36 * 2 ^ 36, x / 2 ^ 36 * 2 ^ 36 + 2 ^ 36)
  else (0, 2 ^ 64)

/-- The NOALIAS objects of a context whose regions meet a range, that are armed or being revoked. -/
def State.aliasObjects (s : State) (ctx lo hi : Nat) : List Nat :=
  (s.objs.filter fun p => p.2.kind = 1 && p.2.ctx = ctx && (p.2.armed || (s.revokes.get? p.1).isSome) &&
    (meets p.2.base1.toNat p.2.len1 lo (hi - lo) || meets (p.2.arg.toNat % 2 ^ 56) p.2.len2 lo (hi - lo))).map (·.1)

/-- TINV: the entries are dropped and the revocations start; `prog` = 1 says that they have. -/
def execTinv (x : BitVec 5) (y : BitVec 8) (s : State) : Host.Outcome State Fault Refusal :=
  issue (.tinv x y) (fun c s =>
    c.ifActs s (
      match c.waiting with
      | some (.translations ctx lo hi) =>
        if ((s.aliasObjects ctx lo hi).filter fun o => (s.revokes.get? o).isSome).isEmpty then .done s
        else .park s (.translations ctx lo hi)
      | _ =>
        let w := (c.uc y).toNat
        if w ≥ 256 then c.trap Cause.illegalOperand (wordOf (.tinv x y))
        else
          let ctx := bits w 0 6
          let (lo, hi) := tinvRange (bits w 6 2) (c.s2 x).toNat
          let t := (s.dropTranslations ctx lo hi)
          let t := (t.aliasObjects ctx lo hi).foldl (fun s o => s.startRevoke o c.die false) t
          if (s.aliasObjects ctx lo hi).isEmpty then .done t
          else .park (c.modPath t fun p => { p with prog := 1 }) (.translations ctx lo hi))) s

/-! ## TICKET (R383, R433) -/

/-- The oldest unclaimed job of a class, among the 256 that its queue holds. -/
def State.openJob (s : State) (die cls : Nat) : Option Job :=
  (((s.die die).jobs.getD cls []).take 256).find? fun j => !j.claimed

def State.modJob (s : State) (die cls idx : Nat) (f : Job → Job) : State :=
  s.modDie die fun d =>
    { d with jobs := d.jobs.modify cls fun l => l.map fun j => if j.idx = idx then f j else j }

/-- TICKET, claim form. -/
def execTicketClaim (d : BitVec 5) (k : BitVec 4) (s : State) : Host.Outcome State Fault Refusal :=
  issue (.ticketClaim d k) (fun c s =>
    c.ifActs s (
      match s.openJob c.die k.toNat with
      | none => .done (c.modTeam s fun t => t.setS d.toNat 0xFFFFFFFF)
      | some j =>
        let s := s.modJob c.die k.toNat j.idx fun j => { j with claimed := true }
        .done (c.modTeam s fun t => t.setSs d.toNat [BitVec.ofNat 32 j.idx, j.w1, j.w2, j.w3]))) s

/-- The faulting address that a job of class 0 or 1 names (R433). -/
def Job.va (j : Job) : Nat := j.w2.toNat + bits j.w3.toNat 0 24 * 2 ^ 32

/-- The outcome of a class-0 job: the parked instruction issues again, or takes the cause (R84). -/
def State.faultOutcome (s : State) (j : Job) (o : Word) : State :=
  match (s.team? j.team).bind fun t => t.paths.get? j.path with
  | none => s
  | some p =>
    match p.st with
    | .parked (.fault level lanes) =>
      if o.getLsbD 0 then
        let cause := o.extractLsb' 8 8
        s.faultParked j.team j.path cause (if cause = Cause.pageFormat then BitVec.ofNat 32 level else 0) j.va lanes
      else s.modPath j.team j.path fun p => { p with st := .ready, since := s.cycle }
    | _ => s
/-- The outcome of a class-1 job: the card goes on, or ends with the cause delivered. DEDUCED (log 39): R383 gives that cause in
[15:8], and R86 the cause CARD_FAULT; the word's cause becomes the status, as R86 has it of a card that no agent repairs,
and CARD_FAULT where the word gives none. -/
def State.cardOutcome (s : State) (j : Job) (o : Word) : State :=
  match j.card with
  | none => s
  | some id =>
    match s.cards.get? id with
    | none => s
    | some k =>
      if k.st ≠ .faulted then s
      else if o.getLsbD 0 then s.endCard id (if o.extractLsb' 8 8 = 0 then Cause.cardFault else o.extractLsb' 8 8)
      else if s.cardAway k then s.modCard id fun k => { k with st := .paused }
      else (s.modCard id fun k => { k with st := .running }).post (.cardTransfer id)
/-- The outcome of a class-7 job: the word goes to h1 and the path goes on (R381). -/
def State.callOutcome (s : State) (j : Job) (o : Word) : State :=
  match (s.team? j.team).bind fun t => t.paths.get? j.path with
  | none => s
  | some p =>
    if p.st = .parked .fwcall && p.prog = 1 then
      (s.modTeam j.team fun t => t.setH 1 o).modPath j.team j.path fun p => { p with prog := 2 }
    else s

/-- TICKET, done form. -/
def execTicketDone (d : BitVec 5) (k : BitVec 4) (s : State) : Host.Outcome State Fault Refusal :=
  issue (.ticketDone d k) (fun c s =>
    c.ifActs s (
      let o := c.t.sreg (d.toNat + 1)
      match ((s.die c.die).jobs.getD k.toNat []).find? fun j => j.idx = (c.s1 d).toNat && j.claimed with
      | none => .done s
      | some j =>
        let s := s.modDie c.die fun x =>
          { x with jobs := x.jobs.modify k.toNat fun l => l.filter fun i => i.idx ≠ j.idx }
        .done (if k = 0 then s.faultOutcome j o else if k = 1 then s.cardOutcome j o
          else if k = 7 then s.callOutcome j o else s))) s

/-! ## SVCR (R162, R282, R384) -/

/-- Every lane of a call has a reply. -/
def SvcCall.complete (k : SvcCall) : Bool := k.sent && k.lanes.all fun l => (k.replies.get? l).isSome
/-- A lane's reply entry as the context's ring holds it (R162); 0 where there is none. -/
def State.replyOf (s : State) (ctx : Nat) (k : SvcCall) (lane : Nat) : BitVec 128 :=
  match k.replies.get? lane with
  | some n => BitVec.ofNat 128 (leNat (readRun s.homeByte (replySlot ctx n) 16))
  | none => 0
/-- The lanes whose replies carry ABORT. -/
def State.aborting (s : State) (ctx : Nat) (k : SvcCall) : List Nat := k.lanes.filter fun l => (s.replyOf ctx k l).getLsbD 48

/-- Whether a saved team can return to its core now: its context holds the cluster, and a slot and its blocks are free. -/
def State.canReturn (s : State) (t : Team) : Bool :=
  s.runningCtx (cluOfCore t.core) = some t.ctx && (s.clu (cluOfCore t.core)).overrun.isNone &&
    !(s.clu (cluOfCore t.core)).saving.contains t.ctx && (s.image? t.ctx (cluOfCore t.core)).isNone && !(s.freeSlots t.core).isEmpty &&
    decide (t.vcount / 8 * (t.lanes / 32) ≤ s.freeBlocks t.core)

/-- Reinstate the team of a complete call: the replies' v0 and v1, or the HOST_ABORT trap. -/
def State.reinstate (s : State) (ctx call : Nat) (k : SvcCall) : State :=
  let s := s.modCtx ctx fun x => { x with calls := x.calls.del call }
  let s := s.unspoil ((((s.team? k.team).map (·.reserve)).getD (0, []))) [k.team]
  let s := s.placeTeam k.team
  match s.aborting ctx k with
  | [] =>
    s.modTeam k.team fun t => k.lanes.foldl (fun t l =>
      let r := s.replyOf ctx k l
      (t.setV 0 l (r.extractLsb' 64 32)).setV 1 l (r.extractLsb' 96 32)) (t.mend 0 2 (maskOf k.lanes))
  | l :: ls => s.faultParked k.team k.path Cause.hostAbort (BitVec.ofNat 32 l) 0 (some (maskOf (l :: ls)))

/-- SVCR (R384). -/
def execSvcr (d : BitVec 5) (x : BitVec 8) (s : State) : Host.Outcome State Fault Refusal :=
  issue (.svcr d x) (fun c s =>
    c.ifActs s (
      let call := (c.ub x).toNat
      let ctx := call % 64
      let answer := fun (s : State) (n : Word) => Res.done (c.modTeam s fun t => t.setS d.toNat n)
      match (s.ctx ctx).calls.get? call with
      | none => answer s 3
      | some k =>
        if !k.complete then answer s 1
        else match s.team? k.team with
          | none => answer s 3
          | some t => if s.canReturn t then answer (s.reinstate ctx call k) 0 else answer s 2)) s

/-! ## CTXS, CTXL (R385) -/

/-- The context and cluster that a save or restore names, if they are good. -/
def Ctx.saveTarget (c : Ctx) (s : State) (x : Word) : Option (Nat × Nat) :=
  let ctx := bits x.toNat 0 6
  let clu := bits x.toNat 6 6
  if decide (x.toNat ≥ 4096) || bits (s.ctx ctx).entry.toNat 0 1 = 0 || clu ≥ Config.clusters || dieOfClu clu ≠ c.die then none
  else some (ctx, clu)

/-- Something of a context is resident on a cluster: a team, or a group with what it owns. -/
def State.residentState (s : State) (ctx clu : Nat) : Bool :=
  s.anyResident ctx clu || (s.clu clu).groups.any fun p => p.2.ctx = ctx

/-- The save of step 2 of R408, its teams settled, and the cluster's release. -/
def State.saveAndFree (s : State) (ctx clu : Nat) : State :=
  let s := (s.saveContext ctx clu).modClu clu fun c => { c with saving := c.saving.filter (· ≠ ctx) }
  if s.runningCtx clu = some ctx then (s.endSlice clu).chooseSlice clu else s

/-- CTXL: a restore waits until everything that the image takes of the cluster is free (log 21). -/
def execCtxl (d : BitVec 5) (x : BitVec 8) (s : State) : Host.Outcome State Fault Refusal :=
  issue (.ctxl d x) (fun c s =>
    c.ifActs s (
      match c.saveTarget s (c.ub x) with
      | none => c.trap Cause.illegalOperand (wordOf (.ctxl d x))
      | some (ctx, clu) =>
        match s.image? ctx clu with
        | none => .done (c.modTeam s fun t => t.setS d.toNat 1)
        | some i =>
          if s.restorable ctx clu i then .done (c.modTeam (s.restoreContext ctx clu) fun t => t.setS d.toNat 0)
          else .park s .saving)) s

/-! ## XTRIG, TRON, EXPD (R386–R388) -/

/-- XTRIG #1 (R386, R443). -/
def execXtrig (s : State) : Host.Outcome State Fault Refusal :=
  issue .xtrig (fun c s => c.ifActs s (.done (s.haltContext c.t.ctx c.die none))) s

/-- Switch tracing of a context on every die; where it comes on, each of its paths owes a SYNC (R165, R387). -/
def State.switchTrace (s : State) (ctx : Nat) (on : Bool) : State :=
  (List.range Config.dies).foldl (fun s d =>
    let was := (s.die d).traced.getLsbD ctx
    let bit : BitVec 64 := 1#64 <<< ctx
    let s := s.modDie d fun x => { x with traced := if on then x.traced ||| bit else x.traced &&& ~~~bit }
    if on && !was then
      { s with teams := s.teams.map fun (p : Nat × Team) =>
          (p.1, if p.2.ctx = ctx && dieOfCore p.2.core = d then
            { p.2 with paths := p.2.paths.map fun (q : Nat × Path) => (q.1, { q.2 with needSync := true }) } else p.2) }
    else s) s

/-- TRON (R387). -/
def execTron (x : BitVec 8) (s : State) : Host.Outcome State Fault Refusal :=
  issue (.tron x) (fun c s =>
    c.ifActs s (
      let w := (c.ub x).toNat
      if bits w 1 7 ≠ 0 || (if c.t.fw then decide (w ≥ 2 ^ 14) else decide (w ≥ 256)) then
        c.trap Cause.illegalOperand (wordOf (.tron x))
      else .done (s.switchTrace (if c.t.fw then bits w 8 6 else c.t.ctx) (bits w 0 1 = 1)))) s

/-- Whether a trial block holds only values in range. -/
def trialOk (b : Nat) : Bool :=
  let start := bits b 0 64
  let stop := bits b 64 64
  start % 16 = 0 && stop % 16 = 0 && decide (stop < 2 ^ 56) && decide (start < stop) && decide (1 ≤ bits b 128 8) &&
  decide (bits b 136 8 ≤ 15) && decide (1 ≤ bits b 144 16) && bits b 160 32 = 0 && bits b 192 64 % 64 = 0 && bits b 256 256 = 0

/-- EXPD (R212, R388). -/
def execExpd (x : BitVec 5) (s : State) : Host.Outcome State Fault Refusal :=
  issue (.expd x) (fun c s =>
    c.ifActs s (
      c.loadBlock s (c.s2 x).toNat 64 fun s b =>
        if !trialOk b then c.trap Cause.illegalOperand (wordOf (.expd x))
        else if (s.clu c.clu).trial.isSome then c.trap Cause.priv (wordOf (.expd x))
        else
          let k := bits b 136 8
          let r : Trial :=
            { ctx := c.t.ctx, start := bits b 0 64, stop := bits b 64 64, d := bits b 128 8, k := k, t := bits b 144 16,
              record := bits b 192 64, delay := false, began := s.ns, p0 := 0, e0 := 0,
              base := s.progress c.clu c.t.ctx k, n := 0 }
          .done ((s.modClu c.clu fun x => { x with trial := some r }).post (.trialPhaseEnd c.clu)))) s

end Sys2Proof.Machine
end

