-- ==== Sys2Proof/Machine/Schedule.lean ====
section
/-!
DEFINITION. Sys2Proof/Machine/Schedule.lean: what time and the scheduler do: EDF periods, stop requests and slices
(R204–R206, R406, R407), hard pre-emption and forced resets (R408, R411), trial phases (R212), completions of outstanding
instructions (R63, R198), the job watchdog (R422), service-call rings (R161, R162), overlay loads (R256) and late store
faults (R419).
-/
namespace Sys2Proof.Machine

/-! ## Periods and slices (R204, R205, R406, R407) -/

/-- The entry that runs on a cluster, with its index. -/
def State.runningEdf (s : State) (clu : Nat) : Option (Nat × Edf) :=
  match (s.clu clu).running with
  | none => none
  | some i => (s.edfEntry? clu i).map fun e => (i, e)

/-- Hard pre-emption starts where REMAIN is 0 with a team of the context resident (R205, R408 step 1): issue of the context
stops on the cluster, DRAIN_OVERRUN and a class-3 job are posted, and the 50 µs save timer runs from the time REMAIN
reached 0. -/
def State.hardPreempt (s : State) (clu : Nat) : State :=
  match s.runningEdf clu with
  | none => s
  | some (i, e) =>
    if s.edfRemain clu i > 0 || !s.anyResident e.ctx clu || (s.clu clu).overrun.isSome then s
    else
      let zeroAt := (s.clu clu).runSince + e.remain
      let s := (s.teamsAt e.ctx clu .resident).foldl (fun s t => s.modTeam t fun x => { x with stopped := true }) s
      let s := (s.postCause clu Cause.drainOverrun e.ctx 0).countCtx (dieOfClu clu) e.ctx 0x873
      let s := s.postJob (dieOfClu clu) 3 (BitVec.ofNat 32 e.ctx) (BitVec.ofNat 32 clu) 0 0 0 none
      (s.modClu clu fun c => { c with overrun := some zeroAt, saveTimer := some (zeroAt + 50000) }).post (.saveTimerExpiry clu)

/-- EDF_PERIOD_START (R205): the event waits for DEADLINE and then for the next one. A slice whose REMAIN has reached 0 with
teams resident is overrun before the new budget comes. -/
def execEdfPeriodStart (clu i : Nat) (s : State) : Host.Outcome State Fault Refusal :=
  event (
    match s.edfEntry? clu i with
    | none => s
    | some e =>
      if !e.valid then s
      else if s.ns < e.deadline then s.postOnce (.edfPeriodStart clu i)
      else
        let s := (s.wake.hardPreempt clu).settleRemain clu
        let s := s.modEdf clu i fun e => { e with
          deadline := (e.deadline + e.period) % 2 ^ 64, remain := e.budget - e.carry, carry := e.carry - e.budget }
        let s := if e.budget ≤ e.carry then
            (s.postCause clu Cause.budgetOverrun e.ctx 0).countCtx (dieOfClu clu) e.ctx 0x874
          else s
        (s.postOnce (.edfPeriodStart clu i)).postOnce (.groupAdmission clu))

/-- STOP_REQUEST (R406): once REMAIN has fallen to DRAIN; gather windows of the context stop at the time they have run. -/
def execStopRequest (clu : Nat) (s : State) : Host.Outcome State Fault Refusal :=
  event (
    match s.runningEdf clu with
    | none => s
    | some (i, e) =>
      if (s.clu clu).stopReq then s
      else if s.edfRemain clu i > e.drain then s.postOnce (.stopRequest clu)
      else
        let s := { s with forming := s.forming.map fun (p : Nat × Forming) =>
          (p.1, if p.2.clu = clu && p.2.launch.ctx = e.ctx then { p.2 with opened := s.ns - p.2.opened } else p.2) }
        s.modClu clu fun c => { c with stopReq := true })

/-- The cluster is free: what the context's drained teams hold is saved with them, and the cluster goes to the next entry. -/
def State.freeCluster (s : State) (clu ctx : Nat) : State :=
  let s := if (s.teamsAt ctx clu .saved).isEmpty || (s.image? ctx clu).isSome then s else s.saveContext ctx clu
  (s.endSlice clu).chooseSlice clu

/-- SLICE_END (R205, R407): REMAIN has reached 0, or a stop request is pending or no work is left, with no team of the
context resident. With teams resident at REMAIN 0 hard pre-emption starts here. Drain saves that wait for their teams' instructions go
on (R273). -/
def execSliceEnd (clu : Nat) (s : State) : Host.Outcome State Fault Refusal :=
  event (
    match s.runningEdf clu with
    | none => s
    | some (i, e) =>
      let s := ((s.teamsAt e.ctx clu .resident).filter fun t => match s.team? t with | some u => u.leaving | none => false).foldl
        State.drainSave s
      let there := s.anyResident e.ctx clu
      if s.edfRemain clu i = 0 && there then (s.hardPreempt clu).postOnce (.sliceEnd clu)
      else if !there && (s.edfRemain clu i = 0 || (s.clu clu).stopReq || (s.clu clu).overrun.isSome || !s.edfWork e.ctx clu) then
        s.freeCluster clu e.ctx
      else s.postOnce (.sliceEnd clu))

/-- HARD_PREEMPTION (R408 step 1): the slice end at REMAIN 0 with teams resident, as an event of its own. -/
def execHardPreemption (clu : Nat) (s : State) : Host.Outcome State Fault Refusal := event (s.hardPreempt clu)

/-! ## Forced reset (R411) -/

/-- The host packets that a context's records and cards on a cluster work for. DESIGN CHOICE (log 45): R158 and R411 do not say whether a
launch that waits for admission there, or a group wholly off-core by SVC, is work on the cluster; it counts as such. -/
def State.packetsOn (s : State) (ctx clu : Nat) (srcs : List Origin) : List (Nat × Nat) :=
  let cards := (s.cards.filter fun p => p.2.ctx = ctx && p.2.clu = clu && p.2.open).map (·.2)
  let packetOf (n : Nat) : List (Nat × Nat) := ((((s.ctx ctx).nodes.get? n).bind (·.packet)).map ([·])).getD []
  let fed := ((s.clu clu).feeds.flatMap (·.2)).filter fun x => x.1 / 64 = ctx
  (((srcs ++ fed.map (·.2.1)).flatMap fun o => match o with | .code => [] | .node n => packetOf n | .packet q idx => [(q, idx)]) ++
    (cards.flatMap fun k => (match k.stream with | .node c n => if c = ctx then packetOf n else [] | _ => []) ++
      (k.packet.map ([·])).getD [])).eraseDups

/-- A forced reset of a context on a cluster. Its running and paused tasks and its cards fail, its resident teams end with their groups.
Groups that wait for admission stay (R46, R48), and so do those whose teams are all off-core; what drained ones hold is saved as the
slice ends (R410). -/
def State.forceReset (s : State) (ctx clu : Nat) : State :=
  let c := s.clu clu
  let live := s.teamsAt ctx clu .resident
  let groups := c.groups.filter fun p => p.2.ctx = ctx && p.2.teams.any live.contains
  let launches := (s.forming.filter fun p => p.2.clu = clu && p.2.launch.ctx = ctx).map (·.2.launch)
  let srcs := (groups.flatMap fun p => p.2.srcs) ++ launches.flatMap (·.srcs)
  let packets := s.packetsOn ctx clu (srcs ++ (c.groups.filter fun p => p.2.ctx = ctx).flatMap (fun p => p.2.srcs) ++
    (c.waiting.filter fun l => decide (l.ctx = ctx)).flatMap (·.srcs))
  let s := s.modClu clu fun c => { c with saving := c.saving.filter (· ≠ ctx) }
  let hit (k : Task) : Bool := k.ofCtx ctx clu && (match k.st with | .running _ => true | .paused => true | _ => false)
  let s := ((s.tasks.filter fun p => hit p.2).map (·.1)).foldl (fun s i => s.failTask i Cause.forcedReset) s
  let s := srcs.foldl (fun s o => match o with
    | .node n => s.modNode ctx n fun x => { x with fail := Cause.forcedReset }
    | _ => s) s
  -- records held by the former no longer count
  let s := { s with forming := s.forming.filter fun p => !(p.2.clu = clu && p.2.launch.ctx = ctx) }
  let s := launches.foldl (fun s l => s.recordsEnd l.pool l.srcs) s
  -- every team of the groups ends, the resident ones with a record
  let s := live.foldl (fun s i =>
    match s.team? i with
    | none => s
    | some t =>
      let pc := match t.paths with | (_, p) :: _ => slotAddr p.pc | [] => 0
      s.endTeam i (some (Cause.forcedReset, pc, 0))) s
  let s := groups.foldl (fun s p => p.2.teams.foldl (fun s i =>
    match s.team? i with
    | some t => if t.place = .ended then s else
        (s.modCtx ctx fun x => { x with calls := x.calls.filter fun k => k.2.team ≠ i }).endTeam i none
    | none => s) s) s
  let s := (s.cards.filter fun p => p.2.ctx = ctx && p.2.clu = clu && p.2.open).foldl
    (fun s p => s.endCard p.1 Cause.forcedReset) s
  let s := (s.postCause clu Cause.forcedReset ctx 0).countCtx (dieOfClu clu) ctx 0x875
  let s : State := packets.foldl (fun (s : State) p => s.abortPacket p.1 p.2 Cause.forcedReset (BitVec.ofInt 64 (-1))) s
  if s.runningCtx clu = some ctx then s.freeCluster clu ctx else s

/-- CTXS (R385): `prog` − 1 is the device time at which the save began. A save that has not ended 50 µs later, or that a forced
reset has ended, answers FORCED_RESET. DESIGN CHOICE (log 21): where another agent's CTXS has saved the context meanwhile, it is saved,
and the answer is 0. -/
def execCtxs (d : BitVec 5) (x : BitVec 8) (s : State) : Host.Outcome State Fault Refusal :=
  issue (.ctxs d x) (fun c s =>
    c.ifActs s (
      match c.saveTarget s (c.ub x) with
      | none => c.trap Cause.illegalOperand (wordOf (.ctxs d x))
      | some (ctx, clu) =>
        let answer := fun (s : State) (n : Word) => Res.done (c.modTeam s fun t => t.setS d.toNat n)
        if c.p.prog = 0 && !s.residentState ctx clu then answer s 1
        else if c.p.prog > 0 && !(s.clu clu).saving.contains ctx then
          answer s (if (s.image? ctx clu).isSome then 0 else Cause.forcedReset.setWidth 32)
        else if c.p.prog > 0 && decide (s.ns ≥ c.p.prog - 1 + 50000) then
          answer (s.forceReset ctx clu) (Cause.forcedReset.setWidth 32)
        else
          let (ready, s') := s.settleContext ctx clu
          if ready then answer (s'.saveAndFree ctx clu) 0
          else
            let kept := (c.s.settleContext ctx clu).2.modClu clu fun k =>
              { k with saving := if k.saving.contains ctx then k.saving else k.saving ++ [ctx] }
            .park (c.modPath kept fun p => { p with prog := if c.p.prog = 0 then s.ns + 1 else c.p.prog }) .saving)) s
/-- SAVE_TIMER_EXPIRY (R408, R412): a save that has not ended in 50 µs becomes a forced reset. -/
def execSaveTimerExpiry (clu : Nat) (s : State) : Host.Outcome State Fault Refusal :=
  event (
    match (s.clu clu).saveTimer, s.runningCtx clu with
    | some t, some ctx => if s.ns < t then s.postOnce (.saveTimerExpiry clu) else s.forceReset ctx clu
    | _, _ => s)

/-! ## Trials (R212, R213) -/

/-- TRIAL_PHASE_END (R212): the baseline phase gives way to the delay phase, and that one to the record. -/
def execTrialPhaseEnd (clu : Nat) (s : State) : Host.Outcome State Fault Refusal :=
  event (
    match (s.clu clu).trial with
    | none => s
    | some r =>
      if s.ns < r.began + 1000 * r.t then s.postOnce (.trialPhaseEnd clu)
      else if r.delay then s.wake.finishTrial clu false
      else
        let r := { r with delay := true, e0 := s.ns - r.began, p0 := s.trialGrowth clu r, began := s.ns,
                          base := s.progress clu r.ctx r.k }
        (s.wake.modClu clu fun c => { c with trial := some r }).post (.trialPhaseEnd clu))

/-! ## Waits that time ends -/

/-- SLEEP_EXPIRY (R274). -/
def execSleepExpiry (tid pid : Nat) (s : State) : Host.Outcome State Fault Refusal :=
  event (
    match (s.team? tid).bind fun t => t.paths.get? pid with
    | none => s
    | some p =>
      match p.st with
      | .parked (.sleep u) =>
        if s.ns < u then s.postOnce (.sleepExpiry tid pid)
        else s.wake.modPath tid pid fun p => { p with st := .ready, since := s.cycle }
      | _ => s)

/-- The level of a candidate at base levels 0–9 that has waited w cycles (R401). -/
def agedLevel (base w : Nat) : Nat := min 9 (base + w / 256)

/-- PRIORITY_AGING (R401): a level is what `agedLevel` gives for the cycles since the path became eligible or issued, so
the passing of 256 cycles changes no field; nothing is to be written. -/
def execPriorityAging (_tid _pid : Nat) (s : State) : Host.Outcome State Fault Refusal := event s

/-- NARROW_WRITEBACK_TIMER (R105): the line's dirty words are written back 2 µs after the oldest became dirty. -/
def execNarrowWritebackTimer (core line : Nat) (s : State) : Host.Outcome State Fault Refusal :=
  event (
    match s.l1? core line with
    | none => s
    | some l =>
      if l.dirty = 0 then s
      else if s.ns < l.dirtyAt + 2000 then s.postOnce (.narrowWritebackTimer core line)
      else s.writeBackLine core line)

/-- TRACE_SYNC_TIMER (R165): a path of a resident team emits its SYNC once 4,096 packets or 64 µs have passed since its last,
parked or not, or, off its core by then, as it is back; one that owes its first under tracing emits it as it issues. -/
def execTraceSyncTimer (tid pid : Nat) (s : State) : Host.Outcome State Fault Refusal :=
  event (
    match s.team? tid with
    | none => s
    | some t =>
      match t.paths.get? pid with
      | none => s
      | some p =>
        if !s.traced t || t.place = .ended || p.needSync then s
        else if t.place = .resident && s.syncDue t p then s.syncIfDue tid pid
        else s.postOnce (.traceSyncTimer tid pid))

/-- The context and the cluster of a job, as far as its words and its team tell them (R433). -/
def State.jobPlace (s : State) (cls : Nat) (j : Job) : Nat × Nat :=
  let w1 := j.w1.toNat
  let w2 := j.w2.toNat
  let team := match s.team? j.team with | some t => t.ctx | none => 0
  if cls = 0 then (bits j.w3.toNat 24 6, cluOfCore (bits w1 0 10))
  else if cls = 1 then (bits j.w3.toNat 24 6, bits w1 0 6)
  else if cls = 2 then (bits w2 0 6, bits w2 6 6)
  else if cls = 3 || cls = 4 then (w1, w2)
  else if cls = 5 then (bits w1 8 6, bits w1 14 6)
  else if cls = 6 then (team, cluOfCore (bits w1 16 10))
  else (team, cluOfCore (bits w1 8 10))

/-- JOB_WATCHDOG (R422): a job unclaimed for 1 ms is posted again in class 5 with its class and index. -/
def execJobWatchdog (die cls idx : Nat) (s : State) : Host.Outcome State Fault Refusal :=
  event (
    match ((s.die die).jobs.getD cls []).find? fun j => j.idx = idx with
    | none => s
    | some j =>
      if j.claimed || j.reposted || cls ≥ 8 then s
      else if s.ns < j.posted + 1000000 || !s.jobRoom die 5 then s.postOnce (.jobWatchdog die cls idx)
      else
        let s := (s.modJob die cls idx fun j => { j with reposted := true }).wake
        let (ctx, clu) := s.jobPlace cls j
        s.postJob die 5 (BitVec.ofNat 32 (Cause.watchdog.toNat + ctx % 64 * 2 ^ 8 + clu % 64 * 2 ^ 14)) (BitVec.ofNat 32 cls)
          (BitVec.ofNat 32 idx) 0 0 none)

/-! ## Completion of outstanding instructions (R63, R64, R198) -/

/-- LDA_LANDED (R66). -/
def execLdaLanded (tid tag : Nat) (s : State) : Host.Outcome State Fault Refusal :=
  event (s.modTeam tid fun t => { t with tags := t.tags.modify tag fun g => { g with landed := true } })

/-- Whether an outstanding instruction's condition holds, its team saved or not (R64). What a saved context's TLOAD waits for stands
in its image, and nothing of it completes there. -/
def State.condHolds (s : State) (t : Team) : Cond → Bool
  | .atCycle c => decide (s.cycle ≥ c)
  | .stores ids => !(ids.any s.writeOpen)
  | .tag k => (match t.tags.get? k with | some g => g.landed | none => true)
  | .card id => (match s.cards.get? id with | some k => !k.open | none => true)
  | .tileDef clu name gen =>
    (s.image? t.ctx clu).isNone &&
      (match (s.clu clu).names.get? name with
       | some n => n.gen ≠ gen || (match n.defn with | none => true | some (.held _ _) => true | _ => false)
       | none => true)
  | .tileStore x =>
    (match s.tstores.get? x with
     | some y => y.started && !(y.stores.any s.writeOpen) && !s.unapplied (dieOfCore t.core)
     | none => true)
  | .svc call => ((s.ctx t.ctx).calls.get? call).isNone
  | .appended q id => !((s.mgmt.cmd q).bells.any fun b => b.value.isNone && decide (b.id = id))

/-- What an instruction leaves behind when it completes: a card that nothing awaits, or a store transfer, whose writes are
then visible (R358). -/
def State.condDone (s : State) : Cond → State
  | .card id => if s.awaited id then s else
      (match s.cards.get? id with | some k => if k.open then s else { s with cards := s.cards.del id } | none => s)
  | .tileStore x => let s := s.settleAll; { s with tstores := s.tstores.del x }
  | _ => s

/-- INSTRUCTION_COMPLETE (R63): the instruction leaves the outstanding list, and with it its flag count and its pending
blocks. A service call whose team is not yet settled tries to leave the core again (R282). -/
def execInstructionComplete (tid id : Nat) (s : State) : Host.Outcome State Fault Refusal :=
  event (
    match s.team? tid with
    | none => s
    | some t =>
      match t.outst.find? fun o => o.id = id with
      | none => s
      | some o =>
        if s.condHolds t o.cond then
          (s.modTeam tid fun t => { t with outst := t.outst.filter fun o => o.id ≠ id }).condDone o.cond
        else (match o.cond with
          | .svc call => if t.place = Place.resident then s.svcSave tid call else s
          | _ => s).post (.instructionComplete tid id))

/-! ## Service calls (R161, R162) -/

/-- SVC_REQUEST_ROOM (R161): the host has taken the entries, and calls that wait append theirs, in order. -/
def execSvcRequestRoom (ctx : Nat) (s : State) : Host.Outcome State Fault Refusal :=
  event (
    if ctx ≥ 64 then s
    else
      let s := s.modCtx ctx fun c => { c with room := 1024, requests := [] }
      (s.ctx ctx).calls.foldl (fun s p => s.sendCall ctx p.1) s)

/-- An entry of a context's reply ring holds a reply whose team has not been reinstated. -/
def Context.replyHeld (x : Context) (n : Nat) : Bool := x.calls.any fun p => p.2.replies.any fun r => decide (r.2 = n)

/-- SVC_REPLY (R162): a reply entry arrives in the context's ring; it is one for a lane of an outstanding call, and the last one
posts the class-2 job. One that names an unknown call or lane is discarded and counted. It comes after the host writes
received before it, and those are then visible on every die, so that the reinstated team's acquires see them (R425). -/
def execSvcReply (ctx : Nat) (entry : BitVec 128) (s : State) : Host.Outcome State Fault Refusal :=
  event (
    let s := s.settleAll
    let n := (s.ctx ctx).nextReply % 65536
    if ctx ≥ 64 then s
    else if !s.hostIds.isEmpty || s.unapplied 0 || (s.ctx ctx).replyHeld n then s.post (.svcReply ctx entry)
    else
      let s := s.homePut (atAddr (replySlot ctx n) (natLe 16 entry.toNat))
      let s := s.modCtx ctx fun c => { c with nextReply := n + 1 }
      let e := entry.toNat
      let call := bits e 0 32
      let lane := bits e 32 16
      match (s.ctx ctx).calls.get? call with
      | none => s.countCtx 0 ctx 0x872
      | some k =>
        if !k.lanes.contains lane || !k.sent then s.countCtx 0 ctx 0x872
        else
          let k := { k with replies := k.replies.put lane n }
          let clu := match s.team? k.team with | some t => cluOfCore t.core | none => 0
          let done := k.complete && !k.posted
          let k := { k with posted := k.posted || done }
          let s := s.modCtx ctx fun c => { c with calls := c.calls.put call k }
          if done then
            s.postJob (dieOfClu clu) 2 (BitVec.ofNat 32 call) (BitVec.ofNat 32 (ctx + 64 * clu)) 0 k.team k.path none
          else s)

/-! ## Overlays and late store faults -/

/-- OVERLAY_LOAD_COMPLETE (R256): the overlay replaces the one in the core's firmware store, and the FWCALL that waits for it
enters it (R381). -/
def execOverlayLoadComplete (core n : Nat) (s : State) : Host.Outcome State Fault Refusal :=
  event (
    if decide (core < Config.cores) && (s.mgmt.overlays.get? n).isSome then
      let caller := s.overlayOf core
      let s := s.modCore core fun c => { c with overlay := some n }
      (s.teams.filter fun p => p.2.fw && p.2.core = core).foldl (fun s q =>
        q.2.paths.foldl (fun s p =>
          if p.2.st = PathSt.parked (.overlay n) then
            let (stop, s) := s.endWait q.1 p.1 q.2 p.2
            (s.modTeam q.1 fun t => t.linkOverlay caller (p.2.pc / 16 * 16)).modPath q.1 p.1 fun p => p.goOn stop
          else s) s) s
    else s)

/-- A store that has not been performed leaves flight, and no byte of it is written. -/
def State.dropStore (s : State) (core : Nat) (id : Nat) : State :=
  let (line, span) := match s.pending.find? (isStore id) with
    | some (.writeThroughStore r) => (r.line, spanOf r.bytes)
    | _ => (0, (0, 0))
  let s := { s with pending := s.pending.filter fun e => !isStore id e }
  let s := s.unpin core line id
  (s.dropWords core line span.1 span.2).closeWrite id

/-- LATE_STORE_FAULT (R419): a posted store in flight fails. A team that has not ended takes LATE_STORE at a boundary; for
one that has, an exit record and a class-6 job tell of it. -/
def execLateStoreFault (core tag : Nat) (s : State) : Host.Outcome State Fault Refusal :=
  event (
    match (s.core core).posted.get? tag with
    | none => s
    | some e =>
      if !(s.pending.any (isStore e.store)) then s
      else
        let s := (s.dropStore core e.store).modCore core fun c => { c with posted := c.posted.del tag }
        let gone : Bool := match s.team? e.team with | some t => decide (t.place = .ended) | none => true
        if gone then
          let s := s.exitRecord e.ctx (e.pool % 64) Cause.lateStore.toNat 1 e.index e.role 0 e.addr e.serial core 0 e.work.toNat
          s.postJob (dieOfCore core) 6 (BitVec.ofNat 32 (tag + core * 2 ^ 16)) (BitVec.ofNat 32 e.va)
            (BitVec.ofNat 32 (bits e.va 32 24)) 0 0 none
        else s.deferTrap e.team ⟨Cause.lateStore, BitVec.ofNat 32 tag, e.va, none, none⟩)

end Sys2Proof.Machine
end

