-- ==== Sys2Proof/Machine/Host.lean ====
section
/-!
DEFINITION. Sys2Proof/Machine/Host.lean: the host's side: command packets (R33, R156–R158, R191), completion queues (R159,
R160), doorbells and queue states (R155), the BAR2 window (R425) and register writes (R7, R424).
-/
namespace Sys2Proof.Machine

/-! ## Host writes (R425) -/

/-- The physical address of a BAR2 offset, if the whole run lies in the function's window (R424, R425). -/
def State.window (s : State) (fn off n : Nat) : Option Nat :=
  let base := bits (s.mgmt.bar0.getD (2 ^ 20 * fn + 0x400) 0).toNat 0 36 * 65536
  let size := (s.mgmt.bar0.getD (2 ^ 20 * fn + 0x408) 0).toNat * 65536
  if fn ≤ 16 && decide (off + n ≤ size) && decide (base + off + n ≤ Config.hbmBytes) then some (base + off) else none

/-- A posted write of an agent outside the device: performed at once, or, while an earlier one of its stream is held, behind
that one (R425, R429); the stores' serial numbers. -/
def State.outsideWrite (s : State) (behind : Option (Nat × Held)) (die ctx : Nat) (bs : List (Nat × Byte)) : List Nat × State :=
  match behind with
  | none => s.engineWrite die ctx bs
  | some (k, h) =>
    (linePieces bs).foldl (fun (acc : List Nat × State) (p : Nat × List (Nat × Byte)) =>
      let (id, s) := acc.2.serial
      let r : StoreReq := { id := id, agent := .die die, ctx := ctx, scope := Scope.package, line := p.1, bytes := p.2,
                            sharer := false, stamp := (s.die die).clock, posted := none }
      let h := (s.held.get? k).getD h
      (acc.1 ++ [id], (s.openWrite id die (!isHbm (128 * p.1))).queueBehind k h (.writeThroughStore r))) ([], s)

/-- HOST_WINDOW_WRITE (R425): a PACKAGE-scope store of an agent on die 0; writes are performed in the order received, so one
that comes while an earlier one is held waits behind it. A request outside the window is not accepted. -/
def execHostWindowWrite (fn off : Nat) (bytes : List Byte) (s : State) : Host.Outcome State Fault Refusal :=
  event (
    match s.window fn off bytes.length with
    | none => s
    | some pa => (s.outsideWrite s.hostHeld 0 hostCtx (atAddr pa bytes)).2)

/-- HOST_WINDOW_READ (R101, R425): served at the home slices after forced publish. A request outside the window is completed
without data, and so is one whose bytes cannot be read (R97). -/
def execHostWindowRead (fn off len : Nat) (s : State) : Host.Outcome State Fault Refusal :=
  event (
    match s.window fn off len with
    | none => s.modMgmt fun m => { m with readData := [] }
    | some pa =>
      let s := (linesOf pa len).foldl (fun s l => s.engineLine hostCtx l) s
      let bs := if s.badAt pa len then [] else readRun s.homeByte pa len
      s.modMgmt fun m => { m with readData := bs })

/-! ## Command queues (R155) -/

/-- A write of WRIDX, which is acted on once every host write received before is performed (R425, R439). -/
def State.ringBell (s : State) (q : Nat) (wridx : Word) : State :=
  (s.wake.modCmdq q fun c => { c with bells := c.bells ++ [⟨0, some wridx, s.hostIds⟩] }).pokeBells q

/-- DOORBELL (R155, R425, R439). -/
def execDoorbell (q : Nat) (wridx : Word) (s : State) : Host.Outcome State Fault Refusal :=
  event (if (s.funcOfQueue q).isNone then s else s.ringBell q wridx)

/-- The queue becomes ACTIVE, its packets before WRIDX discarded (R155). -/
def State.enableQueue (s : State) (q : Nat) : State :=
  s.modCmdq q fun c => { c.rung with st := 1, rdidx := c.rung.wridx }

/-- QUEUE_ENABLE (R155, R424): from DISABLED or ABORTED, and not for a context of another function. -/
def execQueueEnable (q : Nat) (s : State) : Host.Outcome State Fault Refusal :=
  event (
    if !s.queueOwn q || (s.mgmt.cmd q).st = 1 then s
    else s.enableQueue q)
/-- QUEUE_DISABLE (R155). -/
def execQueueDisable (q : Nat) (s : State) : Host.Outcome State Fault Refusal :=
  event (if (s.funcOfQueue q).isNone then s else s.modCmdq q fun c => { c with st := 0 })
/-- QUEUE_ABORT_WRITE (R155, R158). -/
def execQueueAbortWrite (q : Nat) (s : State) : Host.Outcome State Fault Refusal :=
  event (if (s.funcOfQueue q).isNone then s else s.modCmdq q fun c => { c with st := 2 })

/-! ## Packets (R33, R156–R158) -/

/-- The abort value −1. -/
def minusOne : DWord := BitVec.allOnes 64

/-- WORK_PACKET (R156). -/
def execWorkPacket (q : Nat) (s : State) : Host.Outcome State Fault Refusal :=
  event (s.startType q 1 fun s idx _ => s.post (.workRecordAppend q idx))

/-- WORK_RECORD_APPEND (R33): the next record, as soon as its ring has room. A rejected one, or one that cannot be read, ends
the packet with its cause. -/
def execWorkRecordAppend (q idx : Nat) (s : State) : Host.Outcome State Fault Refusal :=
  event (
    match s.started? q idx with
    | none => s
    | some p =>
      if pType p.header.toNat ≠ 1 then s
      else
        let b := p.body.toNat
        let ctx := (s.mgmt.cmd q).ctx
        match s.frontRead ctx (bits b 64 64 + 64 * p.appended) 64 with
        | (.inr cause, s) => s.finishPacket q idx cause
        | (.inl bs, s) =>
          match s.recordOk ctx (leNat bs) with
          | (false, s) => s.finishPacket q idx Cause.workInvalid
          | (true, s) =>
            if !s.ringsFit ctx [leNat bs] then s.post (.workRecordAppend q idx)
            else
              let s := s.appendRecord ctx (leNat bs) (.packet q idx)
              let s := s.modStarted q idx fun p => { p with appended := p.appended + 1 }
              if p.appended + 1 < bits b 128 32 then s.post (.workRecordAppend q idx) else s.finishPacket q idx 0)

/-- WAIT_PACKET (R156, R157). -/
def execWaitPacket (q : Nat) (s : State) : Host.Outcome State Fault Refusal :=
  event (s.startType q 2 fun s idx _ => s.post (.waitSignalRead q idx))

/-- What a WAIT's entries say when they are read. -/
inductive Waiting where
  | met
  | notYet
  | negative (v : DWord)
  | fault (cause : Byte)
  deriving DecidableEq, Repr

/-- Read the used entries from number i on, as acquires of the front end: a fault first, then a negative value, then the
conditions. -/
def State.waitEntries (s : State) (ctx b : Nat) : List Nat → Waiting → Waiting × State
  | [], w => (w, s)
  | i :: rest, w =>
    let e := bits b (128 + 64 * i) 64
    let cond := e % 8
    if cond = 0 then State.waitEntries s ctx b rest w
    else match s.signalXlat ctx (e / 8 * 8) false with
      | (.inr cause, s) => (.fault cause, s)
      | (.inl pa, s) =>
        let (bs, s) := s.engineRead ctx pa 8
        let v : DWord := BitVec.ofNat 64 (leNat bs)
        let w := match w with
          | .negative x => .negative x
          | w => if v.toInt < 0 then .negative v
            else if signalCond cond v (BitVec.ofNat 64 (bits b 64 64)) then w else .notYet
        State.waitEntries s ctx b rest w

/-- WAIT_SIGNAL_READ (R157, R158): the packet completes when every condition holds, and the work before it is then visible to
the packets after it; a negative value, or an address that fails, aborts the queue. -/
def execWaitSignalRead (q idx : Nat) (s : State) : Host.Outcome State Fault Refusal :=
  event (
    match s.started? q idx with
    | none => s
    | some p =>
      if pType p.header.toNat ≠ 2 then s
      else match s.waitEntries (s.mgmt.cmd q).ctx p.body.toNat (List.range 6) .met with
        | (.fault cause, s) => s.abortPacket q idx cause minusOne
        | (.negative v, s) => s.abortPacket q idx Cause.peerAbort v
        | (.met, s) => s.settleAll.finishPacket q idx 0
        | (.notYet, s) => s.post (.waitSignalRead q idx))

/-- Send a SIGNAL's update: a release of die 0 at PACKAGE scope, then the update at the signal's bank; `appended` keeps its
serial number until it is performed (MODEL). -/
def State.sendSignal (s : State) (q idx p : Nat) : State :=
  let ctx := (s.mgmt.cmd q).ctx
  match s.signalXlat ctx (bits p 64 64) true with
  | (.inr cause, s) => s.abortPacket q idx cause minusOne
  | (.inl pa, s) =>
    let v : DWord := BitVec.ofNat 64 (bits p 128 64)
    let op := bits p 192 8
    let s := s.settleAll.raiseClock 0
    let (id, s) := s.serial
    let s := s.openWrite id 0 false
    let s := s.modStarted q idx fun p => { p with done := true, appended := id }
    let s := s.homeBank { id := id, agent := .die 0, ctx := ctx, scope := Scope.package, op := if op = 0 then 0 else 1, ty := 2,
                          lanes := [⟨pa, if op = 2 then - v else v, 0⟩], graph := false, stamp := (s.die 0).clock }
    (s.sendMarkers 0).post (.signalPacket q)

/-- SIGNAL_PACKET (R157): SIGNALs whose update has been performed complete; then the next packet, if it is a SIGNAL, once the
writes of the work that completed before it are performed and applied on every die (R116, R127). -/
def execSignalPacket (q : Nat) (s : State) : Host.Outcome State Fault Refusal :=
  event (
    let mine := (s.mgmt.cmd q).started.filter fun p => pType p.header.toNat = 3 && p.done
    let s := mine.foldl (fun s p =>
      if s.writeOpen p.appended then s.postOnce (.signalPacket q) else s.finishPacket q p.index 0) s
    let s := s.settleAll
    if !s.allVisible then s.postOnce (.signalPacket q)
    else s.startType q 3 fun s idx p => s.sendSignal q idx p)

/-- COPY_PACKET (R136, R156, R158): the card joins the queue's stream once its tracker has room; a rejected one, or one that
cannot be read, aborts the queue, its signal updated (R193). -/
def execCopyPacket (q : Nat) (s : State) : Host.Outcome State Fault Refusal :=
  event (
    if s.trackerFull (.queue q) then s.post (.copyPacket q)
    else s.startType q 4 fun s idx p =>
      let ctx := (s.mgmt.cmd q).ctx
      match s.frontRead ctx (bits p 64 64) 128 with
      | (.inr _, s) => s.abortPacket q idx Cause.cardInvalid minusOne
      | (.inl bs, s) =>
        if cardOk (leNat bs) 0 0 then
          (s.submitCard (.queue q) ctx 0 0 0 0 0 (bits p 64 64) (leNat bs) (some (q, idx))).2
        else (s.rejectSignal ctx (leNat bs)).abortPacket q idx Cause.cardInvalid minusOne)

/-- A GRAPH packet's work is over: no node of it is left and no decrement of it is in flight (R191). -/
def State.graphOver (s : State) (ctx q idx : Nat) : Bool :=
  !((s.ctx ctx).nodes.any fun p => p.2.packet = some (q, idx)) && !((s.ctx ctx).decs.any fun p => p.2.2 = some (q, idx))

/-- GRAPH_PACKET (R43, R191): GRAPH packets that are over complete with the first failure in retirement order; then the next
packet, if it is a GRAPH, starts with a decrement of its root block's PRED. -/
def execGraphPacket (q : Nat) (s : State) : Host.Outcome State Fault Refusal :=
  event (
    let ctx := (s.mgmt.cmd q).ctx
    let mine := (s.mgmt.cmd q).started.filter fun p => pType p.header.toNat = 5
    let s := mine.foldl (fun s p =>
      if s.graphOver ctx q p.index then s.finishPacket q p.index ((s.started? q p.index).map (·.status) |>.getD 0) else s) s
    s.startType q 5 fun s idx p =>
      match s.frontXlat ctx (bits p 64 64) true with
      | (.fault cause _, s) => s.finishPacket q idx cause
      | (.ok pa _, s) => (s.settleAll.sendDecrement (.die 0) 0 ctx (bits p 64 64) pa Scope.package (some (q, idx))).2)

/-- MARKER_PACKET (R156): it completes with the last of the packets before it. The event also acts on moves of WRIDX that had to
wait for stores (R373, R425), and looks for a packet whose abort list has been stored. -/
def execMarkerPacket (q : Nat) (s : State) : Host.Outcome State Fault Refusal :=
  event (
    let s := (s.closeAborted q).startType q 6 fun s _ _ => s.finishMarkers q ((s.mgmt.cmd q).started.length + 1)
    if (s.mgmt.cmd q).bells.isEmpty then
      match s.nextPacket q with
      | (some p, _) => if pType p = 6 then s else s.pokeQueue q
      | (none, _) => s
    else s.pokeBells q)

/-! ## Completion queues (R159, R160) -/

def State.modCpl (s : State) (q : Nat) (f : CplQueue → CplQueue) : State :=
  s.modMgmt fun m => { m with cplq := m.cplq.put q (f (m.cpl q)) }
def CplQueue.ring (c : CplQueue) : Nat := 64 * 2 ^ c.size

/-- Raise the interrupt: it covers every pending entry. -/
def State.interrupt (s : State) (q : Nat) : State :=
  (s.modCpl q fun c => { c with pendingN := 0 }).modMgmt fun m => { m with msix := ((s.funcOfQueue q).getD 0, (m.cpl q).vector) :: m.msix }

/-- Raise it now, or set its timer, as the descriptor says. -/
def State.interruptTest (s : State) (q : Nat) : State :=
  let c := s.mgmt.cpl q
  if !c.en || c.pendingN = 0 then s
  else if decide (c.pendingN ≥ max 1 c.cnt) || c.timer = 0 then s.interrupt q
  else s.postOnce (.cqInterruptTimer q)

/-- The address of the next entry: the host's memory through the host aperture (R76). -/
def CplQueue.slot (c : CplQueue) : Nat := 0x1000000000000 + c.base.toNat % 2 ^ 48 + 16 * (c.tail.toNat % c.ring)
/-- PHASE (R160). -/
def CplQueue.phase (c : CplQueue) : Nat := 1 - c.tail.toNat / c.ring % 2

/-- COMPLETION_ENTRY_POST (R160): the first entry that waits is written once the ring has room. -/
def execCompletionEntryPost (q : Nat) (s : State) : Host.Outcome State Fault Refusal :=
  event (
    let c := s.mgmt.cpl q
    match c.waiting with
    | [] => s
    | e :: rest =>
      if (c.tail - c.head).toNat ≥ c.ring then s
      else
        let s := (s.engineWrite 0 64 (atAddr c.slot (natLe 16 (e.toNat + c.phase * 2 ^ 127)))).2
        let s := s.modCpl q fun c => { c with
          waiting := rest, tail := c.tail + 1, pendingN := c.pendingN + 1,
          pendingSince := if c.pendingN = 0 then s.ns else c.pendingSince }
        let s := s.interruptTest q
        if rest.isEmpty then s else s.postOnce (.completionEntryPost q))

/-- CQ_INTERRUPT_TIMER (R159): TIMER µs after the oldest pending entry was posted. -/
def execCqInterruptTimer (q : Nat) (s : State) : Host.Outcome State Fault Refusal :=
  event (
    let c := s.mgmt.cpl q
    if !c.en || c.pendingN = 0 then s
    else if s.ns ≥ c.pendingSince + 1000 * c.timer then s.wake.interrupt q
    else s.postOnce (.cqInterruptTimer q))

/-- CQ_HEAD_WRITE (R160). -/
def execCqHeadWrite (q : Nat) (head : Word) (s : State) : Host.Outcome State Fault Refusal :=
  event (
    let s := s.modCpl q fun c => { c with head := head }
    if (s.mgmt.cpl q).waiting.isEmpty then s else s.postOnce (.completionEntryPost q))

/-- A write of BASE, or of SIZE, whose reserved values are ignored: TAILIDX becomes 0 (R159). -/
def State.resetRing (s : State) (q : Nat) (isSize : Bool) (val : DWord) : State :=
  if isSize then
    if val.toNat % 16 ≤ 10 then s.modCpl q fun c => { c with size := val.toNat % 16, tail := 0 } else s
  else s.modCpl q fun c => { c with base := val.setWidth 56, tail := 0 }

/-- CQ_RING_RESET (R159). -/
def execCqRingReset (q : Nat) (isSize : Bool) (val : DWord) (s : State) : Host.Outcome State Fault Refusal :=
  event (s.resetRing q isSize val)

/-! ## Registers (R7, R424) -/

/-- Fields of a command queue's descriptor by 8-byte word (R155); a write that would make ACTIVE a queue whose context its
function does not own is ignored (R424). -/
def State.writeCqd (s : State) (q part : Nat) (val : DWord) : State :=
  let v := val.toNat
  if part = 0 then s.modCmdq q fun c => { c with base := val.setWidth 56 }
  else if part = 1 then
    let new := s.modCmdq q fun c => { c with
      size := if v % 16 ≤ 10 then v % 16 else c.size, cq := bits v 4 8, ctx := bits v 12 6 }
    let st := bits v 18 2
    if st = 1 then (if !new.queueOwn q then s else if (s.mgmt.cmd q).st = 1 then new else new.enableQueue q)
    else if st = 3 then new else new.modCmdq q fun c => { c with st := st }
  else if part = 2 then s.modCmdq q fun c => { c with abtBase := val.setWidth 56 }
  else s.ringBell q (val.setWidth 32)

/-- Fields of a completion queue's descriptor by 8-byte word (R159). -/
def State.writeCpd (s : State) (q part : Nat) (val : DWord) : State :=
  let v := val.toNat
  if part = 0 then (s.resetRing q false val).resetRing q true (val >>> 56)
  else if part = 1 then
    (s.modCpl q fun c => { c with vector := bits v 0 8, cnt := bits v 8 8, timer := bits v 16 16, en := val.getLsbD 32 }).interruptTest q
  else if part = 2 then
    let s := s.modCpl q fun c => { c with head := val.setWidth 32 }
    if (s.mgmt.cpl q).waiting.isEmpty then s else s.postOnce (.completionEntryPost q)
  else s

def State.putBar (s : State) (fn off : Nat) (val : DWord) : State :=
  s.modMgmt fun m => { m with bar0 := Tab.store 0 m.bar0 (2 ^ 20 * fn + off) val }

/-- The device queue that a function's k-th one is (R424), command and completion queues alike (log 40). -/
def State.barQueue (s : State) (fn k : Nat) : Option Nat :=
  let (first, count) := s.qAssign fn
  if k < count && decide (first + k < 256) then some (first + k) else none

/-- A write to a BAR0 register (R424): a read-only one, and a PF-only one of a VF, ignore it. DESIGN CHOICE (log 40): the spec
gives no width for a write to BAR0; a descriptor is written in whole aligned 8-byte words, and a write at any other offset
of it is ignored. -/
def State.writeBar (s : State) (fn off : Nat) (val : DWord) : State :=
  if fn > 16 then s
  else if off = 0x8 then if fn = 0 then s.putBar fn off (val &&& 0xFFFFFF) else s
  else if 0x100 ≤ off && off < 0x100 + 4 * 17 && off % 4 = 0 then if fn = 0 then s.putBar fn off (val &&& 0xFFFF) else s
  else if 0x200 ≤ off && off < 0x200 + 8 * 17 && off % 8 = 0 then if fn = 0 then s.putBar fn off val else s
  else if off = 0x400 then s.putBar fn off (val &&& 0xFFFFFFFFF)
  else if off = 0x408 then s.putBar fn off val
  else if 0x10000 ≤ off && off < 0x10000 + 32 * 256 && off % 8 = 0 then
    match s.barQueue fn ((off - 0x10000) / 32) with
    | some q => s.writeCqd q (off % 32 / 8) val
    | none => s
  else if 0x20000 ≤ off && off < 0x20000 + 32 * 256 && off % 8 = 0 then
    match s.barQueue fn ((off - 0x20000) / 32) with
    | some q => s.writeCpd q (off % 32 / 8) val
    | none => s
  else s

/-- The words of a command queue's descriptor as a read returns them (R155). -/
def CmdQueue.word (c : CmdQueue) (part : Nat) : DWord :=
  if part = 0 then c.base.setWidth 64
  else if part = 1 then BitVec.ofNat 64 (c.size % 16 + c.cq % 256 * 2 ^ 4 + c.ctx % 64 * 2 ^ 12 + c.st % 4 * 2 ^ 18)
  else if part = 2 then c.abtBase.setWidth 64
  else c.rdidx ++ c.wridx
/-- The words of a completion queue's descriptor as a read returns them (R159); bytes 24 to 31 are reserved. -/
def CplQueue.word (c : CplQueue) (part : Nat) : DWord :=
  if part = 0 then BitVec.ofNat 64 (c.base.toNat + c.size % 16 * 2 ^ 56)
  else if part = 1 then
    BitVec.ofNat 64 (c.vector % 256 + c.cnt % 256 * 2 ^ 8 + c.timer % 65536 * 2 ^ 16 + if c.en then 2 ^ 32 else 0)
  else if part = 2 then c.tail ++ c.head
  else 0

/-- What a read of a BAR0 register returns (R7, R424): FUNCID and STATUS, the PF's registers, zero to a VF, the window, and the
descriptors with their hardware indices. What the map does not name reads 0, and no read changes anything. Like a write,
a read is of a whole aligned 8-byte word, but for the 4-byte QASSIGN (log 40). -/
def State.readBar (s : State) (fn off : Nat) : DWord :=
  let reg := s.mgmt.bar0.getD (2 ^ 20 * fn + off) 0
  if fn > 16 then 0
  else if off = 0 then BitVec.ofNat 64 fn
  else if off = 0x10 then BitVec.ofNat 64 ((if s.mgmt.alarm then 1 else 0) + s.mgmt.power % 8 * 2)
  else if off = 0x8 || (decide (0x100 ≤ off) && decide (off < 0x100 + 4 * 17) && off % 4 = 0) ||
      (decide (0x200 ≤ off) && decide (off < 0x200 + 8 * 17) && off % 8 = 0) then if fn = 0 then reg else 0
  else if off = 0x400 || off = 0x408 then reg
  else if 0x10000 ≤ off && off < 0x10000 + 32 * 256 && off % 8 = 0 then
    match s.barQueue fn ((off - 0x10000) / 32) with
    | some q => (s.mgmt.cmd q).word (off % 32 / 8)
    | none => 0
  else if 0x20000 ≤ off && off < 0x20000 + 32 * 256 && off % 8 = 0 then
    match s.barQueue fn ((off - 0x20000) / 32) with
    | some q => (s.mgmt.cpl q).word (off % 32 / 8)
    | none => 0
  else 0

/-- REGISTER_WRITE (R7): a BAR0 register, or a CSR as firmware writes it on a core. -/
def execRegisterWrite (r : RegTarget) (val : DWord) (s : State) : Host.Outcome State Fault Refusal :=
  event (
    match r with
    | .bar0 fn off => s.writeBar fn off val
    | .csr core num =>
      if core < Config.cores then s.csrWrite ⟨core, s.seq, s.ctxSel (dieOfCore core)⟩ num (val.setWidth 32) else s)

end Sys2Proof.Machine
end

