-- ==== Sys2Proof/Machine/Fabric.lean ====
section
/-!
DEFINITION. Sys2Proof/Machine/Fabric.lean: the requests and answers of the coherence protocol as steps of their own (R80,
R95, R103–R108, R116, R117), and what reaches the device from its apertures (R419, R421, R427–R429).
-/
namespace Sys2Proof.Machine

/-- A physical address that holds something (R76). -/
def populated (pa : Nat) : Bool := isHbm pa || isHostAp pa || isFabricAp pa
/-- A line request of a core of this package to a populated line. -/
def goodLine (r : LineReq) : Bool :=
  decide (r.core < Config.cores) && populated (128 * r.line) && decide (1 ≤ r.count) && decide (r.first + r.count ≤ 32)
/-- An agent of this package. -/
def goodAgent : Agent → Bool
  | .core c => decide (c < Config.cores)
  | .die d => decide (d < Config.dies)
/-- A write request whose bytes lie in its populated line. -/
def goodStore (r : StoreReq) : Bool :=
  goodAgent r.agent && populated (128 * r.line) && !r.bytes.isEmpty && r.bytes.all fun p => decide (lineOf p.1 = r.line)
/-- A bank request whose lanes lie, aligned, in one populated line. -/
def goodBank (r : BankReq) : Bool :=
  goodAgent r.agent && r.lanes.all fun l => populated l.addr && l.addr % bankBytes r.ty = 0 &&
    decide (lineOf l.addr = lineOf ((r.lanes.headD ⟨0, 0, 0⟩).addr))

/-! ## The protocol (chapter 04) -/

/-- GETS (R106, R107): a fill of the words the core's L1 lacks (R105); one that must wait, for the apply queue or for a link
that retrains (R427), is served later, and one over a link that is down is not served. -/
def execGets (r : LineReq) (s : State) : Host.Outcome State Fault Refusal :=
  event (
    if !goodLine r then s
    else match (s.linkOf (128 * r.line)).map s.linkState with
      | some .down => s
      | some (.retraining _) => s.post (.gets r)
      | _ =>
        let s := s.drainOwn r.core (some r.line)
        (s.fillWords r.core r.line (spanMask r.first r.count) r.scope 0).getD (s.post (.gets r)))
/-- NREQ (R106). -/
def execNreq (r : LineReq) (s : State) : Host.Outcome State Fault Refusal :=
  event (if goodLine r then s.homeNreq r else s)
/-- NGRANT (R105). -/
def execNgrant (core line : Nat) (s : State) : Host.Outcome State Fault Refusal :=
  event (if core < Config.cores then s.takeGrant core line else s)
/-- WTGRANT (R105). -/
def execWtgrant (core line : Nat) (s : State) : Host.Outcome State Fault Refusal :=
  event (if core < Config.cores then s.takeWtGrant core line else s)
/-- WRITE_THROUGH_STORE (R106). -/
def execWriteThroughStore (r : StoreReq) (s : State) : Host.Outcome State Fault Refusal :=
  event (if goodStore r then s.homeStore r else s)
/-- WRITE_BACK (R106); one with no dirty word only gives up its grant. -/
def execWriteBack (r : StoreReq) (giveUp : Bool) (s : State) : Host.Outcome State Fault Refusal :=
  event (if goodStore r || (r.bytes.isEmpty && goodAgent r.agent) then s.homeWriteBack r giveUp else s)
/-- INVALIDATION (R105). -/
def execInvalidation (r : LineReq) (s : State) : Host.Outcome State Fault Refusal :=
  event (if goodLine r then s.dropSpan r.core r.line r.first r.count 64 else s)
/-- BANK_ALU_OPERATION (R95, R106). -/
def execBankAluOperation (r : BankReq) (s : State) : Host.Outcome State Fault Refusal :=
  event (if goodBank r then s.homeBank r else s)
/-- RELEASE_MARKER (R116). -/
def execReleaseMarker (src dst : Nat) (n : BitVec 48) (stamp : Clock) (count : Nat) (s : State) : Host.Outcome State Fault Refusal :=
  event (if src < Config.dies && dst < Config.dies then s.enterMarker src dst n stamp count else s)
/-- APPLY_ENTRY (R117): one entry that is ready is applied, and the next may follow. -/
def execApplyEntry (die : Nat) (s : State) : Host.Outcome State Fault Refusal :=
  event (
    match s.applyOne die with
    | none => s
    | some s => if (s.die die).apply.isEmpty then s else s.postOnce (.applyEntry die))
/-- HOME_EVICTION (R103). -/
def execHomeEviction (line : Nat) (s : State) : Host.Outcome State Fault Refusal :=
  event (if populated (128 * line) then s.homeEvict line else s)
/-- GUEST_EVICTION (R107). -/
def execGuestEviction (die line : Nat) (s : State) : Host.Outcome State Fault Refusal := event (s.guestEvict die line)
/-- FORCED_PUBLISH (R108). -/
def execForcedPublish (line : Nat) (demote : Bool) (s : State) : Host.Outcome State Fault Refusal := event (if demote then s.demote line else s.publish line false)
/-- POSTED_STORE_ACK (R419). -/
def execPostedStoreAck (core tag : Nat) (s : State) : Host.Outcome State Fault Refusal :=
  event (s.modCore core fun k => { k with posted := k.posted.del tag })
/-- PAGE_WALK (R80, R81, R83): a leaf is installed for its core; a cause is the requester's. -/
def execPageWalk (core ctx va : Nat) (write fetch : Bool) (s : State) : Host.Outcome State Fault Refusal :=
  event (
    if core ≥ Config.cores then s
    else
      match s.walk (dieOfCore core) ctx va write fetch with
      | (.inr _, s) => s
      | (.inl t, s) => s.installTlb core t)

/-! ## Links (R421) -/

def State.setLink (s : State) (l : Nat) (x : Link) : State := s.modMgmt fun m => { m with links := m.links.put l x }

/-- LINK_RETRAIN. -/
def execLinkRetrain (l : Nat) (s : State) : Host.Outcome State Fault Refusal :=
  event (if l < 16 && s.linkState l = .up then (s.setLink l (.retraining s.ns)).post (.linkRetrainTimeout l) else s)
/-- LINK_RECOVERY: requests that wait go on. -/
def execLinkRecovery (l : Nat) (s : State) : Host.Outcome State Fault Refusal :=
  event (match s.linkState l with | .retraining _ => s.setLink l .up | _ => s)
/-- LINK_RETRAIN_TIMEOUT: after 2 ms the link is down, and both causes are posted on the die of its port. -/
def execLinkRetrainTimeout (l : Nat) (s : State) : Host.Outcome State Fault Refusal :=
  event (
    match s.linkState l with
    | .retraining since =>
      if s.ns < since + 2000000 then s.postOnce (.linkRetrainTimeout l)
      else
        let clu := Config.clustersPerDie * (l / 4)
        ((s.setLink l .down).postCause clu Cause.linkRetrainTimeout 0 l).postCause clu Cause.linkDown 0 l
    | _ => s)

/-! ## Failing aperture requests (R427, R428) -/

/-- Whether a requester exists that may wait for an aperture: a path of a resident team, or a card that has not ended. -/
def State.mayRequest (s : State) : Requester → Bool
  | .path tid pid => (match s.team? tid with
      | some t => decide (t.place = .resident) && !t.fw && (t.paths.get? pid).isSome
      | none => false)
  | .card id => (match s.cards.get? id with | some k => k.live | none => false)

/-- DESIGN CHOICE (log 46): the next access of a requester to an aperture fails, at the address that the access names. -/
def State.requestFails (s : State) (f : ApFail) : State :=
  if s.mayRequest f.who then s.modMgmt fun m => { m with fails := m.fails ++ [f] } else s

/-- Causes that a peer's translation raises (R80, R428). -/
def peerCause (c : Byte) : Bool :=
  c = Cause.pageNotPresent || c = Cause.pageWrite || c = Cause.pageScopeInvalid || c = Cause.pageFormat

/-- APERTURE_FAILURE (R427, R428): PAGE_NOT_PRESENT for the host, and for the fabric LINK_DOWN or what the peer's translation
raised. -/
def execApertureFailure (who : Requester) (fabric : Bool) (peer : Option Byte) (s : State) : Host.Outcome State Fault Refusal :=
  event (s.requestFails ⟨who, fabric,
    if fabric then ((peer.filter peerCause).getD Cause.linkDown) else Cause.pageNotPresent, false, none⟩)
/-- COMPLETION_TIMEOUT (R427): the next host request of a requester has no completion, and fails 50 ms after it went out. -/
def execCompletionTimeout (team : Option Nat) (id : Nat) (s : State) : Host.Outcome State Fault Refusal :=
  event (s.requestFails ⟨match team with | some tid => .path tid id | none => .card id, false, Cause.pageNotPresent, true, none⟩)

/-! ## Requests of a peer (R428, R429) -/

/-- The physical pieces of a peer's run of bytes; the cause where one does not translate in its context. -/
def State.peerPieces (s : State) (ctx : Nat) (write : Bool) : List (Nat × Nat) → Sum (List (Nat × Nat)) Byte × State
  | [] => (.inl [], s)
  | (va, n) :: ps =>
    match s.frontXlat ctx va write with
    | (.fault cause _, s) => (.inr cause, s)
    | (.ok pa _, s) =>
      match State.peerPieces s ctx write ps with
      | (.inr cause, s) => (.inr cause, s)
      | (.inl xs, s) => (.inl ((pa, n) :: xs), s)

/-- A plain read of a peer, served at the home slices (R101). -/
def State.peerRead (s : State) (port ctx va len : Nat) : State :=
  match s.peerPieces ctx false (pagePieces (len / 65536 + 2) va len) with
  | (.inr cause, s) => s.answer port (.fault cause)
  | (.inl ps, s) =>
    let s := (ps.flatMap fun (p : Nat × Nat) => linesOf p.1 p.2).foldl (fun s l => s.engineLine ctx l) s
    if ps.any fun (p : Nat × Nat) => s.badAt p.1 p.2 then s.answer port (.fault Cause.eccUncorrectedMem)
    else s.answer port (.data (ps.flatMap fun (p : Nat × Nat) => readRun s.homeByte p.1 p.2))

/-- The held request behind which a port's writes wait. -/
def State.inboundHeld (s : State) (port : Nat) : Option (Nat × Held) :=
  s.held.find? fun p => (p.2.req :: p.2.behind).any fun e => (s.mgmt.inbound.getD port []).any fun id => isStore id e

/-- A posted write of a peer: performed in the order sent on its link, so that one that comes while an earlier one is held
waits behind it; it is acknowledged once it is applied on every die. -/
def State.peerWrite (s : State) (port ctx va : Nat) (bytes : List Byte) : State :=
  match s.peerPieces ctx true (pagePieces (bytes.length / 65536 + 2) va bytes.length) with
  | (.inr cause, s) => s.answer port (.fault cause)
  | (.inl ps, s) =>
    let bs := (ps.flatMap fun (p : Nat × Nat) => (List.range p.2).map (p.1 + ·)).zip bytes
    let (ids, s) := s.outsideWrite (s.inboundHeld port) (port / 4) ctx bs
    (s.modMgmt fun m => { m with inbound := m.inbound.put port (m.inbound.getD port [] ++ ids) }).post
      (.fabricRequest port (.acknowledge ids))

/-- The lanes of a peer's atomic at their physical addresses, or the cause of one that does not translate. -/
def State.peerLanes (s : State) (ctx : Nat) : List BankLane → Sum (List BankLane) Byte × State
  | [] => (.inl [], s)
  | l :: ls =>
    match s.frontXlat ctx l.addr true with
    | (.fault cause _, s) => (.inr cause, s)
    | (.ok pa _, s) =>
      match State.peerLanes s ctx ls with
      | (.inr cause, s) => (.inr cause, s)
      | (.inl xs, s) => (.inl ({ l with addr := pa } :: xs), s)

/-- FABRIC_REQUEST (R428, R429, R439): performed at the home slices as a PACKAGE-scope access of an agent on the port's die, in
the context that the peer names; a fault goes back to it. DESIGN CHOICE (log 46): which forms a peer's requests have. -/
def execFabricRequest (port : Nat) (r : PeerReq) (s : State) : Host.Outcome State Fault Refusal :=
  event (
    if port ≥ 16 || r.ctx ≥ 64 then s
    else match r with
      | .acknowledge ids =>
        let s := (List.range Config.dies).foldl State.applyDie s.drainAll
        if ids.any s.writeOpen || s.unapplied (port / 4) then s.post (.fabricRequest port (.acknowledge ids))
        else (s.modMgmt fun m =>
          { m with inbound := m.inbound.put port ((m.inbound.getD port []).filter fun i => !ids.contains i) }).answer port .ack
      | _ =>
        if s.linkState port ≠ .up then s
        else
          let s := s.wake.modMgmt fun m => { m with lastFabric := s.ns }
          match r with
          | .read ctx va len => s.peerRead port ctx va len
          | .write ctx va bytes => s.peerWrite port ctx va bytes
          | .acknowledge _ => s
          | .atomic ctx b =>
            match s.peerLanes ctx b.lanes with
            | (.inr cause, s) => s.answer port (.fault cause)
            | (.inl ls, s) =>
              let (id, s) := s.serial
              let b := { b with id := id, agent := .die (port / 4), ctx := ctx, scope := Scope.package, lanes := ls, graph := false,
                                stamp := (s.die (port / 4)).clock, ret := none, peer := some port }
              if goodBank b then s.homeBank b else s)

end Sys2Proof.Machine
end

