-- ==== Sys2Proof/Machine/Events.lean ====
section
/-!
DEFINITION. Sys2Proof/Machine/Events.lean: contexts and pools as firmware makes them (R98, R167, R170, R173, R183), and the
management controller: reset, boot and update (R8, R253, R256, R432, R434, R435), attestation (R436), the security alarm
(R437), power states (R438, R439) and the patrol scrub (R446).
-/
namespace Sys2Proof.Machine

/-! ## Contexts and pools -/

/-- R98 and R167: whether an entry may become a context's, for a number of clusters. -/
def entryOk (e clusters : Nat) : Bool :=
  bits e 1 12 = 0 && bits e 52 12 = 0 && bits e 116 12 = 0 && bits e 212 300 = 0 &&
  isHbm (bits e 13 39 * 2 ^ 13) && isHbm (bits e 160 52) && bits e 160 52 % 4096 = 0 &&
  isHbm (bits e 64 52) && bits e 64 52 % 65536 = 0 && decide (bits e 128 32 * 65536 ≥ 20 * 2 ^ 20 * clusters)

/-- CONTEXT_CREATION (R98, R167, R173): while VALID is 0, and unless a rule is broken; every tensor descriptor of the context
becomes invalid. -/
def execContextCreation (ctx : Nat) (entry : BitVec 512) (s : State) : Host.Outcome State Fault Refusal :=
  event (
    if ctx ≥ 64 || bits (s.ctx ctx).entry.toNat 0 1 = 1 || !entryOk entry.toNat (s.clustersOf ctx).length then s
    else
      let s := s.modCtx ctx fun c => { c with entry := entry ||| 1 }
      { s with clus := s.clus.map fun (p : Nat × Cluster) =>
          (p.1, { p.2 with tdesc := p.2.tdesc.filter fun d => decide (d.1 / 64 ≠ ctx) }) })

/-- CONTEXT_DESTRUCTION (R183): its Beryl objects are freed. -/
def execContextDestruction (ctx : Nat) (s : State) : Host.Outcome State Fault Refusal :=
  event (
    if ctx ≥ 64 then s
    else
      let s := s.modCtx ctx fun c => { c with entry := c.entry &&& ~~~1 }
      (s.objs.filter fun p => p.2.ctx = ctx).foldl (fun s p => s.freeObject p.1) s)

/-- POOL_CONFIGURATION (R34, R170): the entry is written while VALID is 0, or to make it so; the round-robin position stands
before the lowest cluster. -/
def execPoolConfiguration (ctx pool : Nat) (entry : BitVec 512) (s : State) : Host.Outcome State Fault Refusal :=
  event (
    if ctx ≥ 64 || pool ≥ 64 || (bits (s.poolEntry ctx pool) 0 1 = 1 && entry.getLsbD 0) then s
    else
      let s := (s.engineWrite 0 ctx (atAddr (s.poolAddr ctx pool) (natLe 64 entry.toNat))).2
      s.modCtx ctx fun c => { c with rr := c.rr.put pool 0 })

/-! ## Boot (R434, R435) -/

/-- Bytes of a file as a number. -/
def fileNat (f : List Byte) (off n : Nat) : Nat := leNat ((f.drop off).take n)
/-- The CRC-32 of IEEE 802.3. -/
def crc32 (bs : List Byte) : Word :=
  ~~~ bs.foldl (fun c b => (List.range 8).foldl (fun c _ => if c.getLsbD 0 then (c >>> 1) ^^^ 0xEDB88320 else c >>> 1)
    (c ^^^ b.setWidth 32)) 0xFFFFFFFF


/-- The 32 bytes of a marker copy (R434): its SEQ, and whether SLOT names B. -/
def markerBytes (seq : Nat) (b : Bool) : List Byte :=
  let body := natLe 4 0x004B4D5A ++ natLe 8 seq ++ natLe 1 (if b then 1 else 0) ++ natLe 15 0
  body ++ natLe 4 (crc32 body).toNat
/-- What a marker copy says, if its magic, SLOT, zero bytes and CRC are all correct (R434). -/
def markerOf (m : List Byte) : Option (Nat × Bool) :=
  if m.length = 32 && fileNat m 0 4 = 0x004B4D5A && decide (fileNat m 12 1 ≤ 1) && fileNat m 13 15 = 0 &&
      BitVec.ofNat 32 (fileNat m 28 4) = crc32 (m.take 28) then some (fileNat m 4 8, decide (fileNat m 12 1 = 1))
  else none

/-- The marker copy that boot chooses, and the slot it names: true for copy 1, true for slot B. -/
def Mgmt.choose (m : Mgmt) : Bool × Bool :=
  match markerOf m.marker0, markerOf m.marker1 with
  | some (n0, b0), some (n1, b1) => if n1 > n0 then (true, b1) else (false, b0)
  | some (_, b0), none => (false, b0)
  | none, some (_, b1) => (true, b1)
  | none, none => (false, false)
def Mgmt.slot (m : Mgmt) (b : Bool) : FlashImage := if b then m.slotB else m.slotA
def Mgmt.setSlot (m : Mgmt) (b : Bool) (i : FlashImage) : Mgmt := if b then { m with slotB := i } else { m with slotA := i }

/-- The signature of an image verifies; one not wholly written has none (log 9). -/
def signedImage (i : FlashImage) : Bool := i.whole && Config.signatureVerifies i.body
/-- Verification (R435 step 2). -/
def Mgmt.verifies (m : Mgmt) (i : FlashImage) : Bool := signedImage i && decide (m.fuseVersion ≤ i.version)

/-- A file's header (R253). -/
def zobHeaderOk (f : List Byte) : Bool :=
  fileNat f 0 4 = 0x00424F5A && fileNat f 4 2 = 1 && decide (1 ≤ fileNat f 6 2) && decide (fileNat f 6 2 ≤ 1024) &&
  fileNat f 8 8 % 8 = 0 && fileNat f 16 8 = f.length && decide (64 ≤ f.length) &&
  decide (fileNat f 8 8 + 32 * fileNat f 6 2 ≤ f.length) &&
  BitVec.ofNat 32 (fileNat f 24 4) = crc32 (f.take 24 ++ f.drop 28) && decide (fileNat f 28 4 ≤ 1) && fileNat f 32 32 = 0
/-- A section's entry in a file's table (R253). -/
structure Section where
  kind : Nat
  rev  : Nat
  zero : Nat
  off  : Nat
  size : Nat
  arg  : Nat
  deriving DecidableEq, Repr
def sectionsOf (f : List Byte) : List Section :=
  (List.range (fileNat f 6 2)).map fun k =>
    let e := fileNat f 8 8 + 32 * k
    ⟨fileNat f e 2, fileNat f (e + 2) 1, fileNat f (e + 3) 5, fileNat f (e + 8) 8, fileNat f (e + 16) 8, fileNat f (e + 24) 8⟩
/-- An entry's own rules: its zero bytes, its alignments, and that it lies in the file. -/
def sectionOk (n : Nat) (x : Section) : Bool :=
  x.zero = 0 && x.off % 16 = 0 && decide (x.off + x.size ≤ n) && (x.kind = 1 || x.kind = 6 || x.rev = 0) &&
  (if x.kind = 1 then x.arg % 16 = 0 else if x.kind = 2 then true else if x.kind = 6 then decide (x.arg < 256) else x.arg = 0)
/-- No two sections overlap. -/
def apartSections : List Section → Bool
  | [] => true
  | x :: rest => (rest.all fun y => decide (x.off + x.size ≤ y.off) || decide (y.off + y.size ≤ x.off)) && apartSections rest
/-- Whether the loader accepts a file (R253). -/
def zobOk (f : List Byte) : Bool := zobHeaderOk f && (sectionsOf f).all (sectionOk f.length) && apartSections (sectionsOf f)
/-- A FIRMWARE file holds no CODE or ZIR section, and its overlays have at most 65,536 bytes (R256). -/
def firmwareOk (f : List Byte) : Bool :=
  zobOk f && fileNat f 28 4 = 1 &&
  (sectionsOf f).all fun x => x.kind ≠ 1 && x.kind ≠ 3 && (x.kind ≠ 6 || decide (x.size ≤ 65536))
/-- The OVERLAY sections of a FIRMWARE file (R253, R256): bundles by overlay number and bundle address; none of a rejected file. A
section of a revision other than 1 is ignored, as R254 ignores such CODE (DEDUCED, log 24). -/
def overlaysOf (f : List Byte) : Tab (Tab (BitVec 128)) :=
  if !firmwareOk f then []
  else ((sectionsOf f).filter fun x => x.kind = 6 && x.rev = 1).foldl (fun t x =>
    Tab.put t x.arg ((List.range (x.size / 16)).map fun b => (16 * b, BitVec.ofNat 128 (fileNat f (x.off + 16 * b) 16)))) []

/-- A Novman agent as it starts in a core's firmware slot (R432; log 5 and log 24: its registers, and that it starts at bundle
0 of overlay 0). -/
def Team.agent (core now : Nat) : Team where
  ctx := 0
  core := core
  slot := Config.firmwareSlot
  group := 0
  index := 0
  role := 0
  xfront := false
  fw := true
  lanes := Config.firmwareLanes
  vcount := Config.firmwareVRegs
  scount := Config.firmwareSRegs
  base := 10
  pool := 0
  place := .resident
  carried := Config.firmwareLanes
  workIds := []
  widths := []
  rng := []
  v := []
  s := []
  p := []
  h := []
  mode := 0
  status := 0
  pscope := Scope.core
  faultmask := 0
  hcause := 0
  hflt := 0
  trapen := 0
  cycleh := 0
  timeh := 0
  stalls := 0
  ports := []
  tags := []
  guard := []
  gbytes := []
  gscopes := []
  paths := [(0, Path.start 0 (firstLanes Config.firmwareLanes) now)]
  recs := []
  outst := []
  landing := []
  fresh := 0
  arrived := 0
  deferred := []
  firstFault := none
  terminated := false
  loaded := Clock.zero
  writes := []
  rests := []
  stopped := false
  leaving := false
  flaws := []
  reserve := (0, [])

/-- Start an agent on a core, its firmware store holding overlay 0. -/
def State.startAgent (s : State) (core : Nat) : State :=
  let (id, s) := s.serial
  (s.setTeam id (Team.agent core s.cycle)).modCore core fun c => { c with overlay := some 0 }

/-- Run an image: it is the boot image (R436), its overlays are the firmware's, and every core's agent starts. -/
def State.runImage (s : State) (b : Bool) (i : FlashImage) : State :=
  let ov := overlaysOf i.body
  let s := s.modMgmt fun m => { m with booted := some b, image := i.body, overlays := ov }
  if (ov.get? 0).isSome then (List.range Config.cores).foldl State.startAgent s else s

/-! ## The security alarm (R437) -/

/-- The contexts with the clusters where they have an EDF entry, work or cards; a context with cards and no team, as of host
packets and graphs, has them on the cluster they run on. -/
def State.alarmTargets (s : State) : List (Nat × Nat) :=
  (s.ctxs.filter fun p => p.2.entry.getLsbD 0).flatMap fun p =>
    ((List.range Config.clusters).filter fun c =>
      s.edfWork p.1 c || ((s.clu c).edf.any fun e => e.2.valid && e.2.ctx = p.1) ||
      s.cards.any fun k => decide (k.2.ctx = p.1) && decide (k.2.clu = c)).map fun c => (p.1, c)

/-- Raise the alarm. -/
def State.raiseAlarm (s : State) : State :=
  let s := s.alarmTargets.foldl (fun s p => s.forceReset p.1 p.2) s
  let s := (List.range Config.dies).foldl (fun s d => s.postCause (Config.clustersPerDie * d) Cause.securityAlarm 0 0) s
  s.modMgmt fun m => { m with alarm := true, keys := m.keys && !m.eraseFuse }

/-- SECURITY_ALARM. -/
def execSecurityAlarm (s : State) : Host.Outcome State Fault Refusal := event s.raiseAlarm

/-- The signature of an image is checked; the third failure in a row raises the alarm, and a signature that verifies ends the row,
whatever the image's version. -/
def State.checkSignature (s : State) (i : FlashImage) : State :=
  let n := if signedImage i then 0 else s.mgmt.sigFails + 1
  let s := s.modMgmt fun m => { m with sigFails := n }
  if n ≥ 3 then s.raiseAlarm else s

/-- Boot from flash (R435 steps 1 to 3). -/
def State.boot (s : State) : State :=
  let m := s.mgmt
  if !m.keys then s
  else
    let (copy, b) := m.choose
    let s := s.modMgmt fun m => { m with chosen := copy }
    let s := s.checkSignature (m.slot b)
    if m.verifies (m.slot b) then s.runImage b (m.slot b)
    else
      let s := s.checkSignature (m.slot !b)
      if m.verifies (m.slot !b) then s.runImage (!b) (m.slot !b) else s

/-- What a reset leaves of the device's surroundings and of what no reset clears: flash, fuses, keys, and peer memory. -/
def Mgmt.afterReset (m : Mgmt) : Mgmt :=
  { Mgmt.reset with slotA := m.slotA, slotB := m.slotB, marker0 := m.marker0, marker1 := m.marker1, chosen := m.chosen,
                    fuseVersion := m.fuseVersion, eraseFuse := m.eraseFuse, keys := m.keys, peer := m.peer }

/-- COLD_RESET (R8, R435): every field takes its reset value, and the management controller boots. Memory keeps its contents
(log 25). -/
def execColdReset (s : State) : Host.Outcome State Fault Refusal :=
  event ({ State.reset with mem := s.mem, mgmt := s.mgmt.afterReset }).boot

/-- The flash after an update's steps (R435): the slot that was not booted is written, then the marker copy that boot did not
choose. -/
def Mgmt.updateSlot (m : Mgmt) (i : FlashImage) : Mgmt := m.setSlot (!(m.booted.getD false)) i
def Mgmt.updateMarker (m : Mgmt) (x : List Byte) : Mgmt :=
  if m.chosen then { m with marker0 := x } else { m with marker1 := x }
/-- SEQ of the chosen copy, plus 1, naming the slot just written. -/
def Mgmt.nextMarker (m : Mgmt) : List Byte :=
  let seq := match markerOf (if m.chosen then m.marker1 else m.marker0) with | some (n, _) => n | none => 0
  markerBytes (seq + 1) (!(m.booted.getD false))

/-- IMAGE_UPDATE (R435): while a booted image runs. -/
def execImageUpdate (i : FlashImage) (s : State) : Host.Outcome State Fault Refusal :=
  event (
    if s.mgmt.booted.isNone then s
    else s.modMgmt fun m => (m.updateSlot i).updateMarker m.nextMarker)

/-- POWER_LOSS (R435): what the device holds is gone but for its flash, fuses and keys, and the flash stands as the write in
progress left it; host memory is not the device's. -/
def execPowerLoss (cut : FlashCut) (s : State) : Host.Outcome State Fault Refusal :=
  event (
    let m := s.mgmt
    let m := match cut with
      | .idle => m
      | .slotWrite i => if m.booted.isNone then m else m.updateSlot { i with whole := false }
      | .markerWrite i n => if m.booted.isNone then m
        else (m.updateSlot i).updateMarker (m.nextMarker.take n ++ List.replicate (32 - n) 0xFF)
    { State.reset with mem := s.mem.filter fun p => isHostAp p.1, mgmt := m.afterReset })

/-- RECOVERY_IMAGE (R435 step 3, R437): while boot waits for one. It stands for the slot the chosen copy names (log 24). -/
def execRecoveryImage (i : FlashImage) (s : State) : Host.Outcome State Fault Refusal :=
  event (
    if s.mgmt.booted.isSome || s.mgmt.alarm || !s.mgmt.keys then s
    else
      let s := s.checkSignature i
      if s.mgmt.verifies i then s.runImage s.mgmt.choose.2 i else s)

/-- ATTESTATION_REQUEST (R436): measurements of the boot image, the recovery image where that one booted, and of every loaded overlay, and the signature over them. -/
def execAttestationRequest (s : State) : Host.Outcome State Fault Refusal :=
  event (
    let loaded := (s.cores.filterMap fun p => p.2.overlay).eraseDups
    let image := if s.mgmt.booted.isSome then [s.mgmt.image] else []
    let files := image ++ loaded.filterMap fun n =>
      (s.mgmt.overlays.get? n).map fun o => o.flatMap fun p => natLe 16 p.2.toNat
    let ms := files.map Config.measurement
    s.modMgmt fun m => { m with report := (ms.flatMap fun x => natLe 32 x.toNat) ++ Config.attestationSignature ms })

/-! ## Power (R438, R439) -/

/-- The conditions of PS1: no team resident, no card or task running, no packet startable. -/
def State.ps1 (s : State) : Bool :=
  !(s.teams.any fun p => !p.2.fw && p.2.place = .resident) && !(s.cards.any fun p => p.2.st = .running) &&
  !(s.tasks.any fun p => match p.2.st with | .running _ => true | _ => false) && !(s.mgmt.cmdq.any fun p => s.mayStart p.1)

/-- Whether a deadline of a valid EDF entry or a SLEEP's end comes within 1 ms. -/
def State.soon (s : State) : Bool :=
  (s.clus.any fun c => c.2.edf.any fun e => e.2.valid && decide (e.2.deadline ≤ s.ns + 1000000)) ||
  s.teams.any fun t => t.2.paths.any fun p => match p.2.st with | .parked (.sleep u) => decide (u ≤ s.ns + 1000000) | _ => false

/-- The further conditions of PS3 and of PS4. -/
def State.quiet (s : State) : Bool := s.ps1 && !s.soon
def State.still (s : State) : Bool := s.quiet && decide (s.ns ≥ s.mgmt.lastFabric + 10000000)

/-- A condition that holds now has held for 100 µs. -/
def State.held100 (s : State) (now : Bool) (since : Nat) : Bool := now && decide (s.ns ≥ since + 100000)

/-- The deepest state whose conditions have held for 100 µs and whose exit time LTOL allows. -/
def State.deepest (s : State) : Nat :=
  let ltol := (s.mgmt.bar0.getD 0x8 0).toNat
  if !s.held100 s.ps1 s.mgmt.idleSince || ltol < 2 then 0
  else if ltol < 20 then 1
  else if ltol < 200 || !s.held100 s.quiet s.mgmt.quietSince then 2
  else if ltol < 5000 || !s.held100 s.still s.mgmt.stillSince then 3
  else 4

/-- While a condition fails, its 100 µs start anew. -/
def State.markBusy (s : State) : State :=
  if s.still then s
  else s.modMgmt fun m => { m with
    idleSince := if s.ps1 then m.idleSince else s.ns,
    quietSince := if s.quiet then m.quietSince else s.ns,
    stillSince := s.ns }

/-- POWER_STATE_ENTRY (R438). -/
def execPowerStateEntry (s : State) : Host.Outcome State Fault Refusal :=
  event (
    let s := s.markBusy
    if s.held100 s.ps1 s.mgmt.idleSince then s.modMgmt fun m => { m with power := s.deepest } else s)
/-- POWER_WAKE (R439). -/
def execPowerWake (s : State) : Host.Outcome State Fault Refusal := event s.wake

/-- Nanoseconds of 24 hours. -/
def scrubPeriod : Nat := 86400000000000
/-- The i-th member of a list, counted round. -/
def pickOf {α : Type} (xs : List α) (i : Nat) : Option α := xs[i % xs.length]?

/-- A memory error strikes (R97, R446, log 45): which memory, where, and whether SECDED corrects it are the device's choice.
A corrected one is counted. A clean L1 word is refetched; a dirty one is lost, and posted in class 5 with its address, of
which the job's words have room for bits [31:0]. -/
def State.strike (s : State) : State :=
  let (k, s) := s.draw
  let at_ (j : Nat) : Nat := Config.freeEvents k j
  let kind := at_ 0 % 8
  if kind = 0 then
    (s.modMgmt fun m => { m with corrected := m.corrected + 1 }).dpmc (at_ 1 % Config.dies) 0x4A 1 []
  else if kind = 1 then
    match pickOf s.teams (at_ 1) with
    | some (tid, t) =>
      let v := at_ 2 % (t.vcount + t.scount + 8 + 15)
      let flaw :=
        if v < t.vcount then (v, at_ 3 % t.lanes)
        else if v < t.vcount + t.scount then (0x80 + (v - t.vcount), 0)
        else if v < t.vcount + t.scount + 8 then (0xE0 + (v - t.vcount - t.scount), 0)
        else (0x101 + (v - t.vcount - t.scount - 8), at_ 3 % t.lanes)
      s.modTeam tid fun t => { t with flaws := t.flaws ++ [flaw] }
    | none => s
  else if kind = 2 then
    s.modCore (at_ 1 % Config.cores) fun c => { c with flaws := c.flaws ++ [at_ 2 % (Config.localStoreBytes / 4)] }
  else if kind = 3 then
    let core := at_ 1 % Config.cores
    match pickOf (s.core core).l1 (at_ 2) with
    | none => s
    | some (line, l) =>
      let word : BitVec 32 := 1#32 <<< (at_ 3 % 32)
      if l.valid &&& word = 0 || l.pinned &&& word ≠ 0 then s
      else
        let pa := 128 * line + 4 * (at_ 3 % 32)
        let lost := s.setL1 core line { l with valid := l.valid &&& ~~~word, dirty := l.dirty &&& ~~~word }
        if l.dirty &&& word = 0 then lost
        else lost.postJob (dieOfCore core) 5
          (BitVec.ofNat 32 (Cause.eccUncorrectedMem.toNat + 256 * l.ctx + 16384 * cluOfCore core))
          (BitVec.ofNat 32 pa) 0 0 0 none
  else if kind = 4 then
    let core := at_ 1 % Config.cores
    match pickOf (s.core core).garnet (at_ 2) with
    | none => s
    | some g => s.modCore core fun c =>
        { c with garnet := c.garnet.map fun x => if x.name = g.name then { x with bad := true } else x }
  else if kind = 5 then
    s.modMgmt fun m => { m with badBursts := m.badBursts ++ [64 * (at_ 1 % (Config.hbmBytes / 64))] }
  else if kind = 6 then
    match pickOf s.teams (at_ 1) with
    | some (tid, t) =>
      match pickOf t.tags (at_ 2) with
      | some (k, g) =>
        match pickOf g.data (at_ 3) with
        | some (w, _) => s.modTeam tid fun t => { t with tags := t.tags.put k { g with flaws := g.flaws ++ [w] } }
        | none => s
      | none => s
    | none => s
  else s

/-- PATROL_SCRUB (R446): a complete pass over L2 and HBM; error-free contents stay as they are. The errors of the time since
the last pass strike with it (log 45). -/
def execPatrolScrub (s : State) : Host.Outcome State Fault Refusal :=
  event (s.modMgmt fun m => { m with lastScrub := s.ns }).strike

end Sys2Proof.Machine
end

