-- ==== Sys2Proof/Machine/Fetch.lean ====
section
/-!
DEFINITION. Sys2Proof/Machine/Fetch.lean: what the machine does next. A front end fetches the bundles of its paths (R99),
checks their control words (R238–R241), finds which may issue (R68, R242, R401) and picks one; between them run the events
in flight. The order in which front ends and events take their turns is the model's (log 1, log 2).
-/
namespace Sys2Proof.Machine

/-! ## Time -/

/-- The head of an apply queue is blocked (R208, code 0x48). -/
def Die.blocked (e : Nat) (d : Die) : Bool := match d.apply with | x :: _ => !applyReady d e [] x | [] => false
/-- The context whose write the head of an apply queue is for. -/
def Die.headCtx (d : Die) : List Nat := match d.apply with | .inval _ _ _ _ _ _ ctx _ :: _ => [ctx] | _ => []

/-- One arithmetic cycle passes: every core counts it (R207, code 0x01), counters of free events go on, blocked apply queues
are counted at the L2 clock, two cycles in three (R208), and the flags that are due are set (R61). -/
def State.tick1 (s : State) : State :=
  let s := (s.cores.map (·.1)).foldl (fun s k => s.pmcOf k 0x01 1 (s.sweeping k)) s
  let s := { s with cores := s.cores.map fun (p : Nat × Core) => (p.1, p.2.countFree p.1 s.cycle),
                    dies := s.dies.map fun (p : Nat × Die) => (p.1, p.2.countFree p.1 s.cycle) }
  let l2 := (s.cycle + 1) * 2 / 3 - s.cycle * 2 / 3
  let s := ((s.dies.filter fun (p : Nat × Die) => p.2.blocked p.1).map (·.1)).foldl 
    (fun (s : State) k => s.dpmc k 0x48 l2 (s.die k).headCtx) s
  { s with cycle := s.cycle + 1, teams := s.teams.map fun (p : Nat × Team) => (p.1, p.2.land (s.cycle + 1)) }
/-- The arithmetic clock runs over `n` cycles. -/
def State.tick (s : State) : Nat → State
  | 0 => s
  | n + 1 => s.tick1.tick n

/-! ## Bundles (R237–R240) -/

/-- Word k of a bundle: 0 the control word, 1 to 3 the slots (R237). -/
def bundleWord (b : BitVec 128) (k : Nat) : Word := b.extractLsb' (32 * k) 32
/-- DIST and SETF of a slot (R238). -/
def distOf (ctl : Word) (k : Nat) : Nat := bits ctl.toNat (6 + 6 * k) 2
def setfOf (ctl : Word) (k : Nat) : Nat := bits ctl.toNat (8 + 6 * k) 4

/-- R240: the bundle may not be entered. -/
def bundleBad (b : BitVec 128) : Bool :=
  let ctl := bundleWord b 0
  ctl.getLsbD 31 || [1, 2, 3].any fun k =>
    (12 ≤ setfOf ctl k && setfOf ctl k ≤ 14) || (bundleWord b k = 0 && !(distOf ctl k = 0 && setfOf ctl k = 15))

/-- No slot after slot k holds an instruction. -/
def lastSlot (b : BitVec 128) (k : Nat) : Bool := ([1, 2, 3].filter (k < ·)).all fun j => decide (bundleWord b j = 0)

/-- What fetching a bundle gives. -/
inductive BundleFetch where
  | bundle (b : BitVec 128)
  | fault (cause : Byte) (level : Nat)
  /-- A host request that no completion answers has not timed out yet (R427). -/
  | wait
  deriving DecidableEq, Repr

/-- Room in a core's instruction cache of 64 KiB (R74): a full one loses a bundle, the device's choice. -/
def State.roomForBundle (s : State) (core : Nat) : State :=
  if (s.core core).icache.length < Config.icacheBundles then s
  else
    let (k, s) := s.draw
    s.modCore core fun c => { c with icache := c.icache.eraseIdx (Config.freeChoice k % c.icache.length) }

/-- Fetch the bundle at an address for a path of a team (R99, R256, R427): from the core's instruction cache, which a home slice fills, or
from the firmware slot's own store, where what no overlay holds is 0. -/
def State.fetchBundle (s : State) (tid pid : Nat) (t : Team) (va : Nat) : BundleFetch × State :=
  if t.fw then
    (.bundle ((((s.core t.core).overlay.bind s.mgmt.overlays.get?).bind fun o => o.get? va).getD 0), s)
  else
    match s.translate t.core t.ctx false va false true with
    | (.fault cause level, s) => (.fault cause level, s)
    | (.ok pa _, s) =>
      match (s.core t.core).icache.get? pa with
      | some b => (.bundle b, s)
      | none =>
        match s.apFail (.path tid pid) pa with
        | some f => if s.failDue f then (.fault f.cause 0, s.metFail f.who f.cause) else (.wait, s.sendFail f)
        | none =>
        match s.cleanRead t.ctx pa 16 with
        | (.inr cause, s) => (.fault cause 0, s)
        | (.inl bs, s) =>
          let b := BitVec.ofNat 128 (leNat bs)
          (.bundle b, (s.roomForBundle t.core).modCore t.core fun c => { c with icache := c.icache.put pa b })

/-! ## Words that decode to no instruction (R234, R247) -/

/-- Opcodes of the firmware slot only (R246). -/
def opFirmware (op : Nat) : Bool := op = 0xEE || op = 0xEF || op = 0xF0 || op = 0xF1
/-- Opcodes that need the firmware slot or an open trap-handler window (R246). -/
def opHandler (op : Nat) : Bool := op = 0xEC || op = 0xED
/-- Opcodes that the firmware slot may not issue (R343). -/
def opNoFirmware (op : Nat) : Bool :=
  (0xB0 ≤ op && op ≤ 0xB7) || (0xC0 ≤ op && op ≤ 0xCB) || op = 0xD2 || op = 0xD3 || (0xE0 ≤ op && op ≤ 0xE5) ||
  op = 0xF2 || op = 0xF4
/-- Opcodes whose field A names a register that is written (R257). -/
def opWritesA (op : Nat) (c : BitVec 8) : Bool :=
  op = 0x06 || (0x20 ≤ op && op ≤ 0x3F) || (0x50 ≤ op && op ≤ 0x62) || (0x67 ≤ op && op ≤ 0x6A) ||
  (0x70 ≤ op && op ≤ 0x76) || (0x80 ≤ op && op ≤ 0x83) || (0x86 ≤ op && op ≤ 0x8B) || op = 0x90 || op = 0x92 ||
  op = 0x94 || op = 0x96 || op = 0x98 || op = 0x99 || op = 0x9D || op = 0x9E || op = 0xA1 || op = 0xB0 || op = 0xB3 ||
  op = 0xB4 || op = 0xC0 || op = 0xC4 || op = 0xC8 || op = 0xCB || op = 0xD1 || op = 0xD5 || op = 0xE0 || op = 0xE8 ||
  op = 0xEE || op = 0xEF || op = 0xF0 || (op = 0xF1 && !c.getLsbD 7)
/-- REDU and SCAN with a floating-point operation (R246). -/
def opFloatScan (op : Nat) (c : BitVec 8) : Bool :=
  (op = 0x87 || op = 0x88) && 6 ≤ bits c.toNat 0 4 && bits c.toNat 0 4 ≤ 8

/-- The cause of a word that decodes to no instruction, by the first check of R247 that it fails, and its h1. -/
def badWordCause (t : Team) (p : Path) (w : Word) : Byte × Word :=
  let op := opOf w
  let csr := bits w.toNat 0 12
  if !opAssigned op then (Cause.illegalOpcode, w)
  else if (opFirmware op && !t.fw) || (opHandler op && !t.fw && p.win ≠ .trap) || (opNoFirmware op && t.fw) then (Cause.priv, w)
  else if (op = 0xE9 || op = 0xEA || op = 0xEB) && !csrInView t.fw (p.win = .trap) csr then (Cause.priv, BitVec.ofNat 32 csr)
  else if ((0x50 ≤ op && op ≤ 0x76) || opFloatScan op (fieldC w)) && !t.xfront then (Cause.wrongFront, w)
  else if opWritesA op (fieldC w) && 0xC0 ≤ (fieldA w).toNat && (fieldA w).toNat < 0xE0 then (Cause.illegalDest, w)
  else (Cause.illegalOperand, w)

/-! ## Waits that are over (R46, R151, R261) -/

/-- A path that waits for room whose size only its instruction knows tries again in a later cycle. -/
def Path.later (p : Path) (now : Nat) : Bool := decide (now ≥ p.since)

/-- Whether what a parked path waits for has come about. A wait that only another instruction or an event ends is never over
by itself. -/
def State.waitOver (s : State) (tid pid : Nat) (t : Team) (p : Path) : Wait → Bool
  | .queue clu q n => (s.clu clu).qserial.getD q 0 ≠ n
  | .flags m => t.flags s.cycle &&& m = 0
  | .sleep u => decide (s.ns ≥ u)
  | .join r => t.joinReady r && t.joinRoom s.cycle r && p.later s.cycle
  | .barrier b gen => (match s.group? (cluOfCore t.core) t.group with | some g => g.gens.getD b 0 ≠ gen | none => true)
  | .claim => p.later s.cycle && (match s.group? (cluOfCore t.core) t.group with
      | some g => (match s.claimsOn g t.core with
        | (i, k, n) :: _ => decide (i = tid) && decide (k = pid) && decide (n * (t.lanes / 32) ≤ g.blocks.getD t.core 0)
        | [] => false)
      | none => false)
  | .spawn => p.later s.cycle
  | .fault _ _ => false
  | .tag k => (match t.tags.get? k with | some g => g.landed | none => true)
  | .arrival a gen => BitVec.ofNat 8 (s.arrival t.core a).gen ≠ gen
  | .signal pa cond v => signalEnds cond (BitVec.ofNat 64 (s.hnat pa 8)) v
  | .tracker => !s.trackerFull (.team tid)
  | .card id => (match s.cards.get? id with | some k => (match k.st with | .done _ => true | _ => false) | none => true)
  | .tile n => (s.name (cluOfCore t.core) n).read tid (!t.guard.isEmpty) (decide (p.prog = 1)) ≠ .wait
  | .talloc => p.later s.cycle && ((s.clu (cluOfCore t.core)).tallocs.filter fun q =>
      match s.team? q.1 with | some t => decide (t.place = .resident) | none => false).headD (tid, pid) = (tid, pid)
  | .taskQueue => decide ((s.taskQueue (cluOfCore t.core)).length < 256)
  | .release _ => false
  | .stamp c =>
    let die := dieOfCore t.core
    ((s.applyDie die).die die).clock.dominates die c
  | .revoke n => (s.revokes.get? n).isNone
  | .translations ctx lo hi => ((s.aliasObjects ctx lo hi).filter fun o => (s.revokes.get? o).isSome).isEmpty
  | .commit => decide (p.prog = 2)
  | .ring q =>
    !(s.mgmt.cmd q).full
  | .fwcall => decide (p.prog = 2)
  | .overlay _ => false
  | .registered => p.later s.cycle
  | .saving => p.later s.cycle
  | .posted => p.later s.cycle && !s.writesOpen tid
  | .atomic => (match t.rests.get? pid with | some r => decide (r.left = 0) | none => p.later s.cycle)
  | .jobRoom die cls => s.jobRoom die cls
  | .line _ _ => p.later s.cycle
  | .link l => (match s.linkState l with | .retraining _ => false | _ => true)
  | .completion u => decide (s.ns ≥ u)
  | .postedRoom => decide ((s.core t.core).posted.length < 256)

/-- Whether a path has something to issue: it is READY, or its wait is over. -/
def State.pathLive (s : State) (tid pid : Nat) (t : Team) (p : Path) : Bool :=
  match p.st with | .ready => true | .parked w => s.waitOver tid pid t p w

/-! ## Candidates (R400, R401) -/

/-- What a path would do if it were picked. -/
inductive Turn where
  /-- An empty slot (R239). -/
  | empty (addr : Nat)
  /-- BUNDLE_INVALID (R240). -/
  | invalid (addr : Nat) (ctl : Word)
  /-- A word that decodes to no instruction. -/
  | bad (addr : Nat) (w : Word)
  | issue (i : Instr) (f : Focus)
  deriving DecidableEq, Repr

/-- An eligible candidate: its level, its waiting time w and its team slot, which order it (R401). -/
structure Cand where
  tid   : Nat
  pid   : Nat
  level : Nat
  w     : Nat
  slot  : Nat
  turn  : Turn
  deriving DecidableEq, Repr

/-- The level of a path's team or handler (R400), aged by its waiting time (R401). -/
def candLevel (t : Team) (p : Path) (w : Nat) : Nat :=
  if p.win = .trap then 11 else if t.fw then 10 else agedLevel t.base w

/-- Whether one candidate goes before another (R401). -/
def Cand.before (a b : Cand) : Bool :=
  decide (a.level > b.level) || (decide (a.level = b.level) && (decide (a.w > b.w) || (decide (a.w = b.w) &&
    (decide (a.slot < b.slot) || (decide (a.slot = b.slot) && decide (a.pid < b.pid))))))

def bestOf : List Cand → Option Cand
  | [] => none
  | c :: cs => match bestOf cs with | some d => if d.before c then some d else some c | none => some c

/-- The trial that charges the paths of a team: one in its delay phase, for its context and cluster (R212). -/
def State.chargingTrial (s : State) (t : Team) : Option Trial :=
  match (s.clu (cluOfCore t.core)).trial with
  | some r => if r.delay && decide (r.ctx = t.ctx) && !t.fw then some r else none
  | none => none

/-- A path is not eligible in this cycle: its waiting time is counted from the next at the earliest (R401). -/
def State.notEligible (s : State) (tid pid : Nat) : State := s.modPath tid pid fun p => { p with since := s.cycle + 1 }

/-- A slot held in issue: its stall cycles up to now are counted, and IL is set (R68); or a hold that is over. -/
def State.countStall (s : State) (tid pid : Nat) (t : Team) (p : Path) (held : Bool) : State :=
  let n := match p.heldFrom with | some h => s.cycle - h | none => 0
  let s := if n = 0 then s else s.pmc t.core 0x05 n t.ctx
  let s := if held || decide (n ≠ 0) then
      s.modTeam tid fun t => { (if held then t.raise statusIL else t) with stalls := t.stalls + BitVec.ofNat 32 n }
    else s
  if held || p.heldFrom.isSome then
    s.modPath tid pid fun p => { p with heldFrom := if held then some s.cycle else none }
  else s

/-- Look at the slot of a fetched bundle that a path would issue next: whether it may, and what it would be. `k` is its
number, `addr` its instruction address. A path that could issue a bundle outside the trial's range waits out its debt first (R212). -/
def State.lookSlot (s : State) (tid pid : Nat) (t : Team) (p : Path) (b : BitVec 128) (addr k : Nat) : Option Turn × State :=
  let ctl := bundleWord b 0
  let w := bundleWord b k
  if !p.entered && bundleBad b then (some (.invalid (addr / 16 * 16 + 4) ctl), s)
  else if w = 0 then (some (.empty addr), s)
  else
    let outside := match s.chargingTrial t with
      | some r => decide (addr / 16 * 16 < r.start) || decide (addr / 16 * 16 ≥ r.stop)
      | none => false
    if !p.entered && t.flags s.cycle &&& ctl.extractLsb' 0 12 ≠ 0 then (none, s.notEligible tid pid)
    else if p.lastPass ≠ 0 && decide (s.cycle < p.lastPass + distOf ctl k) then (none, s.notEligible tid pid)
    else if !p.entered && outside && decide (p.debt > 0) then
      (none, (s.notEligible tid pid).modPath tid pid fun p => { p with lastPass := s.cycle + p.debt - distOf ctl k, debt := 0 })
    else
      match decode w with
      | none => (some (.bad addr w), s)
      | some i =>
        let setf := setfOf ctl k
        let held := (t.info i).touches t.mode &&& t.pendingWrites s.cycle ≠ 0 || !t.flagRoom s.cycle setf
        let s := s.countStall tid pid t p held
        if held then (none, s.notEligible tid pid)
        else (some (.issue i ⟨tid, pid, addr, setf, ctl.getLsbD 30, lastSlot b k⟩), s)

/-- A fetch that faults (R84): the path parks, or traps where the bundle cannot be read (R97); inside a handler it is
HANDLER_NEST (R414), whose record names the bundle where that is being entered (R171). -/
def State.fetchFault (s : State) (tid pid : Nat) (p : Path) (cause : Byte) (level addr : Nat) : State :=
  if p.win = .trap || cause = Cause.eccUncorrectedMem then s.takeTrap tid pid (if p.pc % 16 = 0 then p.pc else addr) ⟨cause, 0, addr, none, addr⟩
  else s.faultPark tid pid cause false addr level none

/-- Look at one path of a team: fetch its bundle, and say what it would do. -/
def State.lookPath (s : State) (tid pid : Nat) : Option Cand × State :=
  match s.team? tid with
  | none => (none, s)
  | some t =>
    match t.paths.get? pid with
    | none => (none, s)
    | some p =>
      if t.inHandler && p.win ≠ .trap then (none, s)
      else if !s.pathLive tid pid t p then (none, s.notEligible tid pid)
      else
        let addr := slotAddr p.pc
        match s.fetchBundle tid pid t (addr / 16 * 16) with
        | (.fault cause level, s) => (none, s.fetchFault tid pid p cause level addr)
        | (.wait, s) => (none, s.notEligible tid pid)
        | (.bundle b, s) =>
          let (x, s) := s.lookSlot tid pid t p b addr (addr % 16 / 4)
          let w := s.cycle - p.since
          (x.map fun turn => ⟨tid, pid, candLevel t p w, w, t.slot, turn⟩, s)

/-- The paths of a team that may issue: all, or where its save has started those that are inside an instruction (R64). -/
def Team.issuing (t : Team) : Tab Path := if t.stopped then t.paths.filter fun p => (t.rests.get? p.1).isSome else t.paths

/-- The paths that a front end of a core serves: those of its resident teams. -/
def State.frontPaths (s : State) (core : Nat) (x : Bool) : List (Nat × Nat) :=
  (s.teams.filter fun p => decide (p.2.core = core) && decide (p.2.place = .resident) &&
    (if p.2.fw then !x else p.2.xfront == x)).flatMap fun p => p.2.issuing.map fun q => (p.1, q.1)

/-- The eligible candidates of a front end, and the state in which its bundles are fetched. -/
def State.candidates (s : State) (core : Nat) (x : Bool) : List Cand × State :=
  (s.frontPaths core x).foldl (fun (acc : List Cand × State) q =>
    match acc.2.lookPath q.1 q.2 with
    | (some c, s) => (acc.1 ++ [c], s)
    | (none, s) => (acc.1, s)) ([], s)

/-- Whether a candidate's path gives way (R238, R273). -/
def State.gaveWay (s : State) (c : Cand) : Bool :=
  match (s.team? c.tid).bind fun t => t.paths.get? c.pid with | some p => p.yielded | none => false

/-- The pick of a front end: an empty slot takes no cycle and goes first; a path that has yielded goes after every other
candidate, once. -/
def State.pick (s : State) (cs : List Cand) : Option Cand :=
  match cs.find? fun c => match c.turn with | .empty _ => true | _ => false with
  | some c => some c
  | none => match bestOf (cs.filter fun c => !s.gaveWay c) with
    | some c => some c
    | none => bestOf cs

/-! ## Issue -/

/-- Charging and paying at the issue of a bundle (R212). -/
def State.chargeTrial (s : State) (tid pid : Nat) (t : Team) (addr : Nat) : State :=
  match s.chargingTrial t with
  | none => s
  | some r =>
    let a := addr / 16 * 16
    if a < r.start || a ≥ r.stop then s
    else
      let clu := cluOfCore t.core
      let s := s.modClu clu fun c => { c with trial := some { r with n := r.n + 1 } }
      { s with teams := s.teams.map fun (q : Nat × Team) =>
          (q.1, if q.2.ctx = t.ctx && cluOfCore q.2.core = clu && !q.2.fw then
            { q.2 with paths := q.2.paths.map fun (k : Nat × Path) =>
                (k.1, { k.2 with debt := if q.1 = tid && k.1 = pid then 0 else k.2.debt + r.d }) } else q.2) }

/-- The breakpoints that an issue at an address hits (R440, R441). -/
def State.breakHits (s : State) (t : Team) (p : Path) (addr : Nat) : List Nat :=
  if t.fw || p.bpSkip = some addr then []
  else
    let die := dieOfCore t.core
    let ctl := s.ctxCsr die t.ctx 0x510
    (List.range 8).filter fun n => ctl.getLsbD n &&
      decide ((s.ctxCsr die t.ctx (0x500 + 2 * n)).toNat / 4 * 4 +
        bits (s.ctxCsr die t.ctx (0x501 + 2 * n)).toNat 0 24 * 2 ^ 32 = addr)

/-- BRK of breakpoint n, with the cross trigger where its bit asks for it (R441, R443). -/
def State.takeBreak (s : State) (tid pid : Nat) (t : Team) (addr : Nat) (hits : List Nat) : State :=
  let die := dieOfCore t.core
  let ctl := s.ctxCsr die t.ctx 0x510
  let s := if hits.any fun n => ctl.getLsbD (8 + n) then s.haltContext t.ctx die (some tid) else s
  s.takeTrap tid pid addr ⟨Cause.brk, BitVec.ofNat 32 (0x10000 + hits.headD 0), 0, none, addr⟩

/-- What the machine does in its next step: run an instruction or event, or something that is over with the state. -/
inductive Work where
  | run (i : Instr) (s : State)
  | settled (s : State)
  deriving DecidableEq, Repr

/-- A path enters the bundle it is about to issue from: it is counted (R207, code 0x02) and charged. -/
def State.enterBundle (s : State) (tid pid : Nat) (t : Team) (p : Path) (addr : Nat) : State :=
  if p.entered then s
  else ((s.pmc t.core 0x02 1 t.ctx).chargeTrial tid pid t addr).modPath tid pid fun p => { p with entered := true }

/-- The branch class, which never parks (R39, R264). -/
def branchClass : Instr → Bool
  | .bra .. | .bran .. | .brx .. | .call .. | .callx .. | .ret .. | .loop .. => true
  | _ => false

/-- The SYNC that a path owes goes out as an instruction of it issues (R165): before the branch packets of a branch; otherwise after
the instruction, which has issued unless its path is parked in it. `s` is the state it issued in and `t` the one it left. -/
def State.syncIssued (s t : State) (i : Instr) : State :=
  match s.focus with
  | none => t
  | some f =>
    match (s.team? f.team).bind fun u => (u.paths.get? f.path).map fun p => (u, p) with
    | none => t
    | some (u, p) =>
      let parked := match (t.team? f.team).bind fun v => v.paths.get? f.path with
        | some q => (match q.st with | .parked _ => true | .ready => false)
        | none => false
      if i = .nop || branchClass i || parked || !s.syncDue u p then t else t.traceSync f.team u f.path f.addr p.mask

/-- A picked candidate takes its turn: a cause its team holds is delivered first, where it can be (R416). -/
def State.takeTurn (s : State) (c : Cand) : Work :=
  match s.team? c.tid with
  | none => .settled s
  | some t =>
    match t.paths.get? c.pid with
    | none => .settled s
    | some p =>
      if (t.deliverTo c.pid).isSome then .settled (s.deliverDeferred c.tid c.pid)
      else match c.turn with
        | .empty addr => .run .nop { s with focus := some ⟨c.tid, c.pid, addr, 15, false, false⟩ }
        | .invalid addr ctl => .settled (s.takeTrap c.tid c.pid addr ⟨Cause.bundleInvalid, ctl, 0, none, addr⟩)
        | .bad addr w =>
          let (cause, h1) := badWordCause t p w
          .settled (s.takeTrap c.tid c.pid addr ⟨cause, h1, 0, none, addr⟩)
        | .issue i f =>
          let hits := s.breakHits t p f.addr
          if !hits.isEmpty then .settled (s.takeBreak c.tid c.pid t f.addr hits)
          else
            let s := s.enterBundle c.tid c.pid t p f.addr
            .run i { (if branchClass i then s.syncIfDue c.tid c.pid else s) with focus := some f }

/-- Time runs until a front end is free of its passes (R19). -/
def State.untilFree (s : State) (core : Nat) (x : Bool) : State :=
  match s.sweep? core x with | some w => s.tick (w.stop - s.cycle) | none => s

/-- A turn of one front end, once it is free; a cycle passes if nothing is eligible. Those that gave way have done so. -/
def State.frontTurn (s : State) (core : Nat) (x : Bool) : Work :=
  if s.mgmt.alarm then .settled s.tick1
  else
    let (cs, s) := (s.untilFree core x).candidates core x
    match s.pick cs with
    | none => .settled s.tick1
    | some c =>
      let s := match c.turn with
        | .empty _ => s
        | _ => cs.foldl (fun (s : State) (d : Cand) => s.modPath d.tid d.pid fun p => { p with yielded := false }) s
      s.takeTurn c

/-- The front ends that serve a resident team, each once. -/
def State.fronts (s : State) : List (Nat × Bool) :=
  ((s.teams.filter fun p => decide (p.2.place = .resident) && !p.2.issuing.isEmpty).map fun p =>
    (p.2.core, !p.2.fw && p.2.xfront)).eraseDups

/-- The front end whose turn it is: of those that no pass occupies (R19) the one whose pick has waited longest; none if none
has a candidate. Every front end looks at its paths. -/
def State.nextFront (s : State) : Option (Nat × Bool) × State :=
  let (best, s) := s.fronts.foldl (fun (acc : Option (Nat × (Nat × Bool)) × State) f =>
    let (cs, s) := acc.2.candidates f.1 f.2
    match (if (s.sweep? f.1 f.2).isSome then none else s.pick cs), acc.1 with
    | none, b => (b, s)
    | some c, none => (some (c.w, f), s)
    | some c, some b => (if c.w > b.1 then some (c.w, f) else some b, s)) (none, s)
  (best.map (·.2), s)

/-- Power management and the patrol scrub when they are due (R438, R439, R446). -/
def State.housekeeping (s : State) : Option Instr :=
  if decide (s.mgmt.power ≠ 0) && !s.ps1 then some .powerWake
  else if decide (s.ns ≥ s.mgmt.idleSince + 100000) && decide (s.deepest > s.mgmt.power) then some .powerStateEntry
  else if s.ns ≥ s.mgmt.lastScrub + scrubPeriod then some .patrolScrub
  else none

/-- A turn of the front ends; when none has anything to issue in this cycle, the cycle passes. -/
def State.frontsTurn (s : State) : Work :=
  if s.mgmt.alarm then .settled (s.tick1)
  else match s.nextFront with
    | (some f, s) => s.frontTurn f.1 f.2
    | (none, s) => .settled (s.tick1)

/-- The host writes its own memory, behind the host aperture (R426): a later non-posted read of the device returns it. -/
def State.hostStore (s : State) (pa : Nat) (bytes : List Byte) : State :=
  s.hwrite ((atAddr pa bytes).filter fun p => isHostAp p.1)

/-- What comes next: what the agenda says; else housekeeping that is due; else, in turn, a front end and the oldest event in
flight. -/
def State.nextWork (s0 : State) : Work :=
  let s := s0.markBusy
  match s.agenda with
  | .front core x :: rest => { s with agenda := rest }.frontTurn core x
  | .event e :: rest => .run e { s with agenda := rest }
  | .idle :: rest => .settled ({ s with agenda := rest }.tick1)
  | .hostMemory pa bytes :: rest => .settled ({ s with agenda := rest }.hostStore pa bytes)
  | [] =>
    match s.housekeeping with
    | some e => .run e s
    | none =>
      match s.turn, s.pending with
      | true, e :: rest => .run e { s with pending := rest, turn := false }
      | _, _ => { s with turn := true }.frontsTurn

/-- DEFERRED_TRAP (R416): the first cause a team holds is delivered at a boundary of the team, to the path that would issue
next: of its eligible paths the one picked first, else the lowest path. It waits while a handler runs or the team is off its
core. -/
def execDeferredTrap (tid : Nat) (s : State) : Host.Outcome State Fault Refusal :=
  event (
    match s.team? tid with
    | none => s
    | some t =>
      if t.deferred.isEmpty || t.place = .ended then s
      else if t.inHandler || decide (t.place ≠ .resident) then s.postOnce (.deferredTrap tid)
      else
        let (cs, s) := s.candidates t.core (!t.fw && t.xfront)
        let pid := match bestOf (cs.filter fun c => c.tid = tid) with
          | some c => c.pid
          | none => match t.paths with | (k, _) :: _ => k | [] => 0
        let s := s.deliverDeferred tid pid
        match s.team? tid with
        | some t => if t.deferred.isEmpty then s else s.postOnce (.deferredTrap tid)
        | none => s)

end Sys2Proof.Machine
end

