-- ==== Sys2Proof/Machine/Dispatch.lean ====
section
/-!
DEFINITION. Sys2Proof/Machine/Dispatch.lean: the meaning of every constructor of Instr, one direct call each.
-/
namespace Sys2Proof.Machine

/-- One step's effect: an instruction word issued by the path in focus, or an event. -/
def exec (i : Instr) (s : State) : Host.Outcome State Fault Refusal :=
  match i with
  | .nop => Sys2Proof.Machine.execNop s
  | .mode a0 => Sys2Proof.Machine.execMode a0 s
  | .bra a0 a1 => Sys2Proof.Machine.execBra a0 a1 s
  | .bran a0 a1 => Sys2Proof.Machine.execBran a0 a1 s
  | .brx a0 a1 => Sys2Proof.Machine.execBrx a0 a1 s
  | .call a0 => Sys2Proof.Machine.execCall a0 s
  | .callx a0 a1 => Sys2Proof.Machine.execCallx a0 a1 s
  | .ret a0 => Sys2Proof.Machine.execRet a0 s
  | .join a0 => Sys2Proof.Machine.execJoin a0 s
  | .exit => Sys2Proof.Machine.execExit s
  | .yield => Sys2Proof.Machine.execYield s
  | .sleep a0 => Sys2Proof.Machine.execSleep a0 s
  | .loop a0 a1 => Sys2Proof.Machine.execLoop a0 a1 s
  | .bar a0 => Sys2Proof.Machine.execBar a0 s
  | .bara a0 => Sys2Proof.Machine.execBara a0 s
  | .barw a0 => Sys2Proof.Machine.execBarw a0 s
  | .waitf a0 => Sys2Proof.Machine.execWaitf a0 s
  | .give a0 => Sys2Proof.Machine.execGive a0 s
  | .claim a0 => Sys2Proof.Machine.execClaim a0 s
  | .spawn a0 => Sys2Proof.Machine.execSpawn a0 s
  | .svc a0 => Sys2Proof.Machine.execSvc a0 s
  | .trap a0 => Sys2Proof.Machine.execTrap a0 s
  | .rft => Sys2Proof.Machine.execRft s
  | .brk a0 => Sys2Proof.Machine.execBrk a0 s
  | .pmark a0 => Sys2Proof.Machine.execPmark a0 s
  | .ldi a0 a1 => Sys2Proof.Machine.execLdi a0 a1 s
  | .ldih a0 a1 => Sys2Proof.Machine.execLdih a0 a1 s
  | .mov a0 a1 => Sys2Proof.Machine.execMov a0 a1 s
  | .sel a0 a1 a2 => Sys2Proof.Machine.execSel a0 a1 a2 s
  | .add a0 a1 a2 => Sys2Proof.Machine.execAdd a0 a1 a2 s
  | .sub a0 a1 a2 => Sys2Proof.Machine.execSub a0 a1 a2 s
  | .mul a0 a1 a2 => Sys2Proof.Machine.execMul a0 a1 a2 s
  | .mulh a0 a1 a2 => Sys2Proof.Machine.execMulh a0 a1 a2 s
  | .mad a0 a1 a2 => Sys2Proof.Machine.execMad a0 a1 a2 s
  | .div a0 a1 a2 => Sys2Proof.Machine.execDiv a0 a1 a2 s
  | .rem a0 a1 a2 => Sys2Proof.Machine.execRem a0 a1 a2 s
  | .min a0 a1 a2 => Sys2Proof.Machine.execMin a0 a1 a2 s
  | .max a0 a1 a2 => Sys2Proof.Machine.execMax a0 a1 a2 s
  | .abs a0 a1 => Sys2Proof.Machine.execAbs a0 a1 s
  | .neg a0 a1 => Sys2Proof.Machine.execNeg a0 a1 s
  | .and a0 a1 a2 => Sys2Proof.Machine.execAnd a0 a1 a2 s
  | .or a0 a1 a2 => Sys2Proof.Machine.execOr a0 a1 a2 s
  | .xor a0 a1 a2 => Sys2Proof.Machine.execXor a0 a1 a2 s
  | .not a0 a1 => Sys2Proof.Machine.execNot a0 a1 s
  | .shl a0 a1 a2 => Sys2Proof.Machine.execShl a0 a1 a2 s
  | .shr a0 a1 a2 => Sys2Proof.Machine.execShr a0 a1 a2 s
  | .rot a0 a1 a2 => Sys2Proof.Machine.execRot a0 a1 a2 s
  | .bfx a0 a1 a2 => Sys2Proof.Machine.execBfx a0 a1 a2 s
  | .bfi a0 a1 a2 => Sys2Proof.Machine.execBfi a0 a1 a2 s
  | .clz a0 a1 => Sys2Proof.Machine.execClz a0 a1 s
  | .popc a0 a1 => Sys2Proof.Machine.execPopc a0 a1 s
  | .brev a0 a1 => Sys2Proof.Machine.execBrev a0 a1 s
  | .addi a0 a1 a2 => Sys2Proof.Machine.execAddi a0 a1 a2 s
  | .shli a0 a1 a2 => Sys2Proof.Machine.execShli a0 a1 a2 s
  | .shri a0 a1 a2 => Sys2Proof.Machine.execShri a0 a1 a2 s
  | .andi a0 a1 a2 => Sys2Proof.Machine.execAndi a0 a1 a2 s
  | .lea a0 a1 a2 => Sys2Proof.Machine.execLea a0 a1 a2 s
  | .ceq a0 a1 a2 => Sys2Proof.Machine.execCeq a0 a1 a2 s
  | .cne a0 a1 a2 => Sys2Proof.Machine.execCne a0 a1 a2 s
  | .clt a0 a1 a2 => Sys2Proof.Machine.execClt a0 a1 a2 s
  | .cle a0 a1 a2 => Sys2Proof.Machine.execCle a0 a1 a2 s
  | .cgt a0 a1 a2 => Sys2Proof.Machine.execCgt a0 a1 a2 s
  | .cge a0 a1 a2 => Sys2Proof.Machine.execCge a0 a1 a2 s
  | .pand a0 a1 a2 => Sys2Proof.Machine.execPand a0 a1 a2 s
  | .por a0 a1 a2 => Sys2Proof.Machine.execPor a0 a1 a2 s
  | .pxor a0 a1 a2 => Sys2Proof.Machine.execPxor a0 a1 a2 s
  | .pnot a0 a1 => Sys2Proof.Machine.execPnot a0 a1 s
  | .pfrom a0 a1 => Sys2Proof.Machine.execPfrom a0 a1 s
  | .pset a0 a1 => Sys2Proof.Machine.execPset a0 a1 s
  | .fadd a0 a1 a2 => Sys2Proof.Machine.execFadd a0 a1 a2 s
  | .fsub a0 a1 a2 => Sys2Proof.Machine.execFsub a0 a1 a2 s
  | .fmul a0 a1 a2 => Sys2Proof.Machine.execFmul a0 a1 a2 s
  | .fma a0 a1 a2 => Sys2Proof.Machine.execFma a0 a1 a2 s
  | .fms a0 a1 a2 => Sys2Proof.Machine.execFms a0 a1 a2 s
  | .fnma a0 a1 a2 => Sys2Proof.Machine.execFnma a0 a1 a2 s
  | .fmin a0 a1 a2 => Sys2Proof.Machine.execFmin a0 a1 a2 s
  | .fmax a0 a1 a2 => Sys2Proof.Machine.execFmax a0 a1 a2 s
  | .fabs a0 a1 => Sys2Proof.Machine.execFabs a0 a1 s
  | .fneg a0 a1 => Sys2Proof.Machine.execFneg a0 a1 s
  | .fdiv a0 a1 a2 => Sys2Proof.Machine.execFdiv a0 a1 a2 s
  | .fsqrt a0 a1 => Sys2Proof.Machine.execFsqrt a0 a1 s
  | .frcp a0 a1 => Sys2Proof.Machine.execFrcp a0 a1 s
  | .frsq a0 a1 => Sys2Proof.Machine.execFrsq a0 a1 s
  | .fexp2 a0 a1 => Sys2Proof.Machine.execFexp2 a0 a1 s
  | .flog2 a0 a1 => Sys2Proof.Machine.execFlog2 a0 a1 s
  | .fsin a0 a1 => Sys2Proof.Machine.execFsin a0 a1 s
  | .fcos a0 a1 => Sys2Proof.Machine.execFcos a0 a1 s
  | .ftanh a0 a1 => Sys2Proof.Machine.execFtanh a0 a1 s
  | .fceq a0 a1 a2 => Sys2Proof.Machine.execFceq a0 a1 a2 s
  | .fclt a0 a1 a2 => Sys2Proof.Machine.execFclt a0 a1 a2 s
  | .fcle a0 a1 a2 => Sys2Proof.Machine.execFcle a0 a1 a2 s
  | .fcun a0 a1 a2 => Sys2Proof.Machine.execFcun a0 a1 a2 s
  | .fclass a0 a1 => Sys2Proof.Machine.execFclass a0 a1 s
  | .frnd a0 a1 => Sys2Proof.Machine.execFrnd a0 a1 s
  | .fcps a0 a1 a2 => Sys2Proof.Machine.execFcps a0 a1 a2 s
  | .fscale a0 a1 a2 => Sys2Proof.Machine.execFscale a0 a1 a2 s
  | .cvt a0 a1 a2 => Sys2Proof.Machine.execCvt a0 a1 a2 s
  | .cvts a0 a1 a2 => Sys2Proof.Machine.execCvts a0 a1 a2 s
  | .pack a0 a1 a2 => Sys2Proof.Machine.execPack a0 a1 a2 s
  | .unpk a0 a1 a2 => Sys2Proof.Machine.execUnpk a0 a1 a2 s
  | .qnt a0 a1 a2 => Sys2Proof.Machine.execQnt a0 a1 a2 s
  | .dqnt a0 a1 a2 => Sys2Proof.Machine.execDqnt a0 a1 a2 s
  | .rand a0 => Sys2Proof.Machine.execRand a0 s
  | .shfl a0 a1 a2 => Sys2Proof.Machine.execShfl a0 a1 a2 s
  | .shfx a0 a1 a2 => Sys2Proof.Machine.execShfx a0 a1 a2 s
  | .shup a0 a1 a2 => Sys2Proof.Machine.execShup a0 a1 a2 s
  | .shdn a0 a1 a2 => Sys2Proof.Machine.execShdn a0 a1 a2 s
  | .vota a0 a1 a2 => Sys2Proof.Machine.execVota a0 a1 a2 s
  | .voty a0 a1 a2 => Sys2Proof.Machine.execVoty a0 a1 a2 s
  | .ballot a0 a1 a2 => Sys2Proof.Machine.execBallot a0 a1 a2 s
  | .redu a0 a1 a2 a3 => Sys2Proof.Machine.execRedu a0 a1 a2 a3 s
  | .scan a0 a1 a2 a3 a4 => Sys2Proof.Machine.execScan a0 a1 a2 a3 a4 s
  | .bcast a0 a1 a2 => Sys2Proof.Machine.execBcast a0 a1 a2 s
  | .matchLanes a0 a1 => Sys2Proof.Machine.execMatchLanes a0 a1 s
  | .acnt a0 a1 a2 a3 => Sys2Proof.Machine.execAcnt a0 a1 a2 a3 s
  | .ld a0 a1 a2 a3 => Sys2Proof.Machine.execLd a0 a1 a2 a3 s
  | .st a0 a1 a2 a3 => Sys2Proof.Machine.execSt a0 a1 a2 a3 s
  | .ldu a0 a1 a2 a3 => Sys2Proof.Machine.execLdu a0 a1 a2 a3 s
  | .stu a0 a1 a2 a3 => Sys2Proof.Machine.execStu a0 a1 a2 a3 s
  | .ldl a0 a1 a2 a3 => Sys2Proof.Machine.execLdl a0 a1 a2 a3 s
  | .stl a0 a1 a2 a3 => Sys2Proof.Machine.execStl a0 a1 a2 a3 s
  | .ldp a0 a1 a2 a3 => Sys2Proof.Machine.execLdp a0 a1 a2 a3 s
  | .lda a0 a1 a2 => Sys2Proof.Machine.execLda a0 a1 a2 s
  | .commit a0 a1 => Sys2Proof.Machine.execCommit a0 a1 s
  | .ldq a0 a1 a2 a3 => Sys2Proof.Machine.execLdq a0 a1 a2 a3 s
  | .str a0 a1 a2 a3 => Sys2Proof.Machine.execStr a0 a1 a2 a3 s
  | .fence a0 => Sys2Proof.Machine.execFence a0 s
  | .atom a0 a1 a2 a3 a4 => Sys2Proof.Machine.execAtom a0 a1 a2 a3 a4 s
  | .atomr a0 a1 a2 a3 a4 => Sys2Proof.Machine.execAtomr a0 a1 a2 a3 a4 s
  | .cas a0 a1 a2 a3 => Sys2Proof.Machine.execCas a0 a1 a2 a3 s
  | .red a0 a1 a2 => Sys2Proof.Machine.execRed a0 a1 a2 s
  | .pref a0 a1 => Sys2Proof.Machine.execPref a0 a1 s
  | .arma a0 a1 a2 => Sys2Proof.Machine.execArma a0 a1 a2 s
  | .waita a0 a1 => Sys2Proof.Machine.execWaita a0 a1 s
  | .polla a0 a1 a2 => Sys2Proof.Machine.execPolla a0 a1 a2 s
  | .qcfg a0 a1 a2 => Sys2Proof.Machine.execQcfg a0 a1 a2 s
  | .qfree a0 a1 => Sys2Proof.Machine.execQfree a0 a1 s
  | .qdrain a0 a1 => Sys2Proof.Machine.execQdrain a0 a1 s
  | .qcnt a0 a1 a2 => Sys2Proof.Machine.execQcnt a0 a1 a2 s
  | .qtry a0 a1 a2 a3 => Sys2Proof.Machine.execQtry a0 a1 a2 a3 s
  | .qoffr a0 a1 a2 => Sys2Proof.Machine.execQoffr a0 a1 a2 s
  | .qclose a0 a1 => Sys2Proof.Machine.execQclose a0 a1 s
  | .qlink a0 a1 => Sys2Proof.Machine.execQlink a0 a1 s
  | .talloc a0 a1 => Sys2Proof.Machine.execTalloc a0 a1 s
  | .tload a0 a1 a2 => Sys2Proof.Machine.execTload a0 a1 a2 s
  | .tstore a0 a1 a2 => Sys2Proof.Machine.execTstore a0 a1 a2 s
  | .ttask a0 a1 a2 => Sys2Proof.Machine.execTtask a0 a1 a2 s
  | .tget a0 a1 a2 => Sys2Proof.Machine.execTget a0 a1 a2 s
  | .tdef a0 a1 a2 => Sys2Proof.Machine.execTdef a0 a1 a2 s
  | .tkill a0 => Sys2Proof.Machine.execTkill a0 s
  | .twait a0 => Sys2Proof.Machine.execTwait a0 s
  | .tstat a0 a1 => Sys2Proof.Machine.execTstat a0 a1 s
  | .thint a0 a1 a2 => Sys2Proof.Machine.execThint a0 a1 a2 s
  | .tdesc a0 a1 => Sys2Proof.Machine.execTdesc a0 a1 s
  | .tdescr a0 a1 => Sys2Proof.Machine.execTdescr a0 a1 s
  | .card a0 => Sys2Proof.Machine.execCard a0 s
  | .cardw a0 a1 => Sys2Proof.Machine.execCardw a0 a1 s
  | .garm a0 a1 => Sys2Proof.Machine.execGarm a0 a1 s
  | .gdone a0 => Sys2Proof.Machine.execGdone a0 s
  | .subm a0 a1 => Sys2Proof.Machine.execSubm a0 a1 s
  | .sigw a0 a1 a2 => Sys2Proof.Machine.execSigw a0 a1 a2 s
  | .siga a0 a1 a2 a3 => Sys2Proof.Machine.execSiga a0 a1 a2 a3 s
  | .areg a0 a1 a2 => Sys2Proof.Machine.execAreg a0 a1 a2 s
  | .aenter a0 a1 => Sys2Proof.Machine.execAenter a0 a1 s
  | .aexit => Sys2Proof.Machine.execAexit s
  | .adrop a0 => Sys2Proof.Machine.execAdrop a0 s
  | .atest a0 a1 => Sys2Proof.Machine.execAtest a0 a1 s
  | .arevk a0 => Sys2Proof.Machine.execArevk a0 s
  | .csrr a0 a1 => Sys2Proof.Machine.execCsrr a0 a1 s
  | .csrw a0 a1 => Sys2Proof.Machine.execCsrw a0 a1 s
  | .csrs a0 a1 => Sys2Proof.Machine.execCsrs a0 a1 s
  | .csrc a0 a1 => Sys2Proof.Machine.execCsrc a0 a1 s
  | .fwcall a0 a1 => Sys2Proof.Machine.execFwcall a0 a1 s
  | .fwcallReg a0 a1 => Sys2Proof.Machine.execFwcallReg a0 a1 s
  | .tinv a0 a1 => Sys2Proof.Machine.execTinv a0 a1 s
  | .svcr a0 a1 => Sys2Proof.Machine.execSvcr a0 a1 s
  | .ctxs a0 a1 => Sys2Proof.Machine.execCtxs a0 a1 s
  | .ctxl a0 a1 => Sys2Proof.Machine.execCtxl a0 a1 s
  | .ticketClaim a0 a1 => Sys2Proof.Machine.execTicketClaim a0 a1 s
  | .ticketDone a0 a1 => Sys2Proof.Machine.execTicketDone a0 a1 s
  | .xtrig => Sys2Proof.Machine.execXtrig s
  | .tron a0 => Sys2Proof.Machine.execTron a0 s
  | .expd a0 => Sys2Proof.Machine.execExpd a0 s
  | .ill => Sys2Proof.Machine.execIll s
  | .completionEntryPost a0 => Sys2Proof.Machine.execCompletionEntryPost a0 s
  | .cqInterruptTimer a0 => Sys2Proof.Machine.execCqInterruptTimer a0 s
  | .workPacket a0 => Sys2Proof.Machine.execWorkPacket a0 s
  | .workRecordAppend a0 a1 => Sys2Proof.Machine.execWorkRecordAppend a0 a1 s
  | .waitPacket a0 => Sys2Proof.Machine.execWaitPacket a0 s
  | .waitSignalRead a0 a1 => Sys2Proof.Machine.execWaitSignalRead a0 a1 s
  | .signalPacket a0 => Sys2Proof.Machine.execSignalPacket a0 s
  | .copyPacket a0 => Sys2Proof.Machine.execCopyPacket a0 s
  | .graphPacket a0 => Sys2Proof.Machine.execGraphPacket a0 s
  | .markerPacket a0 => Sys2Proof.Machine.execMarkerPacket a0 s
  | .recordDistribute a0 a1 => Sys2Proof.Machine.execRecordDistribute a0 a1 s
  | .gatherWindowExpiry a0 => Sys2Proof.Machine.execGatherWindowExpiry a0 s
  | .groupAdmission a0 => Sys2Proof.Machine.execGroupAdmission a0 s
  | .feedAppend a0 a1 => Sys2Proof.Machine.execFeedAppend a0 a1 s
  | .nodeRetire a0 a1 => Sys2Proof.Machine.execNodeRetire a0 a1 s
  | .cardStart a0 => Sys2Proof.Machine.execCardStart a0 s
  | .cardTransfer a0 => Sys2Proof.Machine.execCardTransfer a0 s
  | .cardComplete a0 => Sys2Proof.Machine.execCardComplete a0 s
  | .collectiveTimeout a0 => Sys2Proof.Machine.execCollectiveTimeout a0 s
  | .tileDefinitionComplete a0 a1 => Sys2Proof.Machine.execTileDefinitionComplete a0 a1 s
  | .tileDefinitionFail a0 a1 a2 => Sys2Proof.Machine.execTileDefinitionFail a0 a1 a2 s
  | .tileReadComplete a0 a1 a2 => Sys2Proof.Machine.execTileReadComplete a0 a1 a2 s
  | .tileTaskDispatch a0 a1 => Sys2Proof.Machine.execTileTaskDispatch a0 a1 s
  | .tileStepBlock a0 => Sys2Proof.Machine.execTileStepBlock a0 s
  | .ldaLanded a0 a1 => Sys2Proof.Machine.execLdaLanded a0 a1 s
  | .instructionComplete a0 a1 => Sys2Proof.Machine.execInstructionComplete a0 a1 s
  | .nreq a0 => Sys2Proof.Machine.execNreq a0 s
  | .ngrant a0 a1 => Sys2Proof.Machine.execNgrant a0 a1 s
  | .wtgrant a0 a1 => Sys2Proof.Machine.execWtgrant a0 a1 s
  | .writeThroughStore a0 => Sys2Proof.Machine.execWriteThroughStore a0 s
  | .writeBack a0 a1 => Sys2Proof.Machine.execWriteBack a0 a1 s
  | .invalidation a0 => Sys2Proof.Machine.execInvalidation a0 s
  | .narrowWritebackTimer a0 a1 => Sys2Proof.Machine.execNarrowWritebackTimer a0 a1 s
  | .bankAluOperation a0 => Sys2Proof.Machine.execBankAluOperation a0 s
  | .releaseMarker a0 a1 a2 a3 a4 => Sys2Proof.Machine.execReleaseMarker a0 a1 a2 a3 a4 s
  | .applyEntry a0 => Sys2Proof.Machine.execApplyEntry a0 s
  | .commitGroup a0 => Sys2Proof.Machine.execCommitGroup a0 s
  | .revocation a0 a1 => Sys2Proof.Machine.execRevocation a0 a1 s
  | .coreRevocation a0 a1 => Sys2Proof.Machine.execCoreRevocation a0 a1 s
  | .heldRequestRelease a0 => Sys2Proof.Machine.execHeldRequestRelease a0 s
  | .fallbackRelease a0 a1 => Sys2Proof.Machine.execFallbackRelease a0 a1 s
  | .edfPeriodStart a0 a1 => Sys2Proof.Machine.execEdfPeriodStart a0 a1 s
  | .stopRequest a0 => Sys2Proof.Machine.execStopRequest a0 s
  | .sliceEnd a0 => Sys2Proof.Machine.execSliceEnd a0 s
  | .hardPreemption a0 => Sys2Proof.Machine.execHardPreemption a0 s
  | .saveTimerExpiry a0 => Sys2Proof.Machine.execSaveTimerExpiry a0 s
  | .sleepExpiry a0 a1 => Sys2Proof.Machine.execSleepExpiry a0 a1 s
  | .deferredTrap a0 => Sys2Proof.Machine.execDeferredTrap a0 s
  | .postedStoreAck a0 a1 => Sys2Proof.Machine.execPostedStoreAck a0 a1 s
  | .linkRetrainTimeout a0 => Sys2Proof.Machine.execLinkRetrainTimeout a0 s
  | .jobWatchdog a0 a1 a2 => Sys2Proof.Machine.execJobWatchdog a0 a1 a2 s
  | .overlayLoadComplete a0 a1 => Sys2Proof.Machine.execOverlayLoadComplete a0 a1 s
  | .trialPhaseEnd a0 => Sys2Proof.Machine.execTrialPhaseEnd a0 s
  | .svcRequestRoom a0 => Sys2Proof.Machine.execSvcRequestRoom a0 s
  | .coldReset => Sys2Proof.Machine.execColdReset s
  | .securityAlarm => Sys2Proof.Machine.execSecurityAlarm s
  | .attestationRequest => Sys2Proof.Machine.execAttestationRequest s
  | .powerStateEntry => Sys2Proof.Machine.execPowerStateEntry s
  | .powerWake => Sys2Proof.Machine.execPowerWake s
  | .patrolScrub => Sys2Proof.Machine.execPatrolScrub s
  | .doorbell a0 a1 => Sys2Proof.Machine.execDoorbell a0 a1 s
  | .queueEnable a0 => Sys2Proof.Machine.execQueueEnable a0 s
  | .queueDisable a0 => Sys2Proof.Machine.execQueueDisable a0 s
  | .queueAbortWrite a0 => Sys2Proof.Machine.execQueueAbortWrite a0 s
  | .hostWindowWrite a0 a1 a2 => Sys2Proof.Machine.execHostWindowWrite a0 a1 a2 s
  | .hostWindowRead a0 a1 a2 => Sys2Proof.Machine.execHostWindowRead a0 a1 a2 s
  | .cqHeadWrite a0 a1 => Sys2Proof.Machine.execCqHeadWrite a0 a1 s
  | .cqRingReset a0 a1 a2 => Sys2Proof.Machine.execCqRingReset a0 a1 a2 s
  | .homeEviction a0 => Sys2Proof.Machine.execHomeEviction a0 s
  | .guestEviction a0 a1 => Sys2Proof.Machine.execGuestEviction a0 a1 s
  | .latchingRead a0 a1 => Sys2Proof.Machine.execLatchingRead a0 a1 s
  | .statusClear a0 a1 => Sys2Proof.Machine.execStatusClear a0 a1 s
  | .droopcfgWrite a0 a1 => Sys2Proof.Machine.execDroopcfgWrite a0 a1 s
  | .apinv a0 a1 => Sys2Proof.Machine.execApinv a0 a1 s
  | .registerWrite a0 a1 => Sys2Proof.Machine.execRegisterWrite a0 a1 s
  | .fabricRequest a0 a1 => Sys2Proof.Machine.execFabricRequest a0 a1 s
  | .collectivePeerMessage a0 a1 a2 => Sys2Proof.Machine.execCollectivePeerMessage a0 a1 a2 s
  | .contextCreation a0 a1 => Sys2Proof.Machine.execContextCreation a0 a1 s
  | .contextDestruction a0 => Sys2Proof.Machine.execContextDestruction a0 s
  | .poolConfiguration a0 a1 a2 => Sys2Proof.Machine.execPoolConfiguration a0 a1 a2 s
  | .powerLoss a0 => Sys2Proof.Machine.execPowerLoss a0 s
  | .imageUpdate a0 => Sys2Proof.Machine.execImageUpdate a0 s
  | .recoveryImage a0 => Sys2Proof.Machine.execRecoveryImage a0 s
  | .svcReply a0 a1 => Sys2Proof.Machine.execSvcReply a0 a1 s
  | .lateStoreFault a0 a1 => Sys2Proof.Machine.execLateStoreFault a0 a1 s
  | .linkRetrain a0 => Sys2Proof.Machine.execLinkRetrain a0 s
  | .linkRecovery a0 => Sys2Proof.Machine.execLinkRecovery a0 s
  | .apertureFailure a0 a1 a2 => Sys2Proof.Machine.execApertureFailure a0 a1 a2 s
  | .completionTimeout a0 a1 => Sys2Proof.Machine.execCompletionTimeout a0 a1 s
  | .pageWalk a0 a1 a2 a3 a4 => Sys2Proof.Machine.execPageWalk a0 a1 a2 a3 a4 s
  | .priorityAging a0 a1 => Sys2Proof.Machine.execPriorityAging a0 a1 s
  | .traceSyncTimer a0 a1 => Sys2Proof.Machine.execTraceSyncTimer a0 a1 s
  | .gets a0 => Sys2Proof.Machine.execGets a0 s
  | .forcedPublish a0 a1 => Sys2Proof.Machine.execForcedPublish a0 a1 s

end Sys2Proof.Machine
end

