-- ==== Sys2Proof/Machine/Step.lean ====
section
/-!
DEFINITION. Sys2Proof/Machine/Step.lean: one step of the machine, and how an instruction is placed where the next step fetches
it.
-/
namespace Sys2Proof.Machine

/-- One step: what `State.nextWork` says comes next, after an instruction the SYNC that its path owes, and the conditional nodes whose
PRED the step has brought to 0 (R191). -/
def step (s : State) : Host.Outcome State Fault Refusal :=
  match s.nextWork with
  | .settled s' => .next s'.dispatchConditionals
  | .run i s' =>
    match exec i s' with
    | .next t => .next (s'.syncIssued t i).dispatchConditionals
    | .fault e => .fault e
    | .refused r => .refused r

/-- Control word of a bundle whose slots wait for nothing and set no flag (R238). -/
def plainControl : Word := 0x3CF3C000

/-- The context entry, page tables and bundle that a placed word needs, all in HBM (R78, R167): root table 0x20000, and one
64 GiB leaf of PACKAGE scope with W, X and A set that maps addresses to themselves; the bundle at 0x10000. -/
def placedBytes (w : Word) : List (Nat × Byte) :=
  atAddr 0x10000 (natLe 4 plainControl.toNat ++ natLe 4 w.toNat ++ natLe 8 0) ++ atAddr 0x20000 (natLe 8 0x22001) ++
  atAddr 0x22000 (natLe 8 0x0BF)

/-- The team that runs a placed word: 32 lanes in slot 0 of core 0, on the X-front, in context 0. -/
def placedTeam (now : Nat) : Team :=
  { Team.agent 0 now with
    slot := 0, xfront := true, fw := false, base := 0,
    paths := [(0, Path.start 0x10000 (firstLanes 32) now)] }

/-- `s` with the instruction whose bits are `w`, numbered as the opcode table numbers them, stored where `step` fetches its
next instruction. It stands for the loading of a program from outside (log 2): context 0 has the page tables of
`placedBytes`, a team of it stands on core 0 before the bundle, and that front end has the next turn. -/
def State.withFetchWord (s : State) (nbits w : Nat) : State :=
  let w := BitVec.ofNat 32 (w % 2 ^ nbits)
  let s := s.hwrite (placedBytes w)
  let s := s.modCtx 0 fun c => { c with entry := BitVec.ofNat 512 0x20001 }
  let s := s.modCore 0 fun c => { c with tlb := [], icache := [] }
  let s := s.modClu 0 fun c => { c with tlb := [] }
  let s := { s with teams := s.teams.map fun (p : Nat × Team) =>
    (p.1, if p.2.core = 0 then { p.2 with stopped := true, rests := [] } else p.2) }
  let s := s.modMgmt fun m => { m with alarm := false }
  { s.setTeam s.seq (placedTeam s.cycle) with seq := s.seq + 1, agenda := [.front 0 true] }

end Sys2Proof.Machine
end

