-- ==== Sys2Proof/WellFormed.lean ====
section
/-!
DEFINITION. Sys2Proof/WellFormed.lean: which terms of Instr stand for something the part can meet. A word is well-formed when
some mode.T lets it past step 5 of R247 with the h-bank window open (its operand codes, pairs, sub-fields and type are then
legal together); an event is well-formed when the objects it names exist (R14, R76, R143, R155, R167, R175).
-/
namespace Sys2Proof

/-- The mode register with type T and everything else 0 (R58). -/
def modeOfT (t : Nat) : BitVec 16 := BitVec.ofNat 16 (32 * t)

/-- The value codes, pairs, sub-fields and type of a word are legal under a mode (R236, R247 step 5). -/
def Instr.legalUnder (m : BitVec 16) (i : Instr) : Bool := ((Machine.infoOf m i).codes true).isNone

/-- Some type makes the word's operands legal. -/
def Instr.wordOk (i : Instr) : Bool := (List.range 13).any fun t => i.legalUnder (modeOfT t)

def coreOk (c : Nat) : Bool := decide (c < Config.cores)
def cluOk (c : Nat) : Bool := decide (c < Config.clusters)
def dieOk (d : Nat) : Bool := decide (d < Config.dies)
def ctxOk (c : Nat) : Bool := decide (c < 64)
def poolOk (p : Nat) : Bool := decide (p < 64)
def queueOk (q : Nat) : Bool := decide (q < 256)
/-- A completion queue is keyed by its device number (R141, R159). -/
def cqOk (q : Nat) : Bool := decide (q < 256)
def nameOk (n : Nat) : Bool := decide (n < 4096)
def pathOk (p : Nat) : Bool := decide (p < 9)
def linkOk (l : Nat) : Bool := decide (l < 16)
/-- A line's span of words (R90). -/
def spanOk (r : LineReq) : Bool := coreOk r.core && decide (0 < r.count) && decide (r.first + r.count ≤ 32)
/-- A write stays in its line (R106). -/
def storeOk (r : StoreReq) : Bool := r.bytes.all fun b => decide (b.1 / 128 = r.line)
/-- A bank ALU's operation code (R335; 11 is compare and swap). -/
def bankOk (r : BankReq) : Bool := decide (r.op ≤ 11)

/-- The objects an event names exist. -/
def Instr.objectsOk : Instr → Bool
  | .completionEntryPost q | .cqInterruptTimer q | .cqHeadWrite q _ | .cqRingReset q _ _ => cqOk q
  | .workPacket q | .workRecordAppend q _ | .waitPacket q | .waitSignalRead q _ | .signalPacket q | .copyPacket q
  | .graphPacket q | .markerPacket q | .doorbell q _ | .queueEnable q | .queueDisable q | .queueAbortWrite q => queueOk q
  | .recordDistribute c p | .feedAppend c p | .poolConfiguration c p _ => ctxOk c && poolOk p
  | .nodeRetire c _ | .contextCreation c _ | .contextDestruction c | .svcReply c _ | .svcRequestRoom c => ctxOk c
  | .groupAdmission c | .stopRequest c | .sliceEnd c | .hardPreemption c | .saveTimerExpiry c | .trialPhaseEnd c => cluOk c
  | .edfPeriodStart c i => cluOk c && decide (i < 8)
  | .tileDefinitionComplete c n | .tileDefinitionFail c n _ | .tileReadComplete c n _ => cluOk c && nameOk n
  | .tileTaskDispatch _ c | .ngrant c _ | .wtgrant c _ | .narrowWritebackTimer c _ | .coreRevocation _ c
  | .fallbackRelease _ c | .postedStoreAck c _ | .lateStoreFault c _ | .droopcfgWrite c _ => coreOk c
  | .overlayLoadComplete c n => coreOk c && decide (n < 256)
  | .nreq r | .invalidation r | .gets r => spanOk r
  | .writeThroughStore r | .writeBack r _ => storeOk r
  | .bankAluOperation r => bankOk r
  | .fabricRequest p r => linkOk p && ctxOk r.ctx && (match r with | .atomic _ b => bankOk b | _ => true)
  | .releaseMarker a b _ _ _ => dieOk a && dieOk b
  | .applyEntry d | .revocation _ d | .guestEviction d _ | .apinv d _ => dieOk d
  | .jobWatchdog d k _ => dieOk d && decide (k < 16)
  | .linkRetrainTimeout l | .linkRetrain l | .linkRecovery l => linkOk l
  | .ldaLanded _ t => decide (t < 8)
  | .sleepExpiry _ p | .apertureFailure (.path _ p) .. | .completionTimeout (some _) p | .priorityAging _ p
  | .traceSyncTimer _ p => pathOk p
  | .pageWalk c x _ _ _ => coreOk c && ctxOk x
  | .hostWindowWrite f _ _ | .hostWindowRead f _ _ => decide (f ≤ 16)
  | .latchingRead _ n => decide (n < 4096)
  | .registerWrite (.bar0 f _) _ => decide (f ≤ 16)
  | .registerWrite (.csr c n) _ => coreOk c && decide (n < 4096)
  | _ => true

/-- A well-formed term: a word with legal operands, or an event whose objects exist. -/
def WellFormed (i : Instr) : Bool := if (encode i).isSome then i.wordOk else i.objectsOk

end Sys2Proof
end

