-- ==== Sys2Proof/Safety.lean ====
section
/-!
DEFINITION. Sys2Proof/Safety.lean: the terms in which claims about the machine are stated: what a step leads to, which runs
are safe, the invariant, the conditions under which an instruction gets past the checks of R247, and the frames.
-/
namespace Sys2Proof.Safety

open Sys2Proof.Machine

/-! ## Runs -/

/-- One step leads from a state to another. -/
def StepsTo (s t : State) : Prop := step s = .next t

/-- The states that steps lead to. -/
inductive Reaches (s : State) : State → Prop where
  | here : Reaches s s
  | step {t u : State} : Reaches s t → StepsTo t u → Reaches s u

/-- A run is safe while every state it reaches has a next one: no step stops the machine. -/
def Safe (s : State) : Prop := ∀ t, Reaches s t → ∃ u, StepsTo t u

/-- The invariant of the machine's memory: its canonical form, in which equal contents are equal data. -/
def Inv (s : State) : Prop := s.mem.wf = true

/-! ## Instructions at issue (R11, R242, R247)

`Machine.admission` makes the shared checks of R247; an instruction that gets past them has its context `c` (who issues it, and
what its sources hold) and the state `s'` after its queue pops. The terms below say what becomes of it then. -/

/-- It issues and completes by its latency, its own effect standing in `t`. -/
def Completes (i : Instr) (s : State) (c : Ctx) (t : State) : Prop := exec i s = .next (c.retire t none false)
/-- It issues, its own effect so far standing in `t`, and completes once `k` holds (R198). -/
def CompletesWhen (i : Instr) (s : State) (c : Ctx) (t : State) (k : Cond) : Prop := exec i s = .next (c.retire t (some k) false)
/-- It issues and has itself placed the paths of its team, as they stand in `t`. -/
def Places (i : Instr) (s : State) (c : Ctx) (t : State) : Prop := exec i s = .next (c.retire t none true)
/-- Its path parks (R261), the state being `t` apart from that. -/
def Parks (i : Instr) (s : State) (c : Ctx) (t : State) (w : Wait) : Prop := exec i s = .next (c.parkOn t w)
/-- It takes a precise trap (R11, R414) and does nothing else. -/
def TrapsWith (i : Instr) (s : State) (c : Ctx) (r : TrapReq) : Prop :=
  exec i s = .next { s.takeTrap c.tid c.pid c.f.addr r with focus := none }
/-- A trap whose cause has a detail and names no address. -/
def Traps (i : Instr) (s : State) (c : Ctx) (cause : Byte) (h1 : Word) (lanes : Option LaneMask) : Prop :=
  TrapsWith i s c ⟨cause, h1, 0, lanes, c.f.addr⟩

/-! ## Results -/

/-- Whatever passes the shared checks writes `val` to destination `d` (R22, R51, R52, R148, R258): to its registers, where `d`
names any (zr names none), or as an entry to its queue. -/
def WritesReg (i : Instr) (d : Code) (wide : Ctx → Bool) (val : Ctx → Nat → DWord) : Prop :=
  ∀ (s s' : State) (c : Ctx), admission i s = .ok c s' →
    exec i s = .next (c.conclude (c.put s' d (wide c) (val c))) ∧
    (Code.isQ d = false → Completes i s c (c.modTeam s' fun t => t.putReg c.lanes d (wide c) (val c)))

/-- Whatever passes the shared checks writes `f` to a predicate in the active lanes and nowhere else (R52). -/
def WritesPred (i : Instr) (p : BitVec 4) (f : Ctx → Nat → Bool) : Prop :=
  ∀ (s s' : State) (c : Ctx), admission i s = .ok c s' →
    ∃ m : LaneMask, Completes i s c (c.modTeam s' fun t => t.putPred c.active p.toNat m) ∧ ∀ l ∈ c.lanes, m.getLsbD l = f c l

/-- A narrow destination, and one of the width that mode.T gives (R259). -/
def narrow (_ : Ctx) : Bool := false
def byType (c : Ctx) : Bool := c.wide
def byFloat (c : Ctx) : Bool := c.wideF

/-- The integer that element value `a` stands for (R259), and `x` written to an element: clamped under SAT, else its low W bits
(R10, R11). -/
def num (c : Ctx) (a : Nat) : Int := intOf c.ity.w c.ity.signed a
def narrowed (c : Ctx) (x : Int) : Nat := satInt c.ity.w c.ity.signed c.sat x
/-- The operands X, Y and D of a lane, of the type's width. -/
def X (c : Ctx) (x : Code) (l : Nat) : DWord := c.b c.wide x l
def Y (c : Ctx) (y : Code) (l : Nat) : DWord := c.c c.wide y l
def D (c : Ctx) (d : Code) (l : Nat) : DWord := c.a c.wide d l
/-- A result formed element by element. -/
def each (c : Ctx) (f : Nat → Nat → Nat → Nat) (x y d : DWord) : DWord := mapElems c.ity f x y d

/-- A lane's result codes of a floating-point instruction: its elements in order, each with its draw (R219, R222). -/
def codesOf (c : Ctx) (f : Ctx → Nat → List Elem) (l : Nat) : List Nat := (runElems c.env.rm (c.stream l) (f c l)).1
/-- The flags that a floating-point instruction raises: those of every lane it computes. -/
def flagsOf (rs : List LaneOut) : FFlags := rs.foldl (fun (acc : FFlags) r => acc ||| r.2.2.1) 0
/-- The team with the flags due when the result is written (R61) and the streams moved on (R222, R302). -/
def raised (c : Ctx) (s : State) (rs : List LaneOut) (t : Team) : Team :=
  { t with landing := if flagsOf rs = 0 then t.landing else t.landing ++ [(c.written (c.stop s), statusOfFlags (flagsOf rs))],
           rng := rs.foldl (fun g r => Tab.store 0 g r.1 r.2.2.2) t.rng }
/-- FP_TRAP (R302): it traps, with the flags of all its lanes and naming those that raise an enabled one. -/
def TrapsOnFlags (i : Instr) (s : State) (c : Ctx) (rs : List LaneOut) : Prop :=
  ∃ m : LaneMask, Traps i s c Cause.fpTrap ((statusOfFlags (flagsOf rs)).setWidth 32) (some m) ∧
    ∀ l < 1024, m.getLsbD l = true ↔ ∃ r ∈ rs, r.1 = l ∧ r.2.2.1 &&& c.fpTraps ≠ 0

/-- The elements of a floating-point instruction's lane: formed from one source, from two, from two and D (fused, `np` and `nd` telling
which terms are negated), or from two codes without rounding (R301–R305). -/
def ofOne (f : Fmt → FEnv → FV → Pre) (x : Code) (c : Ctx) (l : Nat) : List Elem := (c.fb x l).map fun b =>
  Elem.ofPre c.fmt c.env (f c.fmt c.env (readF c.fmt c.env b))
def ofTwo (f : Fmt → FEnv → FV → FV → Pre) (x y : Code) (c : Ctx) (l : Nat) : List Elem := (List.zip (c.fb x l) (c.fc y l)).map fun p =>
  Elem.ofPre c.fmt c.env (f c.fmt c.env (readF c.fmt c.env p.1) (readF c.fmt c.env p.2))
def ofThree (np nd : Bool) (d x y : Code) (c : Ctx) (l : Nat) : List Elem :=
  (List.zip (c.fb x l) (List.zip (c.fc y l) (c.fa d l))).map fun p =>
    Elem.ofPre c.fmt c.env (fmaPre c.fmt c.env np nd (readF c.fmt c.env p.1) (readF c.fmt c.env p.2.1) (readF c.fmt c.env p.2.2))
def ofPick (isMax : Bool) (x y : Code) (c : Ctx) (l : Nat) : List Elem := (List.zip (c.fb x l) (c.fc y l)).map fun p =>
  Elem.code (fminmax c.fmt c.env isMax p.1 p.2).1 (fminmax c.fmt c.env isMax p.1 p.2).2
/-- Of FRND, of FSCALE and of a special function (R307, R310, R311). -/
def ofRound (x : Code) (c : Ctx) (l : Nat) : List Elem := (c.fb x l).map (frndElem c.fmt c.env)
def ofScale (x y : Code) (c : Ctx) (l : Nat) : List Elem := ((List.range c.elems).zip (c.fb x l)).map fun p =>
  Elem.ofPre c.fmt c.env (fscalePre c.fmt c.env (readF c.fmt c.env p.2)
    (if c.elems = 1 then intOf 32 true (c.c false y l).toNat else intOf 16 true (bits (c.c false y l).toNat (16 * p.1) 16)))
def ofSpecial (k : Nat) (x : Code) (c : Ctx) (l : Nat) : List Elem := (c.fb x l).map fun b => Elem.ofPre c.fmt c.env (special k c.fmt c.env b)
/-- Of a conversion, of PACK and of UNPK (R312, R313). -/
def ofConvert (env : Ctx → FEnv) (x : Code) (src : Nat) (c : Ctx) (l : Nat) : List Elem :=
  [convertElem (env c) src c.T (sourceValue (env c) src (c.read (pairT src) (intTy src).signed x c.popB l))]
def ofPack (d x : Code) (k : Nat) (c : Ctx) (l : Nat) : List Elem :=
  let w := packedWidth c.T
  let old := (c.a false d l).toNat
  let e : Elem := if c.T = 8 then ⟨true, fun dr => toInt 16 true c.env.rm (ofInt (intOf 32 true (c.b false x l).toNat)) dr⟩
    else convertElem c.env 4 c.T (sourceValue c.env 4 (BitVec.ofNat 64 (c.b false x l).toNat))
  [⟨e.rounds, fun dr => (old - bits old (w * k) w * 2 ^ (w * k) + (e.run dr).1 % 2 ^ w * 2 ^ (w * k), (e.run dr).2)⟩]
def ofUnpack (x : Code) (k : Nat) (c : Ctx) (l : Nat) : List Elem :=
  let b := bits (c.b false x l).toNat (packedWidth c.T * k) (packedWidth c.T)
  let env := { FEnv.plain with nanp := c.env.nanp }
  let r := (toFmtPre Fmt.fp32 env (readF c.fmt c.env b)).finish Fmt.fp32 env 0
  if c.T = 8 then [Elem.code (lowBits 32 (intOf 16 true b)) 0] else [Elem.code r.1 (r.2 &&& fI)]

/-- A floating-point instruction whose lanes raise a flag that TRAPEN enables traps, and writes nothing (R302); a uniform result's trap
names no lanes. -/
def TrapsFloat (i : Instr) (d : Code) (f : Ctx → Nat → List Elem) : Prop :=
  ∀ (s s' : State) (c : Ctx), admission i s = .ok c s' →
    let rs := c.laneOuts (c.uniformResult d) (f c)
    (∃ r ∈ rs, r.2.2.1 &&& c.fpTraps ≠ 0) →
    (c.uniformResult d = true → Traps i s c Cause.fpTrap ((statusOfFlags (flagsOf rs)).setWidth 32) none) ∧
    (c.uniformResult d = false → TrapsOnFlags i s c rs)

/-- A floating-point result: unless TRAPEN asks for a trap on a flag it raises (R302), the flags are due, the streams move, and
the codes of the computed lanes (all of them, or the lowest for a uniform result, R258) go to the destination. -/
def WritesFloat (i : Instr) (d : Code) (wide : Ctx → Bool) (width : Ctx → Nat) (f : Ctx → Nat → List Elem) : Prop :=
  ∀ (s s' : State) (c : Ctx), admission i s = .ok c s' →
    (∀ r ∈ c.laneOuts (c.uniformResult d) (f c), r.2.2.1 &&& c.fpTraps = 0) →
    ∃ (n : Nat) (g : Nat → DWord),
      let t : State := { c.modTeam s' (raised c s' (c.laneOuts (c.uniformResult d) (f c))) with free := n }
      exec i s = .next (c.conclude (c.put t d (wide c) g)) ∧
      (Code.isQ d = false → Completes i s c (c.modTeam t fun t => t.putReg c.lanes d (wide c) g)) ∧
      ∀ l ∈ c.lanes, (c.uniformResult d = true → c.lanes.head? = some l) → g l = joinElems (width c) (codesOf c f l)

/-- A result of n v registers from d on in every active lane, with its flags and streams, unless an enabled flag traps. -/
def WritesVectors (i : Instr) (d : BitVec 7) (n : Nat) (rs : Ctx → List LaneOut) (val : Ctx → Nat → Nat → Word) : Prop :=
  ∀ (s s' : State) (c : Ctx), admission i s = .ok c s' →
    ((∀ r ∈ rs c, r.2.2.1 &&& c.fpTraps = 0) → ∃ u : Team → Team, Completes i s c (c.modTeam s' u) ∧
      ∀ t, u t = { raised c s' (rs c) t with v := (u t).v } ∧ ∀ r l, l < 1024 → (u t).vreg r l =
        if l ∈ c.lanes ∧ d.toNat ≤ r ∧ r < d.toNat + n then val c (r - d.toNat) l else t.vreg r l) ∧
    ((∃ r ∈ rs c, r.2.2.1 &&& c.fpTraps ≠ 0) → TrapsOnFlags i s c (rs c))

/-- The blocks of a lane's word that QNT forms (R230, R314), and the lane's outcome: FI where one of its elements is a NaN or an
infinity of a block, FX where one is inexact. -/
def qntCodes (c : Ctx) (x : BitVec 7) (sf4 : Bool) (l : Nat) : List Block := (c.qntBlocks x sf4 (l / 32)).map (·.1)
def qntOut (c : Ctx) (x : BitVec 7) (sf4 : Bool) (l : Nat) : LaneOut :=
  (l, [], (c.qntBlocks x sf4 (l / 32)).foldl (fun (acc : FFlags) b =>
    acc ||| (if b.2.1 then fI else 0) ||| (if b.2.2.getD (l % 32) false then fX else 0)) 0, c.stream l)
/-- The eight elements that DQNT gives a lane (R231, R315): the lane's codes under the scales and spares of its word's trailer,
which stands in the lowest four lanes of the register above. -/
def dqntElems (x : BitVec 7) (sf4 : Bool) (c : Ctx) (l : Nat) : List Elem :=
  let trailer : List Byte := (List.range 4).flatMap fun k => natLe 4 (c.t.vreg (x.toNat + 1) (32 * (l / 32) + k)).toNat
  (List.range 8).map fun j =>
    let sc := trailerScale sf4 trailer j
    let e := Elem.ofPre c.fmt c.env (toFmtPre c.fmt c.env (blockValue sf4 sc.1 sc.2 (bits (c.t.vreg x.toNat l).toNat (4 * j) 4)))
    ⟨e.rounds, fun dr => ((e.run dr).1, if sc.1 = 0xFF then (e.run dr).2 ||| fI else (e.run dr).2)⟩

/-- A register-only effect: nothing but one team's registers, predicates, status (with the flags that are due), mode and
streams, and the counter of free values, differs. -/
def TeamOnly (tid : Nat) (s t : State) : Prop :=
  t = { s with teams := t.teams, free := t.free } ∧ (∀ k, k ≠ tid → t.team? k = s.team? k) ∧
  ∀ u, s.team? tid = some u → ∃ u', t.team? tid = some u' ∧
    u' = { u with v := u'.v, s := u'.s, p := u'.p, h := u'.h, mode := u'.mode, status := u'.status,
                       landing := u'.landing, rng := u'.rng }

/-- What completing an instruction adds to its own effect: the passes that its front end makes, performance counters, a serial
number, an event in flight, and in its team the place of its path, an outstanding entry, and that the registers it has written
have no error any more. -/
def RetireOnly (tid : Nat) (s t : State) : Prop :=
  t = { s with seq := t.seq, focus := none, pending := t.pending, cores := t.cores, teams := t.teams, sweeps := t.sweeps } ∧
  (∀ k, t.core k = { s.core k with csr := (t.core k).csr }) ∧ (∀ k, k ≠ tid → t.team? k = s.team? k) ∧
  ∀ u, s.team? tid = some u → ∃ u', t.team? tid = some u' ∧ u' = { u with paths := u'.paths, outst := u'.outst, flaws := u'.flaws }

/-- The registers of a team after a result has been written: v in the lanes that act, s or h from the lowest of them, the upper
half of a pair beside them, and every other register as before (R22, R50, R258). -/
structure RegsWritten (u u' : Team) (lanes : List Nat) (d : Code) (wide : Bool) (f : Nat → DWord) : Prop where
  v : ∀ r l, l < 1024 → u'.vreg r l =
    if d.toNat < 0x80 ∧ l ∈ lanes ∧ r = d.toNat then (f l).setWidth 32
    else if d.toNat < 0x80 ∧ l ∈ lanes ∧ wide = true ∧ r = d.toNat + 1 then (f l).extractLsb' 32 32
    else u.vreg r l
  s : ∀ r, u'.sreg r =
    if 0x80 ≤ d.toNat ∧ d.toNat < 0xA0 ∧ lanes ≠ [] ∧ r = d.toNat - 0x80 then (f (lanes.headD 0)).setWidth 32
    else if 0x80 ≤ d.toNat ∧ d.toNat < 0xA0 ∧ lanes ≠ [] ∧ wide = true ∧ r = d.toNat - 0x80 + 1 then
      (f (lanes.headD 0)).extractLsb' 32 32
    else u.sreg r
  h : ∀ r, u'.hreg r =
    if 0xE0 ≤ d.toNat ∧ d.toNat < 0xE8 ∧ lanes ≠ [] ∧ r = d.toNat - 0xE0 then (f (lanes.headD 0)).setWidth 32
    else if 0xE0 ≤ d.toNat ∧ d.toNat < 0xE8 ∧ lanes ≠ [] ∧ wide = true ∧ r = d.toNat - 0xE0 + 1 then
      (f (lanes.headD 0)).extractLsb' 32 32
    else u.hreg r
  rest : u' = { u with v := u'.v, s := u'.s, h := u'.h }

/-- The instructions that only compute: the integer, predicate, floating-point, conversion and cross-lane families. -/
def computes : Instr → Bool
  | .ldi .. | .ldih .. | .mov .. | .sel .. | .add .. | .sub .. | .mul .. | .mulh .. | .mad .. | .div .. | .rem .. | .min .. | .max ..
  | .abs .. | .neg .. | .and .. | .or .. | .xor .. | .not .. | .shl .. | .shr .. | .rot .. | .bfx .. | .bfi .. | .clz .. | .popc ..
  | .brev .. | .addi .. | .shli .. | .shri .. | .andi .. | .lea .. => true
  | .ceq .. | .cne .. | .clt .. | .cle .. | .cgt .. | .cge .. | .pand .. | .por .. | .pxor .. | .pnot .. | .pfrom .. | .pset .. => true
  | .fadd .. | .fsub .. | .fmul .. | .fma .. | .fms .. | .fnma .. | .fmin .. | .fmax .. | .fabs .. | .fneg .. | .fdiv .. | .fsqrt ..
  | .frcp .. | .frsq .. | .fexp2 .. | .flog2 .. | .fsin .. | .fcos .. | .ftanh .. | .fceq .. | .fclt .. | .fcle .. | .fcun .. | .fclass ..
  | .frnd .. | .fcps .. | .fscale .. | .cvt .. | .cvts .. | .pack .. | .unpk .. | .qnt .. | .dqnt .. | .rand .. => true
  | .shfl .. | .shfx .. | .shup .. | .shdn .. | .vota .. | .voty .. | .ballot .. | .redu .. | .scan .. | .bcast .. | .matchLanes ..
  | .acnt .. => true
  | _ => false

/-! ## Admission in plain terms -/

/-- Step 3 of R247: the word may issue where it stands (R246, R343), and a CSR that it writes lies in the view of its code (R71). -/
def Privileged (n : Info) (t : Team) (p : Path) : Prop :=
  (n.priv = 1 → t.fw = true) ∧ (n.priv = 2 → t.fw = true ∨ p.win = .trap) ∧ (n.noFw = true → t.fw = false)
def InView (n : Info) (t : Team) (p : Path) : Prop :=
  ∀ k, n.csr = some k → t.fw = true ∨ k < 0x400 ∨ (p.win = .trap ∧ k < 0x800)
def MayIssue (n : Info) (t : Team) (p : Path) : Prop := Privileged n t p ∧ InView n t p
/-- Step 4: an instruction for X-front teams stands in one. -/
def RightFront (n : Info) (t : Team) : Prop := n.xonly = true → t.xfront = true
/-- Steps 5 to 7 and no queue port. -/
def CleanOperands (n : Info) (t : Team) (p : Path) : Prop :=
  n.codes (decide (p.win ≠ .closed)) = none ∧ n.budget t.vcount t.scount = none ∧ (t.guard = [] ∨ n.ban = false) ∧ n.ports = []

/-- The issuing path of a state: its focus, team and path. -/
def Issuer (s : State) (f : Focus) (t : Team) (p : Path) : Prop :=
  s.focus = some f ∧ s.team? f.team = some t ∧ t.paths.get? f.path = some p
/-- The context of an instruction that names no queue port. -/
def plainCtx (i : Instr) (s : State) (f : Focus) (t : Team) (p : Path) : Ctx :=
  ⟨f, s, t, p, t.info i, .nothing, .nothing, .nothing⟩

/-- The front end whose turn comes next, and the state in which it looks at its paths: what the agenda says, or, where it says
nothing, the pick of the front ends. -/
def TurnOf (s : State) (core : Nat) (x : Bool) (s0 : State) : Prop :=
  let b := s.markBusy
  (∃ rest, b.agenda = .front core x :: rest ∧ s0 = { b with agenda := rest }) ∨
  (b.agenda = [] ∧ b.housekeeping = none ∧ (b.turn = false ∨ b.pending = []) ∧ b.mgmt.alarm = false ∧
    ({ b with turn := true } : State).nextFront = (some (core, x), s0))

/-! ## Accesses that reach memory (R75, R80, R326, R427) -/

/-- Every lane's access is aligned and canonical, translates (to `ok`, the state then being `t`), hits no watchpoint, and, where the
access waits for its link (`sync`), meets no link that is down or retraining and no aperture request that fails. -/
structure Accesses (c : Ctx) (s : State) (as : List (Nat × Nat)) (size : Nat) (rd wr sync watched : Bool) (ok : List LaneAcc)
    (t : State) : Prop where
  aligned : ∀ a ∈ as, a.2 % size = 0 ∧ a.2 < 2 ^ 56
  translated : c.translateLanes wr as s = (ok, [], t)
  unwatched : watched = true → c.watchHit as size rd wr = none
  linked : sync = true → ∀ a ∈ ok, t.linkAt a.pa = none ∨ ∃ l, t.linkAt a.pa = some (l, .up)
  answered : sync = true → c.meetsFail t ok size wr = none

/-- The values that some lanes load, the stamps of those values, and the state after the loads (R90, R118, R124). -/
def Loads (c : Ctx) (s : State) (as : List LaneAcc) (n : Nat) (t : State) (vals : Tab Nat) (st : Clock) : Prop :=
  ∃ t0, c.loadLanes n as s [] Clock.zero = .got t0 vals st ∧ t = c.modTeam t0 fun u => { u with loaded := u.loaded.max st }

/-- Values by lane go to a destination, from state `t`. With no lane active a queue's entry takes free values (log 6). -/
def GivesLanes (i : Instr) (s : State) (c : Ctx) (t : State) (d : Code) (wide : Bool) (val : Nat → DWord) : Prop :=
  ∃ (m : Nat) (g : Nat → DWord), exec i s = .next (c.conclude (c.put { t with free := m } d wide g)) ∧
    (Code.isQ d = false → Completes i s c (c.modTeam { t with free := m } fun u => u.putReg c.lanes d wide g)) ∧
    (c.active ≠ 0 → m = t.free ∧ g = val)

/-- Stores on their way (R123, R419), some having gone before: it completes once all are accepted; where the posted-store table
fills up, its path keeps what is left and parks. -/
def SendsStores (i : Instr) (s : State) (c : Ctx) (t : State) (ws : List LaneStore) (gone : List Nat) : Prop :=
  ∀ ids left t1, c.storeLanes ws t [] = (ids, left, t1) →
    let t2 := c.modTeam t1 fun u => { u with writes := u.writes ++ ids }
    (left = [] → CompletesWhen i s c (c.dropRest t2) (.stores (gone ++ ids))) ∧
    (left ≠ [] → Parks i s c (c.setRest t2 ⟨left, gone ++ ids, 0, [], Clock.zero, 0, []⟩) .postedRoom)

/-- An instruction that is done, the state being `t`, but for the lanes it faults (R65): where they were all of its path, the path
is gone. -/
def Finishes (i : Instr) (s : State) (c : Ctx) (t : State) (bad : LaneMask) : Prop :=
  let u := t.laneFault c.tid c.f.addr bad
  (c.p.mask &&& ~~~bad ≠ 0 → Completes i s c u) ∧ (c.p.mask &&& ~~~bad = 0 → Places i s c u)

/-- A release of the team finds its writes where it needs them (R126, R127), and the state after it is `t`. -/
def Releases (c : Ctx) (s : State) (scope : Nat) (t : State) : Prop :=
  (c.inRegion = true ∧ t = s) ∨
  (c.inRegion = false ∧ (s.flushWrites c.tid).releaseHeld c.tid scope = false ∧
    t = (s.flushWrites c.tid).releaseNow c.tid c.pid)
/-- An acquire finds its die's clock at or past the stamps (R118). -/
def Acquires (c : Ctx) (s : State) (st : Clock) (t : State) : Prop :=
  t = s.applyDie c.die ∧ (t.die c.die).clock.dominates c.die st = true

/-- The acquire half of a FENCE: no earlier atomic of the team is still to be performed, and what it has loaded is covered. -/
def FenceAcquires (c : Ctx) (s t : State) : Prop :=
  let s1 := s.drainOwn c.core none
  (∀ u, s1.team? c.tid = some u → s1.atomicsOpen u = false) ∧ Acquires c s1 c.t.loaded t

/-- The team's writes are open no more for a release of PACKAGE scope that makes them visible to an engine (R135, R355). -/
def Published (c : Ctx) (s t : State) : Prop := t = s.flushWrites c.tid ∧ t.writesOpen c.tid = false

/-! ## Chapter 13: what acts once for its team (R342) -/

/-- The instructions of chapter 13 that have no value destination: with no lane active they change nothing. -/
def actsOnce : Instr → Bool
  | .qcfg .. | .qfree .. | .qdrain .. | .qclose .. | .qlink .. | .talloc .. | .tload .. | .tstore .. | .ttask .. | .tget .. | .tdef ..
  | .tkill .. | .twait .. | .thint .. | .tdesc .. | .tdescr .. | .card .. | .cardw .. | .garm .. | .gdone .. | .subm .. | .sigw ..
  | .siga .. | .adrop .. | .atest .. | .arevk .. | .csrw .. | .csrs .. | .csrc .. | .fwcall .. | .fwcallReg .. | .tinv .. | .svcr ..
  | .ctxs .. | .ctxl .. | .ticketClaim .. | .ticketDone .. | .xtrig | .tron .. | .expd .. => true
  | _ => false

/-- What a q source of one occurrence delivers to a lane (R146). -/
def delivered (got : Popped) (l : Nat) : DWord :=
  match got with | .uni w => w.setWidth 64 | .lanes t => (t.getD l 0).setWidth 64 | .nothing => 0

/-- A handle that names a live tile name of the issuing team's group (R174, R177). -/
def LiveName (c : Ctx) (s : State) (w : Word) (name : Nat) (n : Name) : Prop :=
  w.toNat < 2 ^ 16 ∧ name = handleName w.toNat ∧ n = s.name c.clu name ∧ n.st ≠ .free ∧ n.owner = c.t.group ∧ n.gen = handleGen w.toNat
/-- The check of a handle register (R342, R352): it traps, or names a live name. -/
def Named (i : Instr) (s s' : State) (c : Ctx) (w : Word) (ends : Nat → Name → Prop) : Prop :=
  (2 ^ 16 ≤ w.toNat → Traps i s c Cause.illegalOperand (wordOf i) none) ∧
  (w.toNat < 2 ^ 16 → (¬ ∃ n, LiveName c s' w (handleName w.toNat) n) → Traps i s c Cause.tileStale w none) ∧
  ∀ name n, LiveName c s' w name n → ends name n
/-- The checks of a name that is to be defined: its handle, then the instruction's selector (`sel`: it is legal), then that the name is
PENDING, with no definition issued (R177, R352, R355). -/
def Definable (i : Instr) (s s' : State) (c : Ctx) (w : Word) (sel : Prop) (ends : Nat → Name → Prop) : Prop :=
  Named i s s' c w fun name n =>
    (¬ sel → Traps i s c Cause.illegalOperand (wordOf i) none) ∧
    (sel → ((n.st ≠ .pending ∨ n.defp = true) → Traps i s c Cause.tileRedefine w none) ∧ (n.st = .pending → n.defp = false → ends name n))
/-- The check of a name that is to be read: a woken reader's name has passed it (R177). -/
def NamedToRead (i : Instr) (s s' : State) (c : Ctx) (w : Word) (ends : Nat → Name → Prop) : Prop :=
  (c.p.prog = 1 → ends (handleName w.toNat) (s'.name c.clu (handleName w.toNat))) ∧ (c.p.prog ≠ 1 → Named i s s' c w ends)
/-- A read of a name (R177), the state being `t`: a DEFINED value, or one the team's own region holds, is read at once; a PENDING name
parks the path; a DYING or failed one traps with the handle, and a value that its tier cannot give traps with the error (R97). Where the
read goes on in an engine (`keep`), it counts in READS when it ends here, a woken one as before. -/
def ReadsTile (i : Instr) (s t : State) (c : Ctx) (w : Word) (name : Nat) (n : Name) (keep : Bool)
    (ends : State → Shape → List Byte → Prop) : Prop :=
  let t0 : State := if keep then t.modClu c.clu fun x => { x with names := x.names.modify name fun n => { n with reads := n.reads + 1 } } else t
  let stored (t1 : State) : Prop :=
    (∀ img, t.tileData c.clu name n = .ok img → ends t1 n.shape img) ∧
    ∀ cause addr, t.tileData c.clu name n = .bad cause addr →
      TrapsWith i s c ⟨cause, if cause = Cause.sramParityTile then w else 0, addr, none, c.f.addr⟩
  let mine (h : Shape) (img : List Byte) : Prop := n.defn = some (.held h img) ∧ c.inRegion = true ∧ n.definer = c.tid
  (c.p.prog = 1 → stored (if keep then t else t.endRead c.clu name)) ∧
  (c.p.prog ≠ 1 →
    (n.st = .defined → stored t0) ∧ (n.st = .dying → Traps i s c Cause.tileStale w none) ∧
    (n.st = .pending → n.fcause ≠ 0 → Traps i s c n.fcause w none) ∧
    (n.st = .pending → n.fcause = 0 → (∀ h img, mine h img → ends t0 h img) ∧
      ((∀ h img, ¬ mine h img) → Parks i s c (t.pmc c.core 0x11 1 c.t.ctx) (.tile name))))
/-- A descriptor's footprint is aligned, canonical and translates, the state then being `t` (R355). -/
def FootprintOk (c : Ctx) (s : State) (va : Nat) (d : Desc) (write : Bool) (t : State) : Prop :=
  va % d.align = 0 ∧ (∀ r ∈ d.runs, va + r.1 + r.2 ≤ 2 ^ 56) ∧ va ≤ 2 ^ 56 ∧ s.enginePages c.clu c.t.ctx write (pagesOf va d.runs) = (none, t)

/-- The checks of a footprint at issue, the ALIGN trap first. -/
def Footprinted (i : Instr) (s s' : State) (c : Ctx) (va : Nat) (d : Desc) (write : Bool) (ends : State → Prop) : Prop :=
  (va % d.align ≠ 0 → TrapsWith i s c ⟨Cause.align, 0, va, none, c.f.addr⟩) ∧ ∀ t, FootprintOk c s' va d write t → ends t

/-- An event of the machine or of its surroundings leads from a state to another (R7, R197). -/
def Leads (e : Instr) (s t : State) : Prop := exec e s = .next t

/-- Bytes of a local store as a core reads them. -/
def localByte (s : State) (core a : Nat) : Byte := (s.core core).lbyte a

end Sys2Proof.Safety
end

