-- ==== Sys2Proof/Certificates/Slice0/Obligations.lean ====
section
/-!
DEFINITION. Sys2Proof/Certificates/Slice0/Obligations.lean: the statements about the machine that are to be proved. The terms they
are written in stand in Sys2Proof/Safety.lean; `admission i s = .ok c s'` says that instruction i of the path in focus passes the
shared checks of R247 in state s, c being its context and s' the state after its queue pops.
-/
open Sys2Proof Sys2Proof.Machine Sys2Proof.Safety

/-! ## Reset, steps and the encoding -/

/-- Right after reset nothing runs and nothing is in flight, the clocks and counters are 0, and DROOPCFG of every core is 6.
Derived: fields the spec gives no reset value are the model's choice (logs 12, 13, 25, 26). It holds right after reset. -/
def Obligations.ResetIsIdleAndCanonical : Prop :=
  (State.reset.cycle = 0 ∧ State.reset.ns = 0 ∧ State.reset.teams = [] ∧ State.reset.ctxs = [] ∧ State.reset.pending = [] ∧
  State.reset.focus = none ∧ State.reset.mgmt.alarm = false ∧ State.reset.mgmt.power = 0 ∧
  (∀ k, State.reset.csrValue ⟨k, 0, 0⟩ 0x800 = 6) ∧ (∀ d, (State.reset.die d).clock = Clock.zero) ∧
  (∀ l, State.reset.linkState l = Link.up) ∧ (∀ q, (State.reset.mgmt.cmd q).st = 0) ∧ (∀ c, (State.reset.clu c).running = none)) ∧
  (Inv State.reset)

/-- A step runs the instruction its bytes decode to: a slot of a fetched bundle whose word decodes to i, and that nothing holds,
is offered as i; and the front end whose turn it is, once its last instruction's passes are over, picks it and runs `exec i` with
that slot in focus, after what it adds: the bundle is counted as entered, and paths that yielded have given way; a trace SYNC that is due
goes out before a branch, or after another instruction that has issued; and after the step conditional nodes whose PRED has reached 0 are
read. -/
def Obligations.StepRunsTheDecodedInstruction : Prop :=
  (∀ (s : State) (tid pid : Nat) (t : Team) (p : Path) (b : BitVec 128) (addr k : Nat) (i : Instr),
    (p.entered = true ∨ bundleBad b = false) → bundleWord b k ≠ 0 → s.chargingTrial t = none →
    (p.entered = true ∨ t.flags s.cycle &&& (bundleWord b 0).extractLsb' 0 12 = 0) → (p.lastPass = 0 ∨ p.lastPass + distOf (bundleWord b 0) k ≤ s.cycle) →
    p.heldFrom = none → (t.info i).touches t.mode &&& t.pendingWrites s.cycle = 0 →
    (setfOf (bundleWord b 0) k < 12 → t.flagCount s.cycle (setfOf (bundleWord b 0) k) < 15) → decode (bundleWord b k) = some i →
    s.lookSlot tid pid t p b addr k =
      (some (.issue i ⟨tid, pid, addr, setfOf (bundleWord b 0) k, (bundleWord b 0).getLsbD 30, lastSlot b k⟩), s)) ∧
  (∀ (s s0 s1 : State) (core : Nat) (x : Bool) (cs : List Cand) (c : Cand) (i : Instr) (f : Focus) (t : Team) (p : Path),
    TurnOf s core x s0 → s0.mgmt.alarm = false → (s0.untilFree core x).candidates core x = (cs, s1) →
    s1.pick cs = some c → c.turn = .issue i f →
    let s2 := cs.foldl (fun (s : State) (d : Cand) => s.modPath d.tid d.pid fun p => { p with yielded := false }) s1
    s2.team? c.tid = some t → t.paths.get? c.pid = some p → t.deliverTo c.pid = none → s2.breakHits t p f.addr = [] →
    let s3 := s2.enterBundle c.tid c.pid t p f.addr
    let s4 : State := { (if branchClass i then s3.syncIfDue c.tid c.pid else s3) with focus := some f }
    step s = match exec i s4 with
      | .next u => .next (s4.syncIssued u i).dispatchConditionals
      | .fault e => .fault e
      | .refused r => .refused r)

/-- Words written out from the encodings of chapters 11 to 13 decode to the instructions they stand for. -/
def Obligations.WordsDecode : Prop :=
  decode 0x01000080 = some (.mode 0x80) ∧ decode 0x02B10002 = some (.bra 1 2) ∧ decode 0x0500000A = some (.call 10) ∧
  decode 0x0C84FFFD = some (.loop 4 0xFFFD) ∧ decode 0x2007FFFF = some (.ldi 7 0xFFFF) ∧ decode 0x24010203 = some (.add 1 2 3) ∧
  decode 0x3B040410 = some (.addi 4 4 16) ∧ decode 0x230203B4 = some (.sel 2 3 4) ∧ decode 0x42B10180 = some (.clt 1 1 0x80) ∧
  decode 0x4DB50001 = some (.pset 5 1) ∧ decode 0x17000012 = some (.brk 0x12) ∧ decode 0x16000000 = some .rft ∧
  decode 0x09000000 = some .exit ∧ decode 0x10008200 = some (.waitf 0x82)

/-- DECODE AND ENCODE AGREE: decoding the word of an instruction gives that instruction, whatever its operands. -/
def Obligations.DecodeOfEncode : Prop := ∀ (i : Instr) (w : Word), encode i = some w → decode w = some i

/-- The other direction: a word that decodes to an instruction other than an unassigned opcode is that instruction's word, so
every bit of it is accounted for. -/
def Obligations.EncodeOfDecode : Prop := ∀ (w : Word) (i : Instr), decode w = some i → i ≠ .ill → encode i = some w

/-! ## The shared checks and the invariant -/

/-- What an instruction that has passed has been checked for: its context is that of the path in focus in the state before, it may
issue there, its codes and registers are legal, its sources hold no uncorrectable error, and no region bans it; without a queue port
nothing has changed. One that has begun and waited inside (its path holds what it has done so far, log 1) was checked when it
began, and changes nothing by being checked. An instruction that may issue where it stands, on the right front end, with legal operands
that name no queue port and no register past the team's counts or with an error, and allowed in its team's guarded region if it is in
one, passes the shared checks, and they change nothing. The order of R247: privilege (the view of a CSR that is written among it, with the
CSR's number as its detail), then the front end, then operand codes and fields
(a destination port of a kind that the instruction does not accept among them), then register counts, then the rules of guarded
regions; each gives its own cause, with the word, the register or the nesting depth as its detail; an error in a source comes after
them. -/
def Obligations.ChecksComeInOrder : Prop :=
  ((∀ (i : Instr) (s s' : State) (c : Ctx), admission i s = .ok c s' →
    let c0 := plainCtx i s c.f c.t c.p
    Issuer s c.f c.t c.p ∧ c.s = s ∧ c.n = c.t.info i ∧ ((c.t.rests.get? c.f.path).isSome = true ∨ c.p.begun = true → s' = s ∧ c = c0) ∧
    (c.t.rests.get? c.f.path = none → c.p.begun = false → MayIssue c.n c.t c.p ∧ RightFront c.n c.t ∧ c.n.codes (decide (c.p.win ≠ .closed)) = none ∧
      c0.portIllegal = false ∧ c.n.budget c.t.vcount c.t.scount = none ∧ (c.t.guard = [] ∨ (c.n.ban = false ∧ c.n.ports = [])) ∧
      c0.badReg = none ∧ (c.n.ports = [] → s' = s ∧ c = c0))) ∧
  (∀ (i : Instr) (s : State) (f : Focus) (t : Team) (p : Path), Issuer s f t p → t.rests.get? f.path = none → p.begun = false →
    MayIssue (t.info i) t p → RightFront (t.info i) t → CleanOperands (t.info i) t p → (plainCtx i s f t p).badReg = none →
    admission i s = .ok (plainCtx i s f t p) s)) ∧
  (∀ (i : Instr) (s : State) (f : Focus) (t : Team) (p : Path), Issuer s f t p → t.rests.get? f.path = none → p.begun = false →
    let n := t.info i
    let c0 := plainCtx i s f t p
    (¬ Privileged n t p → admission i s = .trap Cause.priv (wordOf i)) ∧
    (Privileged n t p → ¬ InView n t p → ∃ k, n.csr = some k ∧ admission i s = .trap Cause.priv (BitVec.ofNat 32 k)) ∧
    (MayIssue n t p → ¬ RightFront n t → admission i s = .trap Cause.wrongFront (wordOf i)) ∧
    (MayIssue n t p → RightFront n t →
      (∀ cause, n.codes (decide (p.win ≠ .closed)) = some cause → admission i s = .trap cause (wordOf i)) ∧
      (n.codes (decide (p.win ≠ .closed)) = none →
        (c0.portIllegal = true → admission i s = .trap Cause.illegalOperand (wordOf i)) ∧
        (c0.portIllegal = false →
          (∀ top, n.budget t.vcount t.scount = some top → admission i s = .trap Cause.regBudget (BitVec.ofNat 32 top)) ∧
          (n.budget t.vcount t.scount = none →
            (t.guard ≠ [] → (n.ban = true ∨ n.ports ≠ []) → admission i s = .trap Cause.guardNest (BitVec.ofNat 32 t.guard.length)) ∧
            ((t.guard = [] ∨ (n.ban = false ∧ n.ports = [])) → ∀ code, c0.badReg = some code →
              admission i s = .ecc Cause.eccUncorrectedReg code 0))))))

/-- Every word obeys the shared checks: a cause they give is taken as a precise trap and nothing else of the instruction happens; so
is an uncorrectable error in a source, and a push to a CLOSED queue, unless the value to be pushed breaks a kind rule, which comes
first; and a queue that holds the instruction back parks its path. (The empty slot, NOP, meets no check, R262.) -/
def Obligations.EveryWordObeysTheChecks : Prop :=
  ∀ (i : Instr) (s : State) (f : Focus), (encode i).isSome = true → i ≠ .nop → s.focus = some f →
    let trapped (cause : Byte) (h1 : Word) (addr : Nat) : Prop :=
      exec i s = .next { s.takeTrap f.team f.path f.addr ⟨cause, h1, addr, none, f.addr⟩ with focus := none }
    let kindTraps : Prop := ∃ r : TrapReq, r.cause = Cause.queueKind ∧
      exec i s = .next { s.takeTrap f.team f.path f.addr r with focus := none }
    (∀ cause h1, admission i s = .trap cause h1 → trapped cause h1 0) ∧
    (∀ cause h1 addr, admission i s = .ecc cause h1 addr → trapped cause h1 addr) ∧
    (∀ port, admission i s = .closed port none → trapped Cause.queueClosedPush (BitVec.ofNat 32 port) 0) ∧
    (∀ port probe, admission i s = .closed port probe → trapped Cause.queueClosedPush (BitVec.ofNat 32 port) 0 ∨ kindTraps) ∧
    (∀ w probe, admission i s = .park w probe → (kindTraps ∧ probe ≠ none) ∨
      ∃ s1 : State, exec i s = .next { s1.modPath f.team f.path fun p => p.park w s.cycle with focus := none } ∧ s1 = { s with cores := s1.cores })

/-- No instruction and no event is refused, and the one fault is that of a word that no path issues: whatever passes the shared
checks, and every event, leads to a next state. -/
def Obligations.OnlyUnissuedWordsStop : Prop :=
  ∀ (i : Instr) (s : State), (∃ t, exec i s = .next t) ∨
    (exec i s = .fault .noIssuer ∧ (encode i).isSome = true ∧ ∀ f t p, ¬ Issuer s f t p)

/-- AN INVARIANT THAT EVERY STEP KEEPS: memory stays in its canonical form, addresses rising and no byte listed that reads as an
unlisted one does. -/
def Obligations.StepKeepsMemoryCanonical : Prop := ∀ s t : State, Inv s → step s = .next t → Inv t

/-- Memory reads back what is written and nothing else changes, and the canonical form is kept, so equal contents are equal data. -/
def Obligations.MemoryReadsBack : Prop :=
  ∀ (m : Memory) (a : Nat) (b : Byte), (m.write a b).read a = b ∧ (∀ a', a' ≠ a → (m.write a b).read a' = m.read a') ∧
    (m.wf = true → (m.write a b).wf = true) ∧
    (∀ m' : Memory, m.wf = true → m'.wf = true → (∀ a, m.read a = m'.read a) → m = m')

/-! ## Taking traps and returning from them -/

/-- Taking a trap in a context with a handler, outside a handler: the h bank holds cause, detail, the resume address, the faulting
address and the mode, HCAUSE and HFLT are copied, the mode register becomes 0, and the path enters the handler with its window open
and its own mask; no other register changes, and no memory. A trap in a context with no handler, or inside a handler, ends the team:
it leaves its slots and paths, and its exit record has TERMINATED set with the trap's cause, or HANDLER_NEST with the inner cause.
(A firmware agent has no handler: log 15.) -/
def Obligations.TrapsEnterTheHandler : Prop :=
  (∀ (s : State) (tid pid pc : Nat) (r : TrapReq) (t : Team) (p : Path),
    s.team? tid = some t → t.paths.get? pid = some p → t.fw = false → p.win ≠ .trap → s.handler t ≠ 0 → r.resume < 2 ^ 56 → r.addr < 2 ^ 56 →
    ∃ (u : Team) (q : Path) (lanes : LaneMask),
      (s.takeTrap tid pid pc r).team? tid = some u ∧ u.paths.get? pid = some q ∧ (∀ m, r.lanes = some m → lanes = m) ∧
      u.hreg 0 = r.cause.setWidth 32 ∧ u.hreg 1 = r.h1 ∧
      (u.hreg 2).toNat + (u.hreg 3).toNat * 2 ^ 32 = r.resume ∧ (u.hreg 4).toNat + (u.hreg 5).toNat * 2 ^ 32 = r.addr ∧
      (u.hreg 6).extractLsb' 0 16 = t.mode ∧ (lanes ≠ 0 → (u.hreg 6).toNat / 2 ^ 16 = lowWord lanes) ∧
      u.hreg 7 = wordOfMask lanes (lowWord lanes) ∧ u.hcause = r.cause.setWidth 32 ∧ u.hflt = lanes ∧ u.mode = 0 ∧
      q.pc = s.handler t ∧ q.win = .trap ∧ q.mask = p.mask ∧ q.st = .ready ∧
      u.v = t.v ∧ u.s = t.s ∧ u.p = t.p ∧ u.status = t.status ∧ u.rng = t.rng ∧ (s.takeTrap tid pid pc r).mem = s.mem) ∧
  (∀ (s : State) (tid pid pc : Nat) (r : TrapReq) (t : Team) (p : Path),
    s.team? tid = some t → t.paths.get? pid = some p → t.fw = false →
    let s1 := s.pmc t.core 0x15 1 t.ctx
    (p.win = .trap → s.takeTrap tid pid pc r = s1.endTeam tid (some (Cause.handlerNest, pc, r.cause))) ∧
    (p.win ≠ .trap → s.handler t = 0 → s.takeTrap tid pid pc r = s1.endTeam tid (some (r.cause, pc, 0))))

/-- RFT: outside a handler window it traps with PRIV; inside one it checks the address in h3:h2 and the mode in h6, and then the
mode is restored, the window closes and the path goes on at that address. -/
def Obligations.ReturnFromTrapResumes : Prop :=
  ∀ (s s' : State) (c : Ctx), admission .rft s = .ok c s' →
    let a := (c.t.hreg 2).toNat + (c.t.hreg 3).toNat % 2 ^ 24 * 2 ^ 32
    let m := (c.t.hreg 6).extractLsb' 0 16
    (c.p.win ≠ .trap → Traps .rft s c Cause.priv (wordOf .rft) none) ∧
    (c.p.win = .trap → (a % 4 ≠ 0 ∨ a % 16 = 0) → TrapsWith .rft s c ⟨Cause.align, 0, a, none, c.f.addr⟩) ∧
    (c.p.win = .trap → a % 4 = 0 → a % 16 ≠ 0 → modeValid m = false → Traps .rft s c Cause.modeInvalid (wordOf .rft) none) ∧
    (c.p.win = .trap → a % 4 = 0 → a % 16 ≠ 0 → modeValid m = true →
      ∃ (t : State) (u : Team) (q : Path), exec .rft s = .next t ∧ t.team? c.tid = some u ∧ u.paths.get? c.pid = some q ∧
        u.mode = m ∧ q.pc = a ∧ q.win = .closed ∧ q.mask = c.p.mask ∧ q.st = .ready ∧
        u.v = c.t.v ∧ u.s = c.t.s ∧ u.p = c.t.p ∧ u.h = c.t.h ∧ t.mem = s.mem)

/-- TRAP and BRK: with a lane active, a precise trap that names the active lanes and resumes at the next slot, with s0's low byte or
the immediate as its detail; with none, nothing. An unassigned opcode traps with ILLEGAL_OPCODE, and the empty slot takes no cycle
and moves its path to the next slot. -/
def Obligations.SoftwareTrapsAndEmptySlots : Prop :=
  (∀ (s s' : State) (c : Ctx) (n : BitVec 4) (k : BitVec 16),
    (admission (.trap n) s = .ok c s' →
      (c.active ≠ 0 → TrapsWith (.trap n) s c
        ⟨BitVec.ofNat 8 (0xF0 + n.toNat), if c.t.scount = 0 then 0 else BitVec.ofNat 32 ((c.t.sreg 0).toNat % 256), 0, some c.active,
          nextSlotAddr c.f.addr⟩) ∧
      (c.active = 0 → Completes (.trap n) s c s')) ∧
    (admission (.brk k) s = .ok c s' →
      (c.active ≠ 0 → TrapsWith (.brk k) s c ⟨0x01, BitVec.ofNat 32 k.toNat, 0, some c.active, nextSlotAddr c.f.addr⟩) ∧
      (c.active = 0 → Completes (.brk k) s c s'))) ∧
  ((∀ (s s' : State) (c : Ctx), admission .ill s = .ok c s' → Traps .ill s c Cause.illegalOpcode (wordOf .ill) none) ∧
  (∀ (s : State) (f : Focus) (t : Team) (p : Path), Issuer s f t p →
    exec .nop s = .next { s.modPath f.team f.path fun p => { p with pc := f.addr + 4, entered := p.entered && f.addr % 16 ≠ 12 } with focus := none }))

/-! ## Registers and predicates: what a result changes -/

/-- Writing a result changes the destination's registers in the lanes that act, or once for an s or h destination, and nothing else
of the team; a write to zr changes nothing. p0 reads as true in every lane and is never written; another predicate changes in the
active lanes alone. The lanes that act are the path's lanes that the guard passes, in increasing order. -/
def Obligations.ResultsGoToTheirPlaces : Prop :=
  ((∀ (u : Team) (lanes : List Nat) (d : Code) (wide : Bool) (f : Nat → DWord), (∀ l ∈ lanes, l < 1024) →
    RegsWritten u (u.putReg lanes d wide f) lanes d wide f ∧ (d = 0xFF → u.putReg lanes d wide f = u)) ∧
  (∀ (u : Team) (active : LaneMask) (r : Nat) (m : LaneMask),
    (u.putPred active 0 m = u ∧ ∀ l < 1024, (u.preg 0).getLsbD l = true) ∧
    (r ≠ 0 → (∀ l < 1024, ((u.putPred active r m).preg r).getLsbD l = if active.getLsbD l then m.getLsbD l else (u.preg r).getLsbD l) ∧
      (∀ r', r' ≠ r → (u.putPred active r m).preg r' = u.preg r') ∧
      u.putPred active r m = { u with p := (u.putPred active r m).p }))) ∧
  (∀ (c : Ctx), (∀ l, l ∈ c.lanes ↔ (c.p.mask.getLsbD l = true ∧
      ((c.t.preg (c.t.mode.extractLsb' 0 4).toNat).getLsbD l = !c.t.mode.getLsbD 4))) ∧
    c.lanes.Pairwise (· < ·) ∧ ∀ l ∈ c.lanes, l < 1024)

/-- Completing an instruction adds to its own effect only the passes of its front end, performance counts, an event in flight and its
team's record of what is outstanding; its path stands at the next slot, ready. Every byte of memory and of the local stores, every other team, and every
register of its own stay as its effect left them. -/
def Obligations.CompletionChangesNothingElse : Prop :=
  ∀ (c : Ctx) (s : State) (k : Option Cond) (jumped : Bool),
    RetireOnly c.tid s (c.retire s k jumped) ∧
    (∀ u p, s.team? c.tid = some u → u.paths.get? c.pid = some p →
      ∃ u' p', (c.retire s k jumped).team? c.tid = some u' ∧ u'.paths.get? c.pid = some p' ∧ p'.st = .ready ∧ p'.mask = p.mask ∧
        (jumped = false → p'.pc = c.f.addr + 4) ∧ (jumped = true → p'.pc = p.pc))

/-- The instructions that only compute: they trap, or their own effect stays within their team's registers, predicates, mode, status
and streams, or it is that and a push to a queue, which changes nothing but the queue and the local store that holds its entries: every
byte of memory and of the caches, every other team, and the program counter of their path are as before. With no queue port nothing
happens before it; pops from queues that are no feed queues change no memory, no local store and no other team. -/
def Obligations.ComputingTouchesOnlyItsTeam : Prop :=
  (∀ (i : Instr) (s s' : State) (c : Ctx), computes i = true → admission i s = .ok c s' →
    ((∃ t, Completes i s c t ∧ TeamOnly c.tid s' t) ∨
      (c.n.ports ≠ [] ∧ ∃ port f t, TeamOnly c.tid s' t ∧ exec i s = .next (c.conclude (c.push t port f))) ∨
      ∃ cause h1 lanes, Traps i s c cause h1 lanes) ∧
    (c.n.ports = [] → s' = s) ∧
    ((∀ q ∈ c.queues, q.2.feed = false) → s'.mem = s.mem ∧ s'.cores = s.cores ∧ ∀ k, k ≠ c.tid → s'.team? k = s.team? k)) ∧
  (∀ (c : Ctx) (s t : State) (port : Nat) (f : Nat → DWord), c.push s port f = .done t →
    t = { s with clus := t.clus, cores := t.cores } ∧ ∀ k, t.core k = { s.core k with lstore := (t.core k).lstore })

/-! ## Integer results -/

/-- LDI, LDIH, MOV, ADD, SUB, ADDI, NEG, ABS, MUL, MULH and MAD: the exact value of each element, narrowed as SAT says. SEL copies X
where its predicate is set; elsewhere D keeps its value, and an entry to a queue has a free value (logs 6, 16). -/
def Obligations.IntegerArithmeticAndSelect : Prop :=
  (∀ (d x y : Code) (k : BitVec 16) (i : BitVec 8),
    WritesReg (.ldi d k) d narrow (fun _ _ => (k.signExtend 32).setWidth 64) ∧
    WritesReg (.ldih d k) d narrow (fun c l => (k ++ (c.a false d l).extractLsb' 0 16 : Word).setWidth 64) ∧
    WritesReg (.mov d x) d byType (fun c l => X c x l) ∧
    WritesReg (.add d x y) d byType (fun c l => each c (fun a b _ => narrowed c (num c a + num c b)) (X c x l) (Y c y l) 0) ∧
    WritesReg (.sub d x y) d byType (fun c l => each c (fun a b _ => narrowed c (num c a - num c b)) (X c x l) (Y c y l) 0) ∧
    WritesReg (.addi d x i) d byType (fun c l => each c (fun a _ _ => narrowed c (num c a + i.toInt)) (X c x l) 0 0) ∧
    WritesReg (.neg d x) d byType (fun c l => each c (fun a _ _ => narrowed c (-(num c a))) (X c x l) 0 0) ∧
    WritesReg (.abs d x) d byType (fun c l => each c (fun a _ _ => narrowed c ((num c a).natAbs : Int)) (X c x l) 0 0) ∧
    WritesReg (.mul d x y) d byType (fun c l => each c (fun a b _ => narrowed c (num c a * num c b)) (X c x l) (Y c y l) 0) ∧
    WritesReg (.mulh d x y) d byType
      (fun c l => each c (fun a b _ => lowBits (2 * c.ity.w) (num c a * num c b) / 2 ^ c.ity.w) (X c x l) (Y c y l) 0) ∧
    WritesReg (.mad d x y) d byType
      (fun c l => each c (fun a b z => narrowed c (num c a * num c b + num c z)) (X c x l) (Y c y l) (D c d l))) ∧
  (∀ (d x : Code) (p : BitVec 4) (s s' : State) (c : Ctx), admission (.sel d x p) s = .ok c s' →
    (Code.isQ d = false → Completes (.sel d x p) s c
      (c.modTeam s' fun t => t.putReg (c.lanes.filter fun l => (c.t.preg p.toNat).getLsbD l) d c.wide (X c x))) ∧
    (Code.isQ d = true → ∃ (n : Nat) (g : Nat → DWord), exec (.sel d x p) s = .next (c.conclude (c.put { s' with free := n } d c.wide g)) ∧
      ∀ l, (c.t.preg p.toNat).getLsbD l = true → g l = X c x l))

/-- DIV and REM: DIVZERO for the lanes with a zero divisor where TRAPEN [0] asks for it; else the truncated quotient, narrowed as SAT
says, and the remainder, all ones for a zero divisor. -/
def Obligations.Division : Prop :=
  ∀ (d x y : Code) (s s' : State) (c : Ctx) (isRem : Bool),
    let i : Instr := if isRem then .rem d x y else .div d x y
    let zero (l : Nat) : Prop := ∃ e < c.ity.elems, elemOf c.ity (Y c y l) e = 0
    let value (a b : Nat) : Nat := if b = 0 then 2 ^ c.ity.w - 1
      else if isRem then lowBits c.ity.w ((num c a).tmod (num c b)) else narrowed c ((num c a).tdiv (num c b))
    admission i s = .ok c s' →
    (c.t.trapen.getLsbD 0 = true → (∃ l ∈ c.lanes, zero l) →
      ∃ m : LaneMask, Traps i s c Cause.divZero 0 (some m) ∧ ∀ l < 1024, m.getLsbD l = true ↔ (l ∈ c.lanes ∧ zero l)) ∧
    (c.t.trapen.getLsbD 0 = false ∨ (∀ l ∈ c.lanes, ¬ zero l) →
      ∃ val : Nat → DWord, exec i s = .next (c.conclude (c.put s' d c.wide val)) ∧
        (Code.isQ d = false → Completes i s c (c.modTeam s' fun t => t.putReg c.lanes d c.wide val)) ∧
        ∀ l, val l = each c (fun a b _ => value a b) (X c x l) (Y c y l) 0)

/-- MIN and MAX write the smaller or the larger of X and Y, compared per element as the type's integers; SAT plays no part. AND, OR,
XOR, NOT act on all W bits, whatever the signedness, the elements and SAT; ANDI clears every bit of an element above bit 7. -/
def Obligations.MinimumMaximumAndLogic : Prop :=
  (∀ (d x y : Code),
    WritesReg (.min d x y) d byType (fun c l => each c (fun a b _ => if num c a ≤ num c b then a else b) (X c x l) (Y c y l) 0) ∧
    WritesReg (.max d x y) d byType (fun c l => each c (fun a b _ => if num c b ≤ num c a then a else b) (X c x l) (Y c y l) 0)) ∧
  (∀ (d x y : Code) (i : BitVec 8),
    WritesReg (.and d x y) d byType (fun c l => X c x l &&& Y c y l) ∧
    WritesReg (.or d x y) d byType (fun c l => X c x l ||| Y c y l) ∧
    WritesReg (.xor d x y) d byType (fun c l => X c x l ^^^ Y c y l) ∧
    WritesReg (.not d x) d byType (fun c l => ~~~(X c x l)) ∧
    WritesReg (.andi d x i) d byType (fun c l => each c (fun a _ _ => (a % 2 ^ 8) &&& i.toNat) (X c x l) 0 0))

/-- Shifts, by Y modulo W or by an immediate below W: SHL and ROT by bits, SHR by the integer the element stands for. -/
def Obligations.Shifts : Prop :=
  ∀ (d x y : Code) (i : BitVec 8),
    let shl (w a n : Nat) : Nat := (BitVec.ofNat w a <<< n).toNat
    let shr (w : Nat) (signed : Bool) (a n : Nat) : Nat :=
      if signed then ((BitVec.ofNat w a).sshiftRight n).toNat else (BitVec.ofNat w a >>> n).toNat
    let rot (w a n : Nat) : Nat := ((BitVec.ofNat w a).rotateLeft n).toNat
    WritesReg (.shl d x y) d byType (fun c l => each c (fun a n _ => shl c.ity.w a (n % c.ity.w)) (X c x l) (Y c y l) 0) ∧
    WritesReg (.shr d x y) d byType (fun c l => each c (fun a n _ => shr c.ity.w c.ity.signed a (n % c.ity.w)) (X c x l) (Y c y l) 0) ∧
    WritesReg (.rot d x y) d byType (fun c l => each c (fun a n _ => rot c.ity.w a (n % c.ity.w)) (X c x l) (Y c y l) 0) ∧
    WritesReg (.shli d x i) d byType (fun c l => each c (fun a _ _ => shl c.ity.w a i.toNat) (X c x l) 0 0) ∧
    WritesReg (.shri d x i) d byType (fun c l => each c (fun a _ _ => shr c.ity.w c.ity.signed a i.toNat) (X c x l) 0 0)

/-- BFX, BFI, CLZ, POPC, BREV and LEA, bit by bit. Under i16x2 each element takes its own lsb and len (log 17). What those bit
operations are: the field that lsb and len name, cut at W and extended by the type's sign; the same field replaced; leading zeros,
one bits and reversal of a W-bit value. -/
def Obligations.BitFieldsAndAddresses : Prop :=
  (∀ (d x y : Code),
    WritesReg (.bfx d x y) d byType (fun c l => each c (fun a b _ => bfxElem c.ity a b) (X c x l) (Y c y l) 0) ∧
    WritesReg (.bfi d x y) d byType (fun c l => each c (fun a b z => bfiElem c.ity a b z) (X c x l) (Y c y l) (D c d l)) ∧
    WritesReg (.clz d x) d byType (fun c l => each c (fun a _ _ => clzElem c.ity.w a) (X c x l) 0 0) ∧
    WritesReg (.popc d x) d byType (fun c l => each c (fun a _ _ => popElem c.ity.w a) (X c x l) 0 0) ∧
    WritesReg (.brev d x) d byType (fun c l => each c (fun a _ _ => brevElem c.ity.w a) (X c x l) 0 0) ∧
    WritesReg (.lea d x y) d (fun _ => true) (fun c l =>
      c.b true x l + ((c.c false y l).setWidth 32 : Word).signExtend 64 * BitVec.ofNat 64 (leaSize c.T))) ∧
  (∀ (ty : IntTy) (x y z : Nat), (ty.w = 16 ∨ ty.w = 32 ∨ ty.w = 64) → x < 2 ^ ty.w → z < 2 ^ ty.w →
    let lsb := y % 64
    let len := if lsb ≥ ty.w then 0 else min (y / 256 % 64) (ty.w - lsb)
    (∀ k < ty.w, (bfxElem ty x y).testBit k =
      (decide (len ≠ 0) && (if k < len then x.testBit (lsb + k) else (ty.signed && x.testBit (lsb + len - 1))))) ∧
    (∀ k < ty.w, (bfiElem ty x y z).testBit k = if lsb ≤ k ∧ k < lsb + len then x.testBit (k - lsb) else z.testBit k) ∧
    (∀ k < ty.w, (brevElem ty.w x).testBit k = x.testBit (ty.w - 1 - k)) ∧
    (∀ k < clzElem ty.w x, x.testBit (ty.w - 1 - k) = false) ∧
    (x ≠ 0 → clzElem ty.w x < ty.w ∧ x.testBit (ty.w - 1 - clzElem ty.w x) = true) ∧ (x = 0 → clzElem ty.w x = ty.w) ∧
    popElem ty.w x = ((List.range ty.w).filter fun k => x.testBit k).length)

/-- Narrowing: without SAT the low W bits, and under SAT the nearest value of the type's range. A result formed element by element
holds in each element's place that element's value, and elements do not disturb each other. -/
def Obligations.ElementsAreNarrowedInPlace : Prop :=
  (∀ (w : Nat) (signed : Bool) (x : Int), 0 < w →
    ((satInt w signed false x : Int) = x % 2 ^ w) ∧ (satInt w signed true x < 2 ^ w) ∧
    intOf w signed (satInt w signed true x) = max (intMin w signed) (min (intMax w signed) x) ∧
    (intMin w signed ≤ x → x ≤ intMax w signed → intOf w signed (satInt w signed false x) = x)) ∧
  (∀ (t : Nat) (f : Nat → Nat → Nat → Nat) (x y z : DWord) (e : Nat), e < (intTy t).elems →
    elemOf (intTy t) (mapElems (intTy t) f x y z) e =
      f (elemOf (intTy t) x e) (elemOf (intTy t) y e) (elemOf (intTy t) z e) % 2 ^ (intTy t).w)

/-! ## Predicates -/

/-- The comparisons: 1 where the relation holds between X and Y as the type's integers, in every element; and the predicate
instructions, lane by lane. PAND, POR, PXOR, PNOT, PFROM and PSET, lane by lane. -/
def Obligations.ComparisonsAndPredicates : Prop :=
  (∀ (p : BitVec 4) (x y : Code),
    let all (c : Ctx) (l : Nat) (r : Int → Int → Bool) : Bool := (List.range c.ity.elems).all fun e =>
      r (num c (elemOf c.ity (X c x l) e)) (num c (elemOf c.ity (Y c y l) e))
    WritesPred (.ceq p x y) p (fun c l => all c l fun a b => decide (a = b)) ∧
    WritesPred (.cne p x y) p (fun c l => all c l fun a b => decide (a ≠ b)) ∧
    WritesPred (.clt p x y) p (fun c l => all c l fun a b => decide (a < b)) ∧
    WritesPred (.cle p x y) p (fun c l => all c l fun a b => decide (a ≤ b)) ∧
    WritesPred (.cgt p x y) p (fun c l => all c l fun a b => decide (a > b)) ∧
    WritesPred (.cge p x y) p (fun c l => all c l fun a b => decide (a ≥ b))) ∧
  (∀ (d x y : BitVec 4) (v : Code) (b : BitVec 1),
    WritesPred (.pand d x y) d (fun c l => (c.t.preg x.toNat).getLsbD l && (c.t.preg y.toNat).getLsbD l) ∧
    WritesPred (.por d x y) d (fun c l => (c.t.preg x.toNat).getLsbD l || (c.t.preg y.toNat).getLsbD l) ∧
    WritesPred (.pxor d x y) d (fun c l => (c.t.preg x.toNat).getLsbD l ^^ (c.t.preg y.toNat).getLsbD l) ∧
    WritesPred (.pnot d x) d (fun c l => !(c.t.preg x.toNat).getLsbD l) ∧
    WritesPred (.pfrom d v) d (fun c l => (c.b false v l).getLsbD (l % 32)) ∧
    WritesPred (.pset d b) d (fun _ _ => decide (b = 1)))

/-! ## Floating point -/

/-- The arithmetic of R303 to R306 and R310, R311: each element's exact result, formed from the values read under FTZ and rounded
once, goes to D with its flags, and the streams move on where STOCH draws. FMIN, FMAX, FABS, FNEG and FCPS choose or change codes
without rounding; the special functions of R307 are exact where R307 gives the result and the device's own value elsewhere (the model's
choice, log 8). Which of them take a draw under STOCH, and how FEXP2's overflow is rounded, is the model's choice too (log 28). -/
def Obligations.FloatResults : Prop :=
  (∀ (d x y : Code),
    let w (c : Ctx) : Nat := c.fmt.width
    WritesFloat (.fadd d x y) d byFloat w (ofTwo (fun m e a b => faddPre m e false a b) x y) ∧
    WritesFloat (.fsub d x y) d byFloat w (ofTwo (fun m e a b => faddPre m e true a b) x y) ∧
    WritesFloat (.fmul d x y) d byFloat w (ofTwo fmulPre x y) ∧
    WritesFloat (.fma d x y) d byFloat w (ofThree false false d x y) ∧
    WritesFloat (.fms d x y) d byFloat w (ofThree false true d x y) ∧
    WritesFloat (.fnma d x y) d byFloat w (ofThree true false d x y) ∧
    WritesFloat (.fdiv d x y) d byFloat w (ofTwo fdivPre x y) ∧
    WritesFloat (.fsqrt d x) d byFloat w (ofOne (fun m e a => fsqrtPre m e false a) x) ∧
    WritesFloat (.frcp d x) d byFloat w (ofOne frcpPre x) ∧
    WritesFloat (.frsq d x) d byFloat w (ofOne (fun m e a => fsqrtPre m e true a) x) ∧
    WritesFloat (.frnd d x) d byFloat w (ofRound x) ∧
    WritesFloat (.fscale d x y) d byFloat w (ofScale x y)) ∧
  (∀ (d x y : Code),
    let w (c : Ctx) : Nat := c.fmt.width
    let top (c : Ctx) : Nat := 2 ^ (c.fmt.width - 1)
    WritesFloat (.fmin d x y) d byFloat w (ofPick false x y) ∧
    WritesFloat (.fmax d x y) d byFloat w (ofPick true x y) ∧
    WritesFloat (.fabs d x) d byFloat w (fun c l => (c.fb x l).map fun b => Elem.code (b % top c) 0) ∧
    WritesFloat (.fneg d x) d byFloat w (fun c l => (c.fb x l).map fun b =>
      Elem.code (b % top c + (if b / top c % 2 = 1 then 0 else top c)) 0) ∧
    WritesFloat (.fcps d x y) d byFloat w (fun c l => (List.zip (c.fb x l) (c.fc y l)).map fun p =>
      Elem.code (p.1 % top c + (if p.2 / top c % 2 = 1 then top c else 0)) 0) ∧
    WritesFloat (.fexp2 d x) d byFloat w (ofSpecial 0 x) ∧ WritesFloat (.flog2 d x) d byFloat w (ofSpecial 1 x) ∧
    WritesFloat (.fsin d x) d byFloat w (ofSpecial 2 x) ∧ WritesFloat (.fcos d x) d byFloat w (ofSpecial 3 x) ∧
    WritesFloat (.ftanh d x) d byFloat w (ofSpecial 4 x))

/-- FCEQ, FCLT, FCLE and FCUN write whether the relation holds in every element, with the flags it raises, unless TRAPEN asks for a
trap on one of them; and FCLASS a one-hot class of each source element as it stands. -/
def Obligations.FloatComparisons : Prop :=
  ∀ (p : BitVec 4) (d x y : Code),
    let rel (r : FRel) (i : Instr) : Prop := ∀ (s s' : State) (c : Ctx), admission i s = .ok c s' →
      let es (l : Nat) : List (Bool × FFlags) := (List.zip (c.fb x l) (c.fc y l)).map fun q =>
        r.eval (readF c.fmt c.env q.1) (readF c.fmt c.env q.2)
      let fl (l : Nat) : FFlags := (es l).foldl (fun (acc : FFlags) e => acc ||| e.2) 0
      let rs : List LaneOut := c.lanes.map fun l => (l, [if (es l).all (·.1) then 1 else 0], fl l, c.stream l)
      ((∀ l ∈ c.lanes, fl l &&& c.fpTraps = 0) → ∃ m : LaneMask,
        Completes i s c (c.modTeam (c.modTeam s' (raised c s' rs)) fun t => t.putPred c.active p.toNat m) ∧
        ∀ l ∈ c.lanes, m.getLsbD l = (es l).all (·.1)) ∧
      ((∃ l ∈ c.lanes, fl l &&& c.fpTraps ≠ 0) → TrapsOnFlags i s c rs)
    rel .eq (.fceq p x y) ∧ rel .lt (.fclt p x y) ∧ rel .le (.fcle p x y) ∧ rel .un (.fcun p x y) ∧
    WritesReg (.fclass d x) d narrow (fun c l => joinElems 16 ((c.fb x l).map fun b => 2 ^ fclass c.fmt b))

/-- CVT, CVTS, PACK and UNPK: the source's value, exactly, brought to the destination's type under the mode's rounding; CVTS
saturates; PACK replaces one element of D, and UNPK takes one element of X without rounding. -/
def Obligations.Conversions : Prop :=
  ∀ (d x : Code) (src : BitVec 4) (k : BitVec 8),
    WritesFloat (.cvt d x src) d (fun c => pairT c.T) (fun _ => 64) (ofConvert (fun c => c.env) x src.toNat) ∧
    WritesFloat (.cvts d x src) d (fun c => pairT c.T) (fun _ => 64) (ofConvert (fun c => { c.env with sat := true }) x src.toNat) ∧
    WritesFloat (.pack d x k) d narrow (fun _ => 32) (ofPack d x k.toNat) ∧
    WritesFloat (.unpk d x k) d narrow (fun _ => 32) (ofUnpack x k.toNat)

/-- FP_TRAP: where TRAPEN enables a flag that some computed lane raises, the instruction traps and writes nothing, with the flags of
all lanes as its detail, naming the lanes at fault unless the result is uniform. Stated for every instruction that rounds a result or may
raise a flag for one; the traps of the comparisons stand in `FloatComparisons`, those of QNT and DQNT in `BlockFormatsAndRandomBits`, those
of REDU and SCAN in `ReductionsAndScansAreExact`. -/
def Obligations.EnabledFlagsTrap : Prop :=
  ∀ (d x y : Code) (src : BitVec 4) (k : BitVec 8),
    TrapsFloat (.fadd d x y) d (ofTwo (fun m e a b => faddPre m e false a b) x y) ∧
    TrapsFloat (.fsub d x y) d (ofTwo (fun m e a b => faddPre m e true a b) x y) ∧
    TrapsFloat (.fmul d x y) d (ofTwo fmulPre x y) ∧ TrapsFloat (.fma d x y) d (ofThree false false d x y) ∧
    TrapsFloat (.fms d x y) d (ofThree false true d x y) ∧ TrapsFloat (.fnma d x y) d (ofThree true false d x y) ∧
    TrapsFloat (.fdiv d x y) d (ofTwo fdivPre x y) ∧ TrapsFloat (.fsqrt d x) d (ofOne (fun m e a => fsqrtPre m e false a) x) ∧
    TrapsFloat (.frcp d x) d (ofOne frcpPre x) ∧ TrapsFloat (.frsq d x) d (ofOne (fun m e a => fsqrtPre m e true a) x) ∧
    TrapsFloat (.frnd d x) d (ofRound x) ∧ TrapsFloat (.fscale d x y) d (ofScale x y) ∧
    TrapsFloat (.fmin d x y) d (ofPick false x y) ∧ TrapsFloat (.fmax d x y) d (ofPick true x y) ∧
    TrapsFloat (.fexp2 d x) d (ofSpecial 0 x) ∧ TrapsFloat (.flog2 d x) d (ofSpecial 1 x) ∧ TrapsFloat (.fsin d x) d (ofSpecial 2 x) ∧
    TrapsFloat (.fcos d x) d (ofSpecial 3 x) ∧ TrapsFloat (.ftanh d x) d (ofSpecial 4 x) ∧
    TrapsFloat (.cvt d x src) d (ofConvert (fun c => c.env) x src.toNat) ∧
    TrapsFloat (.cvts d x src) d (ofConvert (fun c => { c.env with sat := true }) x src.toNat) ∧
    TrapsFloat (.pack d x k) d (ofPack d x k.toNat) ∧ TrapsFloat (.unpk d x k) d (ofUnpack x k.toNat)

/-- QNT, DQNT and RAND complete in every mode (R314, R315, R316). QNT writes each active lane its word of the block codes of its word
and its four bytes of their trailer, DQNT each active lane the codes of its eight elements, with the flags they raise and the draws
they take; where TRAPEN enables a flag that is raised, they trap and write nothing. RAND writes two draws of each active lane's stream,
the first in the upper half, and moves the streams past them. -/
def Obligations.BlockFormatsAndRandomBits : Prop :=
  (∀ (d x : BitVec 7) (f : BitVec 1),
    let sf4 : Bool := decide (f = 1)
    WritesVectors (.qnt d x f) d 2 (fun c => c.lanes.map fun l => qntOut c x sf4 l) (fun c j l =>
      if j = 0 then BitVec.ofNat 32 (unitWord (qntCodes c x sf4 l) (l % 32))
      else BitVec.ofNat 32 (leNat (((unitTrailer sf4 (qntCodes c x sf4 l)).drop (4 * (l % 32))).take 4))) ∧
    WritesVectors (.dqnt d x f) d 8 (fun c => c.laneOuts false (dqntElems x sf4 c)) (fun c j l =>
      BitVec.ofNat 32 ((codesOf c (dqntElems x sf4) l).getD j 0))) ∧
  (∀ (d : Code) (s s' : State) (c : Ctx), admission (.rand d) s = .ok c s' →
    let val (l : Nat) : DWord := (randOut (randStep (c.stream l)) ++ randOut (randStep (randStep (c.stream l)))).setWidth 64
    ∃ rng : Tab DWord → Tab DWord,
      let t : State := c.modTeam s' fun t => { t with rng := rng t.rng }
      (∀ g l, (rng g).getD l 0 = if l ∈ c.lanes then randStep (randStep (c.stream l)) else g.getD l 0) ∧
      exec (.rand d) s = .next (c.conclude (c.put t d false val)) ∧
      (Code.isQ d = false → Completes (.rand d) s c (c.modTeam t fun u => u.putReg c.lanes d false val)))

/-! ## Cross-lane -/

/-- The shuffles and BCAST: lane L receives X of the lane that each names, read before anything is written; a source lane at or
above the lane count reads 0. Votes, counts, matches and ballots, over the path's active lanes or those of the lane's own word; a BALLOT that names a word
traps with ILLEGAL_OPERAND where its result goes to each lane. -/
def Obligations.ShufflesVotesAndBallots : Prop :=
  (∀ (d x y : Code) (n : BitVec 5),
    let from_ (c : Ctx) (k : Nat) : DWord := if k < c.t.lanes then X c x k else 0
    WritesReg (.shfl d x y) d byType (fun c l => from_ c (32 * (l / 32) + (c.c false y l).toNat % 32)) ∧
    WritesReg (.shfx d x y) d byType (fun c l => from_ c (c.c false y l).toNat) ∧
    WritesReg (.shup d x n) d byType (fun c l => from_ c (if l % 32 ≥ n.toNat then l - n.toNat else l)) ∧
    WritesReg (.shdn d x n) d byType (fun c l => from_ c (if l % 32 + n.toNat ≤ 31 then l + n.toNat else l)) ∧
    WritesReg (.bcast d x y) d byType (fun c _ => from_ c (c.uc y).toNat)) ∧
  (∀ (d x : BitVec 4) (w r : BitVec 1) (v z : Code) (k : BitVec 5),
    let among (c : Ctx) (own : Bool) (l : Nat) : List Nat := if own then c.lanes.filter fun j => j / 32 = l / 32 else c.lanes
    let set (c : Ctx) (j : Nat) : Bool := (c.t.preg x.toNat).getLsbD j
    WritesPred (.vota d x w) d (fun c l => (among c (decide (w = 1)) l).all (set c)) ∧
    WritesPred (.voty d x w) d (fun c l => (among c (decide (w = 1)) l).any (set c)) ∧
    WritesReg (.acnt v x w r) v narrow (fun c l =>
      let inS := (among c (decide (w = 1)) l).filter (set c)
      BitVec.ofNat 64 (if r = 1 then (inS.filter fun j => j < l).length else inS.length)) ∧
    WritesReg (.matchLanes v z) v narrow (fun c l =>
      (wordOfMask (maskOf ((among c true l).filter fun j => X c z j = X c z l)) (l / 32)).setWidth 64) ∧
    (∀ (s s' : State) (c : Ctx), admission (.ballot v x k) s = .ok c s' →
      let word (w : Nat) : DWord := (wordOfMask (c.active &&& c.t.preg x.toNat) w).setWidth 64
      (c.uniformResult v = true → exec (.ballot v x k) s = .next (c.conclude (c.put s' v false fun _ => word k.toNat))) ∧
      (c.uniformResult v = false → exec (.ballot v x k) s = .next (c.conclude (c.put s' v false fun l => word (l / 32)))) ∧
      (Code.isQ v = false → ∃ t, Completes (.ballot v x k) s c t)) ∧
    (∀ (s : State) (f : Focus) (t : Team) (p : Path), Issuer s f t p → t.rests.get? f.path = none → p.begun = false → k ≠ 0 →
      (v.toNat < 0x80 ∨ v = 0xFF ∨ (Code.isQ v = true ∧ ∃ n q, (plainCtx (.ballot v x k) s f t p).queue (Code.port v) = some (n, q) ∧ q.kind = kindL32)) →
      admission (.ballot v x k) s = .trap Cause.illegalOperand (wordOf (.ballot v x k))))

/-- REDU and SCAN on integers: the exact combination of the contributing lanes, in lane order, narrowed once as SAT says for ADD,
MIN and MAX. What an integer combination is: for ADD, MIN and MAX the exact sum, least or greatest of the lanes' values, narrowed; for
AND, OR and XOR the bits. On floating-point types the lanes are combined one after the other in increasing order, each combination
rounded: REDU gives every lane the last value of its sequence (the operation's identity where there is none), SCAN its own one, or the one
before it; the flags of every step are raised, and where TRAPEN enables one of them the instruction traps. -/
def Obligations.ReductionsAndScansAreExact : Prop :=
  (∀ (d x : Code) (e w : BitVec 1) (o : BitVec 4) (s s' : State) (c : Ctx),
    let among (l : Nat) : List Nat := if w = 1 then c.lanes.filter fun j => j / 32 = l / 32 else c.lanes
    (o.toNat < 6 → admission (.redu d x w o) s = .ok c s' →
      exec (.redu d x w o) s = .next (c.conclude (c.put s' d c.wide fun l => c.intCombine x o.toNat (among l))) ∧
      (Code.isQ d = false → ∃ t, Completes (.redu d x w o) s c t)) ∧
    (o.toNat < 6 → admission (.scan d x e w o) s = .ok c s' →
      exec (.scan d x e w o) s = .next (c.conclude (c.put s' d c.wide fun l =>
        c.intCombine x o.toNat ((among l).filter fun j => if e = 1 then decide (j < l) else decide (j ≤ l)))) ∧
      (Code.isQ d = false → ∃ t, Completes (.scan d x e w o) s c t)) ∧
    (6 ≤ o.toNat →
      let steps := c.fpSequences x o.toNat (decide (w = 1))
      let rs : List LaneOut := steps.map fun q => (q.lane, q.after, q.flags, q.stream)
      let own (l : Nat) : List FpStep := if w = 1 then steps.filter fun q => decide (q.lane / 32 = l / 32) else steps
      let code (v : Option (List Nat)) : DWord :=
        joinElems c.fmt.width (v.getD ((List.range c.elems).map fun _ => fpIdentity c.fmt o.toNat))
      let ends (i : Instr) (val : Nat → Option (List Nat)) : Prop := admission i s = .ok c s' →
        ((∀ r ∈ rs, r.2.2.1 &&& c.fpTraps = 0) →
          exec i s = .next (c.conclude (c.put (c.modTeam s' (raised c s' rs)) d c.wideF fun l => code (val l))) ∧
          (Code.isQ d = false → ∃ t, Completes i s c t)) ∧
        ((∃ r ∈ rs, r.2.2.1 &&& c.fpTraps ≠ 0) → TrapsOnFlags i s c rs)
      ends (.redu d x w o) (fun l => (own l).getLast?.map (·.after)) ∧
      ends (.scan d x e w o) (fun l => ((own l).find? fun q => decide (q.lane = l)).map fun q => if e = 1 then q.before else q.after))) ∧
  (∀ (c : Ctx) (x : Code) (op : Nat) (ls : List Nat), let steps := c.fpSequence x op none ls
    steps.map (·.lane) = ls ∧
    (∀ q, steps[0]? = some q → q.before = (c.fb x q.lane).map (fun _ => fpIdentity c.fmt op) ∧
      q.after = (c.fb x q.lane).map (fun v => (fpFirst c.fmt c.env op v).1) ∧ q.stream = c.stream q.lane ∧
      q.flags = (c.fb x q.lane).foldl (fun (acc : FFlags) v => acc ||| (fpFirst c.fmt c.env op v).2) 0) ∧
    ∀ k q r, steps[k]? = some q → steps[k + 1]? = some r → r.before = q.after ∧
      let acc := if k = 0 then (List.zip (c.fb x q.lane) q.after).map (fun p => fpCarry c.fmt p.1 p.2) else q.after
      (r.after, r.flags, r.stream) = runElems c.env.rm (c.stream r.lane)
        ((List.zip acc (c.fb x r.lane)).map fun p => fpCombine c.fmt c.env op p.1 p.2)) ∧
  (∀ (ty : IntTy) (sat : Bool) (xs : List Nat), 0 < ty.w →
    redElem ty 0 sat xs = satInt ty.w ty.signed sat (xs.foldl (fun (a : Int) x => a + intOf ty.w ty.signed x) 0) ∧
    (∀ x ∈ xs, intOf ty.w ty.signed (redElem ty 1 sat xs) ≤ intOf ty.w ty.signed x) ∧
    (xs ≠ [] → ∃ x ∈ xs, intOf ty.w ty.signed (redElem ty 1 sat xs) = intOf ty.w ty.signed x) ∧
    (∀ x ∈ xs, intOf ty.w ty.signed x ≤ intOf ty.w ty.signed (redElem ty 2 sat xs)) ∧
    (xs ≠ [] → ∃ x ∈ xs, intOf ty.w ty.signed (redElem ty 2 sat xs) = intOf ty.w ty.signed x) ∧
    (∀ k < ty.w, (redElem ty 3 sat xs).testBit k = xs.all fun x => x.testBit k) ∧
    (∀ k < ty.w, (redElem ty 4 sat xs).testBit k = xs.any fun x => x.testBit k))

/-! ## Memory: loads and stores -/

/-- LD, LDU and LDQ complete once every access reaches memory and its bytes are there: each lane's value, extended as SZ and the type
say, goes to the destination (LDU's one value to every lane); LDQ once its die's clock has passed the stamps it was given. -/
def Obligations.LoadsComplete : Prop :=
  ∀ (d x : Code) (z : BitVec 2) (o : BitVec 6) (s s' t t1 t2 : State) (c : Ctx) (ok : List LaneAcc) (vals : Tab Nat) (st : Clock),
    let n := szBytes c.T z.toNat
    let wide := szWide c.T z.toNat
    let as := c.addrs x (o.toInt * n)
    let ext (v : Nat) : DWord := loadExtend c.T z.toNat v
    (admission (.ld d x z o) s = .ok c s' → Accesses c s' as n true false true true ok t → Loads c t ok n t1 vals st →
      GivesLanes (.ld d x z o) s c t1 d wide fun l => ext (vals.getD l 0)) ∧
    (admission (.ldu d x z o) s = .ok c s' → Accesses c s' (as.take 1) n true false true true ok t → Loads c t ok n t1 vals st →
      GivesLanes (.ldu d x z o) s c t1 d wide fun _ => ext (vals.headD (0, 0)).2) ∧
    (admission (.ldq d x z o) s = .ok c s' → Accesses c s' as n true false true true ok t → Loads c t ok n t1 vals st →
      (if c.active = 0 then t2 = t1 else Acquires c t1 st t2) →
      GivesLanes (.ldq d x z o) s c t2 d wide fun l => ext (vals.getD l 0))

/-- ST and STU send the low bytes of each lane's data to the lane's address, in lane order, and complete when those writes are
accepted; in a guarded region they stay in the team's buffer, which aborts with GUARD_CAPACITY if it overflows. STR is first a release,
over the scopes of its own pages too. A store that the posted-store table holds goes on with the lanes that are left. -/
def Obligations.StoresComplete : Prop :=
  ∀ (d x : Code) (z : BitVec 2) (o : BitVec 6) (s s' t : State) (c : Ctx) (ok : List LaneAcc),
    let n := szBytes c.T z.toNat
    let as := c.addrs x (o.toInt * n)
    let data : List LaneStore := ok.map fun a => ⟨a.lane, a.va, a.pa, a.scope, natLe n (c.a (szWide c.T z.toNat) d a.lane).toNat⟩
    let wider (p : Nat) : Nat := widerScope p (ok.map fun a => (a.pa, a.scope))
    let guards (i : Instr) : Prop := c.inRegion = true → ∀ u, t.team? c.tid = some u →
      (∀ u', u.guardWrites data = some u' → Completes i s c (t.setTeam c.tid u')) ∧
      (u.guardWrites data = none → ∃ obj, exec i s = .next { s.abortTeam c.tid Cause.guardCapacity obj true none with focus := none })
    let goesOn (i : Instr) : Prop := admission i s = .ok c s' → ∀ r, c.rest? = some r → SendsStores i s c s' r.stores r.ids
    let plain (i : Instr) (as : List (Nat × Nat)) : Prop := (admission i s = .ok c s' → c.rest? = none →
      Accesses c s' as n false true false true ok t → guards i ∧
      (c.inRegion = false → SendsStores i s c (c.modTeam t fun u => { u with pscope := wider u.pscope }) data [])) ∧ goesOn i
    plain (.st d x z o) as ∧ plain (.stu d x z o) (as.take 1) ∧
    (admission (.str d x z o) s = .ok c s' → c.rest? = none → Accesses c s' as n false true false true ok t → guards (.str d x z o) ∧
      (c.inRegion = false → c.active ≠ 0 → ∀ t0, Releases c t (wider c.t.pscope) t0 → SendsStores (.str d x z o) s c t0 data []) ∧
      (c.inRegion = false → c.active = 0 → Completes (.str d x z o) s c t)) ∧
    goesOn (.str d x z o)

/-- The stores of an instruction go in order, all of them or as many as the posted-store table has room for. A store to a page of DIE
scope or wider leaves one write-through request with exactly its bytes and the clock of its issue, and touches no byte of memory at home
and no team (where no store of its core waits on the line, and the L1 has a way for it). WRITE_THROUGH_STORE writes its bytes at home
and no other: where no narrow copy, watch, held request or link is in the way, every byte of memory outside them reads as before, and
theirs as written. -/
def Obligations.StoresTravelToTheirHomes : Prop :=
  (∀ (c : Ctx) (ws left : List LaneStore) (s t : State) (ids : List Nat), c.storeLanes ws s [] = (ids, left, t) →
    ∃ sent, ws = sent ++ left ∧ ids.length = sent.length ∧ (left ≠ [] → 256 ≤ (t.core c.core).posted.length)) ∧
  (∀ (s t : State) (core ctx scope id : Nat) (bs : List (Nat × Byte)) (posted : Option Nat) (stamp : Clock),
    let line := lineOf ((bs.map (·.1)).headD 0)
    s.coreStore core ctx scope bs posted stamp = (id, t) → Scope.die ≤ scope → (∀ w ∈ (s.core core).waiting, w.line ≠ line) →
    (s.takeLine core line scope ctx).isSome = true →
    id = s.seq ∧ t.mem = s.mem ∧ t.teams = s.teams ∧ ∃ r, Instr.writeThroughStore r ∈ t.pending ∧ r.id = id ∧ r.agent = .core core ∧
      r.scope = scope ∧ r.line = line ∧ r.bytes = bs ∧ r.stamp = stamp ∧ r.posted = posted) ∧
  (∀ (s : State) (r : StoreReq), goodStore r = true → isHbm (128 * r.line) = true → s.heldOn r.line = none →
    s.watchHits (r.bytes.map (·.1)) = [] → (s.dirOf r.line).st ≠ DirSt.n → (r.bytes.map (·.1)).Nodup →
    ∃ t, exec (.writeThroughStore r) s = .next t ∧ (∀ p ∈ r.bytes, t.homeByte p.1 = p.2) ∧
      (∀ pa, (∀ p ∈ r.bytes, p.1 ≠ pa) → t.mem.read pa = s.mem.read pa))

/-- Local-store accesses: a misaligned offset traps with ALIGN for the whole instruction; else the lanes in the group's range are
performed and the others take the lane fault of R65. LDL writes the destination in the lanes in range; STL writes exactly their bytes
and leaves every other byte of every local store, and all of memory, as it was. -/
def Obligations.LocalStoreAccesses : Prop :=
  ∀ (d x : Code) (z : BitVec 2) (o : BitVec 6) (s s' : State) (c : Ctx),
    let n := szBytes c.T z.toNat
    let off (l : Nat) : Int := ((c.b false x l).toNat : Int) + o.toInt * n
    let inside (l : Nat) : Bool := decide (0 ≤ off l) && decide (off l + n ≤ (c.localRange.2 : Int))
    let at_ (l : Nat) : Nat := c.localRange.1 + (off l).toNat
    let good := c.lanes.filter inside
    let bad := maskOf (c.lanes.filter fun l => !inside l)
    ((∃ l ∈ c.lanes, off l % (n : Int) ≠ 0) →
      (admission (.ldl d x z o) s = .ok c s' → ∃ a m, TrapsWith (.ldl d x z o) s c ⟨Cause.align, 0, a, some m, c.f.addr⟩) ∧
      (admission (.stl d x z o) s = .ok c s' → ∃ a m, TrapsWith (.stl d x z o) s c ⟨Cause.align, 0, a, some m, c.f.addr⟩)) ∧
    ((∀ l ∈ c.lanes, off l % (n : Int) = 0) →
      (admission (.ldl d x z o) s = .ok c s' → (∀ l ∈ good, (s'.core c.core).badLocal (at_ l) n = none) → ∃ (m : Nat) (val : Nat → DWord),
        (∀ l ∈ good, val l = loadExtend c.T z.toNat (leNat ((List.range n).map fun i => localByte s' c.core (at_ l + i)))) ∧
        (Code.isQ d = false → Finishes (.ldl d x z o) s c (c.modTeam s' fun t => t.putReg good d (szWide c.T z.toNat) val) bad) ∧
        (Code.isQ d = true → ∀ t, c.put { s' with free := m } d (szWide c.T z.toNat) val = .done t → Finishes (.ldl d x z o) s c t bad)) ∧
      (admission (.stl d x z o) s = .ok c s' → ∃ t : State,
        Finishes (.stl d x z o) s c t bad ∧ t = { s' with cores := t.cores } ∧
        (∀ core a, (∀ l ∈ good, core = c.core → a < at_ l ∨ at_ l + n ≤ a) → localByte t core a = localByte s' core a) ∧
        ∀ l ∈ good, (∀ l' ∈ good, l' ≠ l → at_ l' + n ≤ at_ l ∨ at_ l + n ≤ at_ l') →
          ∀ i < n, localByte t c.core (at_ l + i) = (natLe n (c.a (szWide c.T z.toNat) d l).toNat).getD i 0))

/-- LDP reads its group's parameter window: with no window there it traps with PARAM_UNBOUND; a byte at or past the window's end
reads as zero and sets PARAM_OVERRUN. LDA checks its team's landing share and its tag, and then lands n words of each lane in the
tag; COMMIT waits for the tag to land, and writes its words to the lanes that are active and that the LDA served, freeing the tag, but
traps with ECC_UNCORRECTED_REG where one of those words has an error (D's code as its detail, log 45). -/
def Obligations.ParameterWindowsAndLandings : Prop :=
  (∀ (d x : Code) (z w : BitVec 2) (s s' : State) (c : Ctx), admission (.ldp d x z w) s = .ok c s' →
    let win := if c.t.fw then none else (s.group? c.clu c.t.group).bind fun g => g.windows.get? w.toNat
    let n := szBytes c.T z.toNat
    let off (l : Nat) : Nat := (c.b false x l).toNat
    (win = none → Traps (.ldp d x z w) s c Cause.paramUnbound (w.setWidth 32) none) ∧
    ∀ base size, win = some (base, size) →
      let fits (l : Nat) : Nat := 8 * min n (size - off l)
      ((∃ l ∈ c.lanes, off l % n ≠ 0) → ∃ a m, TrapsWith (.ldp d x z w) s c ⟨Cause.align, 0, a, some m, c.f.addr⟩) ∧
      ((∀ l ∈ c.lanes, off l % n = 0) → ∀ ok t,
        Accesses c s' ((c.lanes.filter fun l => decide (off l < size)).map fun l => (l, base + off l)) 1 true false true false ok t →
        (∀ a ∈ ok, ∀ i < n, ((t.core c.core).ccache.get? ((a.pa + i) / 4)).isSome = true ∨
          (t.badWords (lineOf (a.pa + i))).getLsbD (((a.pa + i) % 128) / 4) = false) →
        let t1 := ok.foldl (fun s a => s.constFill c.core c.t.ctx a.pa n) t
        let st := ok.foldl (fun (m : Clock) a => m.max ((t1.core c.core).constStamp a.pa n)) Clock.zero
        let t2 := c.modTeam t1 fun u => { u with loaded := u.loaded.max st }
        ∃ val, GivesLanes (.ldp d x z w) s c (if (∃ l ∈ c.lanes, off l + n > size) then c.modTeam t2 fun u => u.raise statusOverrun else t2)
            d (szWide c.T z.toNat) val ∧
          (∀ a ∈ ok, val a.lane = loadExtend c.T z.toNat (leNat (readRun (t1.core c.core).constByte a.pa n) % 2 ^ fits a.lane)) ∧
          ∀ l ∈ c.lanes, size ≤ off l → val l = loadExtend c.T z.toNat 0)) ∧
  ((∀ (g n : BitVec 3) (x : Code) (s s' : State) (c : Ctx), admission (.lda g x n) s = .ok c s' →
    let k := n.toNat + 1
    ((c.t.fw = true ∨ (c.t.tags.get? g.toNat).isSome = true ∨ c.t.landed + 4 * k * c.lanes.length > 4096) →
      Traps (.lda g x n) s c Cause.landOverflow (g.setWidth 32) none) ∧
    (c.t.fw = false → c.t.tags.get? g.toNat = none → c.t.landed + 4 * k * c.lanes.length ≤ 4096 →
      (c.active = 0 → Completes (.lda g x n) s c s') ∧
      (c.active ≠ 0 → (∀ a ∈ c.addrs x 0, a.2 % 4 = 0 ∧ a.2 + 4 * k ≤ 2 ^ 56) →
        let words := (c.addrs x 0).flatMap fun a => (List.range k).map fun i => (8 * a.1 + i, a.2 + 4 * i)
        c.watchHit (words.map fun w => (w.1 / 8, w.2)) 4 true false = none → ∀ ok t t1 data st, c.translateLanes false words s' = (ok, [], t) →
        (∀ a ∈ ok, t.linkAt a.pa = none ∨ ∃ l, t.linkAt a.pa = some (l, .up)) → c.meetsFail t ok 4 false = none →
        (∀ a ∈ ok, c.badRead t a 4 = false) → c.ldaWords ok t [] Clock.zero = some (t1, data, st) → ∃ t2, CompletesWhen (.lda g x n) s c t2 (.tag g.toNat) ∧
          t2 = { t1 with teams := t2.teams, pending := t1.pending ++ [.ldaLanded c.tid g.toNat] } ∧
          ∀ u, t1.team? c.tid = some u → ∃ u', t2.team? c.tid = some u' ∧ u'.tags.get? g.toNat = some ⟨false, k, c.active, data, []⟩ ∧
            u' = { u with tags := u'.tags, loaded := u.loaded.max st }))) ∧
  (∀ (d : BitVec 7) (g : BitVec 3) (s s' : State) (c : Ctx), admission (.commit d g) s = .ok c s' →
    (c.t.tags.get? g.toNat = none → Completes (.commit d g) s c s') ∧
    ∀ tag, c.t.tags.get? g.toNat = some tag →
      let bad : Prop := ∃ w ∈ tag.flaws, (c.active &&& tag.lanes).getLsbD (w / 8) = true
      (tag.landed = false → Parks (.commit d g) s c s' (.tag g.toNat)) ∧
      (tag.landed = true → c.t.vcount ≤ d.toNat + tag.words - 1 →
        Traps (.commit d g) s c Cause.regBudget (BitVec.ofNat 32 (d.toNat + tag.words - 1)) none) ∧
      (tag.landed = true → d.toNat + tag.words - 1 < c.t.vcount → bad →
        Traps (.commit d g) s c Cause.eccUncorrectedReg (d.setWidth 32) none) ∧
      (tag.landed = true → d.toNat + tag.words - 1 < c.t.vcount → ¬ bad → ∃ u : Team → Team,
        Completes (.commit d g) s c (c.modTeam s' u) ∧ ∀ t, (u t).tags = t.tags.del g.toNat ∧ (u t).s = t.s ∧ (u t).p = t.p ∧
          ∀ r l, l < 1024 → (u t).vreg r l =
            if (c.active &&& tag.lanes).getLsbD l = true ∧ d.toNat ≤ r ∧ r < d.toNat + tag.words then tag.data.getD (8 * l + (r - d.toNat)) 0
            else t.vreg r l)))

/-- ATOM, RED, ATOMR and CAS, once their accesses reach memory and their release and acquire halves are satisfied. RED and an ATOM that
is no acquire send their requests to the bank, one for each line or for each lane, and complete when those are performed. ATOMR, CAS and
an acquiring ATOM ask the bank lane by lane; where a lane is held there the path waits; with all of them performed, ATOMR and CAS return
the old values of their locations. A lane whose bytes cannot be read traps with ECC_UNCORRECTED_MEM, at issue (log 45) or when its
request's turn comes. In a region the new values stay in the team's buffer. What a bank does to one location (R335, R337):
the exchange, the sum modulo 2^W, the bits, the least, the greatest and the wrapping increment; a compare and swap writes only where the
old value is the expected one. -/
def Obligations.AtomicsAndBanks : Prop :=
  (∀ (d x : Code) (r q : BitVec 1) (o : BitVec 4) (s s' t t1 t2 t3 : State) (c : Ctx) (ok : List LaneAcc),
    let n := bankBytes c.T
    let once := if c.once d x then (c.addrs x 0).take 1 else c.addrs x 0
    let scope := widerScope c.t.pscope (ok.map fun a => (a.pa, a.scope))
    let up : Code := d + (if c.wide then 2 else 1)
    let eachLane := ok.map fun a => [a]
    let eachLine := ((ok.map fun a => lineOf a.pa).eraseDups).map fun l => ok.filter fun a => lineOf a.pa = l
    let calm (rel : Bool) (t : State) : State := if rel then c.modTeam t fun u => { u with pscope := Scope.core } else t
    let released (rel : Bool) : Prop := if rel then Releases c t scope t1 else t1 = t
    let seen (t : State) (st : Clock) : State := c.modTeam t fun u => { u with loaded := u.loaded.max st }
    let spoilt (i : Instr) (t : State) (as : List LaneAcc) : Prop := c.active ≠ 0 → c.inRegion = false →
      (∃ a ∈ as, t.badAt a.pa n = true) → ∃ va m, TrapsWith i s c ⟨Cause.eccUncorrectedMem, 0, va, some m, c.f.addr⟩
    let sends (i : Instr) (as : List (Nat × Nat)) (rel : Bool) (op : Nat) (groups : List (List LaneAcc)) : Prop :=
      admission i s = .ok c s' → Accesses c s' as n true true true true ok t →
      (c.active = 0 → Completes i s c t) ∧
      (c.active ≠ 0 → c.inRegion = true → ∀ olds st,
        c.regionAtomic c.T op (fun l => (c.a c.wide d l).toNat) (fun _ => 0) ok t [] Clock.zero = .inl (t1, olds, st) →
        Completes i s c (seen t1 st)) ∧ spoilt i t ok ∧
      (c.active ≠ 0 → c.inRegion = false → (∀ a ∈ ok, t.badAt a.pa n = false) → released rel → ∀ ids,
        c.sendBank op c.T (groups.map fun g => g.map fun a => (a, c.a c.wide d a.lane)) (c.surrender t1 ok n) [] = (ids, t2) →
        ids.length = groups.length ∧ CompletesWhen i s c (calm rel (c.sent t2 ok ids)) (.stores ids))
    let returns (i : Instr) (rel acq : Bool) (op : Nat) (operand expect : Nat → Nat) (gives : State → Tab Nat → Prop) : Prop :=
      let ends (t : State) (k : Rest) : Prop :=
        gives ((c.dropRest t).modTeam c.tid fun u => { u with loaded := u.loaded.max k.stamp }) k.olds
      let fails (t : State) : Prop := ∃ va m,
        exec i s = .next { (c.dropRest t).takeTrap c.tid c.pid c.f.addr ⟨Cause.eccUncorrectedMem, 0, va, some m, c.f.addr⟩ with focus := none }
      admission i s = .ok c s' →
      (∀ k, c.rest? = some k → (0 < k.left → Parks i s c s' .atomic) ∧
        (k.left = 0 → k.bad ≠ 0 → fails s') ∧
        (k.left = 0 → k.bad = 0 → (if acq then Acquires c s' k.stamp t else t = s') → ends t k)) ∧
      (c.rest? = none → Accesses c s' once n true true true true ok t →
        (c.active = 0 → gives t []) ∧
        (c.active ≠ 0 → c.inRegion = true → ∀ olds st,
          c.regionAtomic c.T op operand expect ok t [] Clock.zero = .inl (t1, olds, st) →
          (if acq then Acquires c (seen t1 st) st t2 else t2 = seen t1 st) → gives t2 olds) ∧ spoilt i t ok ∧
        (c.active ≠ 0 → c.inRegion = false → (∀ a ∈ ok, t.badAt a.pa n = false) → released rel →
          let shown := ok.foldl (fun s a => s.publish (lineOf a.pa) false) (c.surrender t1 ok n)
          (if acq then Acquires c shown (shown.stampsOf ok) t2 else t2 = c.surrender t1 ok n) →
          ok.foldl (c.askBank op c.T operand expect) (c.setRest (calm rel (c.sent t2 ok [])) ⟨[], [], ok.length, [], Clock.zero, 0, c.lockable⟩) = t3 →
          ∀ u k, t3.team? c.tid = some u → u.rests.get? c.pid = some k →
            (0 < k.left → Parks i s c t3 .atomic) ∧ (k.left = 0 → k.bad ≠ 0 → fails t3) ∧ (k.left = 0 → k.bad = 0 → ends t3 k)))
    let old (olds : Tab Nat) (l : Nat) : DWord := BitVec.ofNat 64 (if c.once d x then (olds.headD (0, 0)).2 else olds.getD l 0)
    (q = 0 → sends (.atom d x r q o) once (decide (r = 1)) o.toNat eachLane) ∧
    sends (.red d x o) (c.addrs x 0) false o.toNat eachLine ∧
    (q = 1 → returns (.atom d x r q o) (decide (r = 1)) true o.toNat (fun l => (c.a c.wide d l).toNat) (fun _ => 0)
      fun t _ => Completes (.atom d x r q o) s c t) ∧
    returns (.atomr d x r q o) (decide (r = 1)) (decide (q = 1)) o.toNat (fun l => (c.a c.wide d l).toNat) (fun _ => 0)
      (fun t olds => GivesLanes (.atomr d x r q o) s c t d c.wide (old olds)) ∧
    returns (.cas d x r q) (decide (r = 1)) (decide (q = 1)) 11 (fun l => (c.a c.wide up l).toNat) (fun l => (c.a c.wide d l).toNat)
      fun t olds => Completes (.cas d x r q) s c (c.modTeam t fun u => u.putReg c.lanes d c.wide (old olds))) ∧
  (∀ (old y e : Nat), old < 2 ^ 32 → y < 2 ^ 32 → e < 2 ^ 32 →
    bankNew 0 1 old y e = y ∧ bankNew 1 1 old y e = (old + y) % 2 ^ 32 ∧ bankNew 2 1 old y e = old &&& y ∧
    bankNew 3 1 old y e = old ||| y ∧ bankNew 4 1 old y e = old ^^^ y ∧ bankNew 5 1 old y e = min old y ∧
    bankNew 6 1 old y e = max old y ∧ bankNew 10 1 old y e = (if old ≥ y then 0 else old + 1) ∧
    bankNew 11 1 old y e = (if old = e then y else old) ∧
    intOf 32 true (bankNew 5 0 old y e) = min (intOf 32 true old) (intOf 32 true y) ∧
    intOf 32 true (bankNew 6 0 old y e) = max (intOf 32 true old) (intOf 32 true y))

/-- PREF asks for lines and never traps; FENCE completes once its acquire and release halves hold, a full one once every earlier
write of the team has been applied on every die. ARMA, WAITA and POLLA on an arrival word in the group's range: misaligned it traps
with ALIGN, out of range every active lane takes the lane fault. ARMA writes TARGET, applies the advance rule and returns the
generation before it, and a target above 24 bits traps; WAITA ends once GEN differs, as an acquire of what the word's engine wrote, and
POLLA says whether it does. -/
def Obligations.FencesAndArrivalWords : Prop :=
  ((∀ (x o : BitVec 8) (s s' : State) (c : Ctx), admission (.pref x o) s = .ok c s' →
    Completes (.pref x o) s c ((c.addrs x (128 * o.toInt)).foldl c.prefetch s')) ∧
  (∀ (s s' t t1 : State) (c : Ctx),
    (admission (.fence 1) s = .ok c s' → FenceAcquires c s' t → Completes (.fence 1) s c t) ∧
    (admission (.fence 2) s = .ok c s' → Releases c (if c.inRegion then s' else s'.flushWrites c.tid) c.t.pscope t →
      Completes (.fence 2) s c t) ∧
    (admission (.fence 3) s = .ok c s' →
      let s1 := (List.range Config.dies).foldl State.applyDie (s'.flushWrites c.tid)
      (c.inRegion = true → FenceAcquires c s' t → Completes (.fence 3) s c t) ∧
      (c.inRegion = false → s1.unapplied c.die = false → s1.writesOpen c.tid = false → Releases c s1 c.t.pscope t →
        FenceAcquires c t t1 → Completes (.fence 3) s c t1)))) ∧
  (∀ (p : BitVec 4) (d x y : Code) (s s' : State) (c : Ctx),
    let off := (c.ub x).toNat
    let at_ := c.localRange.1 + off
    let g := (c.uc y).toNat
    let a := s'.arrival c.core at_
    let i1 : Instr := .arma d x y
    let i2 : Instr := .waita x y
    let i3 : Instr := .polla p x y
    let covered (t : State) : Prop := Acquires c s' ((s'.core c.core).astamps.getD at_ Clock.zero) t
    (admission i1 s = .ok c s' → (c.active ≠ 0 → off % 8 = 0) → g > 0xFFFFFF → Traps i1 s c Cause.illegalOperand (wordOf i1) none) ∧
    (c.active = 0 → (admission i1 s = .ok c s' → g ≤ 0xFFFFFF → Code.isQ d = false → Completes i1 s c s') ∧
      (∀ i, i = i2 ∨ i = i3 → admission i s = .ok c s' → Completes i s c s')) ∧
    (c.active ≠ 0 → (∀ i, i = i1 ∨ i = i2 ∨ i = i3 → admission i s = .ok c s' →
      (off % 8 ≠ 0 → TrapsWith i s c ⟨Cause.align, 0, off, some c.active, c.f.addr⟩) ∧
      (off % 8 = 0 → c.localRange.2 < off + 8 → (i = i1 → g ≤ 0xFFFFFF ∧ Code.isQ d = false) → Finishes i s c s' c.active))) ∧
    (c.active ≠ 0 → off % 8 = 0 → off + 8 ≤ c.localRange.2 →
      (admission i1 s = .ok c s' → g ≤ 0xFFFFFF →
        let t := s'.setArrival c.core at_ { a with target := g }.advance
        exec i1 s = .next (c.conclude (c.put t d false fun _ => BitVec.ofNat 64 a.gen)) ∧
        (Code.isQ d = false → Completes i1 s c (c.modTeam t fun u => u.putReg c.lanes d false fun _ => BitVec.ofNat 64 a.gen))) ∧
      (admission i2 s = .ok c s' → (a.gen ≠ g % 256 → ∀ t, covered t → Completes i2 s c t) ∧
        (a.gen = g % 256 → Parks i2 s c s (.arrival at_ (BitVec.ofNat 8 (g % 256))))) ∧
      (admission i3 s = .ok c s' → ∃ m, (∀ l ∈ c.lanes, m.getLsbD l = decide (a.gen ≠ g % 256)) ∧
        (a.gen ≠ g % 256 → ∀ t, covered t → Completes i3 s c (c.modTeam t fun u => u.putPred c.active p.toNat m)) ∧
        (a.gen = g % 256 → Completes i3 s c (c.modTeam s' fun u => u.putPred c.active p.toNat m)))))

/-- An access with a misaligned lane traps with ALIGN, naming every such lane and the lowest one's address; with every lane aligned and
one beyond bit 55, ADDR_NONCANON; ALIGN is tested first, both before translation, and no lane's access is performed. Stated for LD, ST,
LDU, STU, LDQ and STR, each with its own lanes. -/
def Obligations.MisalignedAccessesTrap : Prop :=
  ∀ (d x : Code) (z : BitVec 2) (o : BitVec 6) (s s' : State) (c : Ctx) (i : Instr),
    let n := szBytes c.T z.toNat
    let all := c.addrs x (o.toInt * n)
    let as := if i = .ldu d x z o ∨ i = .stu d x z o then all.take 1 else all
    i ∈ [Instr.ld d x z o, .st d x z o, .ldu d x z o, .stu d x z o, .ldq d x z o, .str d x z o] → admission i s = .ok c s' → c.rest? = none →
    ((∃ a ∈ as, a.2 % n ≠ 0) → ∃ va m, TrapsWith i s c ⟨Cause.align, 0, va, some m, c.f.addr⟩ ∧
      (as.find? fun a => decide (a.2 % n ≠ 0)).map (·.2) = some va ∧
      ∀ l < 1024, m.getLsbD l = true ↔ ∃ a ∈ as, a.1 = l ∧ a.2 % n ≠ 0) ∧
    ((∀ a ∈ as, a.2 % n = 0) → (∃ a ∈ as, a.2 ≥ 2 ^ 56) → ∃ va m, TrapsWith i s c ⟨Cause.addrNoncanon, 0, va, some m, c.f.addr⟩ ∧
      ∀ l < 1024, m.getLsbD l = true ↔ ∃ a ∈ as, a.1 = l ∧ a.2 ≥ 2 ^ 56)

/-! ## Queues -/

/-- A path with no active lane: an instruction of chapter 13 without a value destination changes nothing; nor does one with a value
destination (QCNT, TSTAT, AREG, CSRR) but for the entry that a queue still receives, unless its selector or handle register traps (what the
entry of AREG and CSRR holds is a free value, log 6). -/
def Obligations.NoActiveLaneChangesNothing : Prop :=
  (∀ (i : Instr) (s s' : State) (c : Ctx), actsOnce i = true → admission i s = .ok c s' → c.active = 0 → Completes i s c s') ∧
  (∀ (i : Instr) (d v sel : Code) (x : BitVec 5) (k : BitVec 2) (n : BitVec 12) (s s' : State) (c : Ctx),
    i ∈ [Instr.qcnt d v sel, .tstat d x, .areg d x k, .csrr d n] → admission i s = .ok c s' → c.active = 0 → c.p.prog = 0 →
    (Code.isQ d = false → Completes i s c s') ∧
    (Code.isQ d = true → (∃ cause h1, (i = .qcnt d v sel ∨ i = .tstat d x) ∧ Traps i s c cause h1 none) ∨
      ∃ (m : Nat) (g : Nat → DWord), exec i s = .next (c.conclude (c.put { s' with free := m } d false g))))

/-- Queue entries move in order: what is pushed on an empty queue is what the next pop delivers, a push raises COUNT and a pop
lowers it, both go round the ring, and a pop of an empty queue delivers zero and changes nothing. QTRY and QOFFR never park: with
the entries, or the room, that they need they move them and answer 1 (0 under #eos), QTRY writing D what the entries hold; without them
they move nothing and answer 0; QTRY on a CLOSED queue takes what is left, sets EOS and answers 0 (1 under #eos). Both trap with
QUEUE_UNBOUND on a port without a queue and with QUEUE_KIND where a kind rule of R147 is broken, and QOFFR with QUEUE_CLOSED_PUSH on a
CLOSED queue. They are held in issue while an instruction in progress keeps the queue to itself (log 6). -/
def Obligations.QueueEntriesMoveInOrder : Prop :=
  (∀ (s : State) (clu n : Nat) (q : Queue) (bs : List Byte), (s.clu clu).queues.get? n = some q → bs.length = entryBytes q.kind → 0 < q.depth →
    (q.count = 0 → s.popEntry clu n = (List.replicate (entryBytes q.kind) 0, s)) ∧
    (((s.pushEntry clu n bs).clu clu).queues.get? n = some { q with tail := (q.tail + 1) % q.depth, count := q.count + 1 }) ∧
    (q.count ≠ 0 → (((s.popEntry clu n).2.clu clu).queues.get? n = some { q with head := (q.head + 1) % q.depth, count := q.count - 1 }) ∧
      (s.popEntry clu n).1 = s.lread (queueCore clu q) (q.base + q.head * entryBytes q.kind) (entryBytes q.kind)) ∧
    (q.count = 0 → q.head = q.tail → ((s.pushEntry clu n bs).popEntry clu n).1 = bs) ∧
    (s.pushEntry clu n bs).mem = s.mem ∧ (s.pushEntry clu n bs).teams = s.teams ∧ (s.popEntry clu n).2.mem = s.mem) ∧
  (∀ (d x : Code) (p : BitVec 4) (e : BitVec 1) (q : BitVec 4) (s s' : State) (c : Ctx), c.queue q.toNat = none → ∀ i : Instr,
    i = .qtry d p e q ∨ i = .qoffr p x q → admission i s = .ok c s' → Traps i s c Cause.queueUnbound (q.setWidth 32) none) ∧
  (∀ (d x : Code) (p : BitVec 4) (e : BitVec 1) (q : BitVec 4) (s s' : State) (c : Ctx) (n : Nat) (k : Queue),
    c.queue q.toNat = some (n, k) →
    let takes (t : State) : State := c.modTeam (t.popOcc c.clu n c.words).2 fun u =>
      u.putReg c.lanes d false (delivered (t.popOcc c.clu n c.words).1)
    let value : Word := (c.b false x c.lane0).setWidth 32
    let locked := s'.queueLocked c.clu n
    (admission (.qtry d p e q) s = .ok c s' → k.kind = kindL32 → Code.uniformDst d = true →
      Traps (.qtry d p e q) s c Cause.queueKind (q.setWidth 32) none) ∧
    (admission (.qoffr p x q) s = .ok c s' →
      (((k.kind ≠ kindL32 ∧ Code.perLane x = true) ∨ (k.kind = kindTname ∧ 2 ^ 16 ≤ value.toNat)) →
        Traps (.qoffr p x q) s c Cause.queueKind (q.setWidth 32) none) ∧
      ((k.kind = kindL32 ∨ (Code.perLane x = false ∧ (k.kind = kindTname → value.toNat < 2 ^ 16))) → locked = false → k.closed = true →
        Traps (.qoffr p x q) s c Cause.queueClosedPush (q.setWidth 32) none)) ∧
    (admission (.qtry d p e q) s = .ok c s' → (k.kind ≠ kindL32 ∨ Code.uniformDst d = false) → locked = false →
      (occEntries k c.words ≤ k.count → ∃ m, Completes (.qtry d p e q) s c (c.modTeam (takes s') fun u => u.putPred c.active p.toNat m) ∧
        ∀ l ∈ c.lanes, m.getLsbD l = decide (e = 0)) ∧
      (k.count < occEntries k c.words → k.closed = false → ∃ m, Completes (.qtry d p e q) s c
        (c.modTeam s' fun u => u.putPred c.active p.toNat m) ∧ ∀ l ∈ c.lanes, m.getLsbD l = false) ∧
      (k.count < occEntries k c.words → k.closed = true → ∃ m, Completes (.qtry d p e q) s c
        (c.modTeam (takes (c.modTeam s' fun u => u.raise statusEos)) fun u => u.putPred c.active p.toNat m) ∧
        ∀ l ∈ c.lanes, m.getLsbD l = decide (e = 1))) ∧
    (admission (.qoffr p x q) s = .ok c s' → (k.kind = kindL32 ∨ (Code.perLane x = false ∧ (k.kind = kindTname → value.toNat < 2 ^ 16))) →
      locked = false → k.closed = false →
      (k.depth - k.count < occEntries k c.words → ∃ m, Completes (.qoffr p x q) s c
        (c.modTeam s' fun u => u.putPred c.active p.toNat m) ∧ ∀ l ∈ c.lanes, m.getLsbD l = false) ∧
      (occEntries k c.words ≤ k.depth - k.count → ∀ t, c.push s' q.toNat (fun l => c.b false x l) = .done t → ∃ m,
        Completes (.qoffr p x q) s c (c.modTeam t fun u => u.putPred c.active p.toNat m) ∧ ∀ l ∈ c.lanes, m.getLsbD l = true)))

/-- QCFG makes an OPEN queue of the lowest FREE number, as its operands say, and returns the number; a bad configuration, range or
team traps with QUEUE_CONFIG. The transitions of R145 by QFREE, QDRAIN and QCLOSE on the queue their selector names, QCNT's word,
and QLINK's binding. A selector names X's queue, where X is below 64 and the queue FREE or the group's, or the queue of its port; else it
traps with QUEUE_CONFIG, or QUEUE_UNBOUND; a transition of a FREE queue traps with QUEUE_CONFIG, and so does a QLINK of one, of another
group's, or of a number past 63. -/
def Obligations.QueueConfigurationAndTransitions : Prop :=
  (∀ (d : BitVec 5) (x y : Code) (s s' : State) (c : Ctx) (g : Group), admission (.qcfg d x y) s = .ok c s' → c.active ≠ 0 →
    s'.group? c.clu c.t.group = some g →
    let off := (c.ub x).toNat
    let cfg := (c.uc y).toNat
    let depth := cfg % 2 ^ 12
    let kind := cfg / 2 ^ 12 % 4
    let feed := decide (cfg / 2 ^ 14 % 2 = 1)
    let bad : Prop := cfg / 2 ^ 19 ≠ 0 ∨ kind = 3 ∨ depth = 0 ∨ (feed = true ∧ (kind ≠ 0 ∨ depth < 16)) ∨ off % 8 ≠ 0 ∨
      off + depth * (if kind = 1 then 136 else 4) > g.len ∨ g.teams[cfg / 2 ^ 15 % 16]? = none
    (bad → Traps (.qcfg d x y) s c Cause.queueConfig 64 none) ∧
    ((∀ n < 64, ((s'.clu c.clu).queues.get? n).isSome = true) → Traps (.qcfg d x y) s c Cause.queueConfig 64 none) ∧
    (¬ bad → ∀ n < 64, (s'.clu c.clu).queues.get? n = none → (∀ m < n, ((s'.clu c.clu).queues.get? m).isSome = true) →
      ∀ owner tm, g.teams[cfg / 2 ^ 15 % 16]? = some owner → s'.team? owner = some tm →
      let q : Queue := ⟨kind, false, tm.core % 12, g.ranges.getD tm.core 0 + off, depth, 0, 0, 0, feed, c.t.group⟩
      Completes (.qcfg d x y) s c
        (c.modTeam (s'.modClu c.clu fun k => { k with queues := k.queues.put n q }) fun t => t.setS d.toNat (BitVec.ofNat 32 n)))) ∧
  (∀ (x sel : Code) (s : State) (c : Ctx),
    let n := (c.ub x).toNat
    let owned : Prop := ∀ q, (s.clu c.clu).queues.get? n = some q → q.owner = c.t.group
    (sel = 0x1F → (64 ≤ n ∨ ¬ owned) → c.selector s x sel = .inr (Cause.queueConfig, c.ub x)) ∧
    (sel = 0x1F → n < 64 → owned → c.selector s x sel = .inl n) ∧
    (sel ≠ 0x1F → c.t.ports.get? sel.toNat = none → c.selector s x sel = .inr (Cause.queueUnbound, sel.setWidth 32)) ∧
    (sel ≠ 0x1F → ∀ k, c.t.ports.get? sel.toNat = some k → c.selector s x sel = .inl k)) ∧
  (∀ (d x sel : Code) (p : BitVec 4) (s s' : State) (c : Ctx), c.active ≠ 0 →
    (∀ cause h1, c.selector s' x sel = .inr (cause, h1) → ∀ i ∈ [Instr.qfree x sel, .qdrain x sel, .qclose x sel, .qcnt d x sel],
      admission i s = .ok c s' → Traps i s c cause h1 none) ∧
    (∀ n, c.selector s' x sel = .inl n → (s'.clu c.clu).queues.get? n = none → ∀ i ∈ [Instr.qfree x sel, .qdrain x sel, .qclose x sel],
      admission i s = .ok c s' → Traps i s c Cause.queueConfig (BitVec.ofNat 32 n) none) ∧
    (∀ n q, c.selector s' x sel = .inl n → (s'.clu c.clu).queues.get? n = some q →
      (admission (.qfree x sel) s = .ok c s' → ∃ t : State, Completes (.qfree x sel) s c t ∧ (t.clu c.clu).queues.get? n = none ∧
        (∀ m, m ≠ n → (t.clu c.clu).queues.get? m = (s'.clu c.clu).queues.get? m) ∧
        (∀ k u, t.team? k = some u → cluOfCore u.core = c.clu → u.fw = false → ∀ port, u.ports.get? port ≠ some n) ∧ t.mem = s'.mem) ∧
      (admission (.qdrain x sel) s = .ok c s' → ∃ t : State, Completes (.qdrain x sel) s c t ∧
        (t.clu c.clu).queues.get? n = some { q with head := q.tail, count := 0, closed := false } ∧
        (∀ m, m ≠ n → (t.clu c.clu).queues.get? m = (s'.clu c.clu).queues.get? m) ∧ t = { s' with clus := t.clus }) ∧
      (admission (.qclose x sel) s = .ok c s' → ∃ t : State, Completes (.qclose x sel) s c t ∧
        (t.clu c.clu).queues.get? n = some { q with closed := true } ∧
        (∀ m, m ≠ n → (t.clu c.clu).queues.get? m = (s'.clu c.clu).queues.get? m) ∧ t = { s' with clus := t.clus })) ∧
    (∀ n, c.selector s' x sel = .inl n → admission (.qcnt d x sel) s = .ok c s' →
      exec (.qcnt d x sel) s = .next (c.conclude (c.put s' d false fun _ =>
        (queueWord ((s'.clu c.clu).queues.get? n)).setWidth 64)) ∧
      (Code.isQ d = false → ∃ t, Completes (.qcnt d x sel) s c t)) ∧
    (admission (.qlink x p) s = .ok c s' →
      (c.ub x = 0x80000000 → Completes (.qlink x p) s c (c.modTeam s' fun t => { t with ports := t.ports.del p.toNat })) ∧
      (∀ q, (c.ub x).toNat < 64 → (s'.clu c.clu).queues.get? (c.ub x).toNat = some q → q.owner = c.t.group →
        Completes (.qlink x p) s c (c.modTeam s' fun t => { t with ports := t.ports.put p.toNat (c.ub x).toNat })) ∧
      (((c.ub x ≠ 0x80000000 ∧ 64 ≤ (c.ub x).toNat) ∨ ((c.ub x).toNat < 64 ∧ ∀ q, (s'.clu c.clu).queues.get? (c.ub x).toNat = some q →
        q.owner ≠ c.t.group)) → Traps (.qlink x p) s c Cause.queueConfig (c.ub x) none)))

/-! ## Tiles and matrix tasks -/

/-- TALLOC hands out names of the free list within its group's budget, in turn, or traps with TILE_NAMES_EXHAUSTED, or waits; TDESC and
TDESCR write and read a tensor descriptor of the context on the cluster; TSTAT reads a name; THINT keeps a hint with a defined name of the
group, and the hardware follows it or does not, and is nothing for any other. A register above 16 bits that holds no handle traps TSTAT and
THINT with ILLEGAL_OPERAND. -/
def Obligations.TileNamesAndDescriptors : Prop :=
  ∀ (d : BitVec 5) (x : BitVec 5) (v : Code) (n : BitVec 3) (i : BitVec 6) (k : BitVec 4) (h : BitVec 3) (s s' : State) (c : Ctx), c.active ≠ 0 →
    (admission (.talloc d n) s = .ok c s' → ∀ g, s'.group? c.clu c.t.group = some g →
      let count := n.toNat + 1
      let me := (c.tid, c.pid)
      let ahead := ((s'.clu c.clu).tallocs.takeWhile (· ≠ me)).filter fun p =>
        match s'.team? p.1 with | some t => decide (t.place = .resident) | none => false
      (g.tiles < s'.namesOf c.clu c.t.group + count → ∃ h1, Traps (.talloc d n) s c Cause.tileNamesExhausted h1 none) ∧
      (s'.namesOf c.clu c.t.group + count ≤ g.tiles →
        (ahead = [] → count ≤ (s'.clu c.clu).freeCount → ∀ hs t,
          (s'.modClu c.clu fun x => { x with tallocs := x.tallocs.erase me }).takeNames c.clu c.t.group count = (hs, t) →
          hs.length = count ∧ Completes (.talloc d n) s c (c.modTeam t fun u => u.setSs d.toNat (hs.map (BitVec.ofNat 32)))) ∧
        ((ahead ≠ [] ∨ (s'.clu c.clu).freeCount < count) → Parks (.talloc d n) s c (s'.modClu c.clu fun x =>
          { x with tallocs := if x.tallocs.contains me then x.tallocs else x.tallocs ++ [me] }) .talloc))) ∧
    (admission (.tdesc x i) s = .ok c s' → ∃ t : State, Completes (.tdesc x i) s c t ∧ t = { s' with clus := t.clus } ∧
      (t.clu c.clu).tdesc.getD (64 * c.t.ctx + i.toNat) 0 =
        c.t.sreg (x.toNat + 3) ++ c.t.sreg (x.toNat + 2) ++ c.t.sreg (x.toNat + 1) ++ c.t.sreg x.toNat ∧
      ∀ j, j ≠ 64 * c.t.ctx + i.toNat → (t.clu c.clu).tdesc.getD j 0 = (s'.clu c.clu).tdesc.getD j 0) ∧
    (admission (.tdescr d i) s = .ok c s' → ∃ u : Team → Team, Completes (.tdescr d i) s c (c.modTeam s' u) ∧
      ∀ t, (∀ j < 4, (u t).sreg (d.toNat + j) = ((s'.clu c.clu).tdesc.getD (64 * c.t.ctx + i.toNat) 0).extractLsb' (32 * j) 32) ∧
        (∀ r, (r < d.toNat ∨ d.toNat + 4 ≤ r) → (u t).sreg r = t.sreg r) ∧ u t = { t with s := (u t).s }) ∧
    (admission (.tstat v x) s = .ok c s' → (c.s1 x).toNat < 2 ^ 16 → ∃ b,
      exec (.tstat v x) s = .next (c.conclude (c.put s' v false fun _ => (nameWord (s'.name c.clu (handleName (c.s1 x).toNat)) b).setWidth 64)) ∧
      (b = true ↔ ∃ m, LiveName c s' (c.s1 x) (handleName (c.s1 x).toNat) m) ∧ (Code.isQ v = false → ∃ t, Completes (.tstat v x) s c t)) ∧
    (∀ i ∈ [Instr.tstat v x, .thint x k h], admission i s = .ok c s' → 2 ^ 16 ≤ (c.s1 x).toNat →
      Traps i s c Cause.illegalOperand (wordOf i) none) ∧
    (admission (.thint x k h) s = .ok c s' → (c.s1 x).toNat < 2 ^ 16 →
      ((¬ ∃ m, LiveName c s' (c.s1 x) (handleName (c.s1 x).toNat) m ∧ m.st = .defined) → Completes (.thint x k h) s c s') ∧
      ∀ name m, LiveName c s' (c.s1 x) name m → m.st = .defined →
        let kept : State := { s'.setName c.clu name { m with hint := h.toNat + 8 * k.toNat } with free := s'.free + 1 }
        Completes (.thint x k h) s c kept ∨ Completes (.thint x k h) s c (kept.followHint c.clu name h.toNat k.toNat))

/-- TLOAD, TDEF and TTASK issue the definition of a PENDING name that has none (TILE_REDEFINE), of the team's group (TILE_STALE, before
anything else of the instruction is checked). TLOAD traps on a reserved bit, an invalid descriptor (DESC_INVALID), shapes that differ (TILE_SHAPE) and a misaligned footprint; it waits for the
team's writes, needs room in some tier (TILE_SPACE), and completes once the name is defined. TDEF takes the bytes of an aligned local image
in the group's range. TTASK checks K and its control word, enters a task whose operands are other live names, waits while its cluster has
256 tasks, and traps as a read does on a failed or dying operand. -/
def Obligations.TileDefinitionsAndTasks : Prop :=
  ∀ (d x y : BitVec 5) (v : Code) (s s' : State) (c : Ctx), c.active ≠ 0 →
    let sel := (c.s1 x).toNat
    (admission (.tload d x y) s = .ok c s' →
      let i : Instr := .tload d x y
      let conv : Bool := decide (sel / 2 ^ 14 % 2 = 1)
      let mdN := s'.descriptor c.clu c.t.ctx (sel % 64)
      let tdN := s'.descriptor c.clu c.t.ctx (sel / 2 ^ 8 % 64)
      let md := Desc.ofNat mdN
      let td := Desc.ofNat tdN
      let va := (c.s2 y).toNat
      let clean : Prop := sel / 2 ^ 6 % 4 = 0 ∧ sel < 2 ^ 15
      let same : Prop := md.rows = td.rows ∧ md.cols = td.cols
      let sound : Prop := md.ok = true ∧ (conv = true → td.ok = true ∧ same ∧ (md.converted td).ok = true)
      let invalid (n : Nat) : Prop := Traps i s c Cause.descInvalid (BitVec.ofNat 32 n) none
      (Definable i s s' c (c.s1 d) clean fun name n =>
        (md.ok = false → invalid (sel % 64)) ∧
        (md.ok = true → conv = true → td.ok = false → invalid (sel / 2 ^ 8 % 64)) ∧
        (md.ok = true → conv = true → td.ok = true → ¬ same → Traps i s c Cause.tileShape (c.s1 d) none) ∧
        (md.ok = true → conv = true → td.ok = true → same → (md.converted td).ok = false → invalid (sel / 2 ^ 8 % 64)) ∧
        (sound → Footprinted i s s' c va md false fun t =>
          ((t.flushWrites c.tid).writesOpen c.tid = true → Parks i s c (s.flushWrites c.tid) .posted) ∧
          ∀ t1, Published c t t1 →
            let room := t1.tileRoom c.clu c.t.group (if conv then (md.converted td).shape else md.shape)
            (room = false → Traps i s c Cause.tileSpace (c.s1 d) none) ∧
            (room = true → CompletesWhen i s c ((c.define t1 name n (.load c.tid (sel % 64) (sel / 2 ^ 8 % 64) conv (BitVec.ofNat 128 mdN)
              (BitVec.ofNat 128 tdN) va)).post (.tileDefinitionComplete c.clu name)) (.tileDef c.clu name n.gen))))) ∧
    (admission (.tdef d x v) s = .ok c s' →
      let i : Instr := .tdef d x v
      let md : Desc := { Desc.ofNat (s'.descriptor c.clu c.t.ctx sel) with stride := 0 }
      let off := (c.uc v).toNat
      let at_ := c.localRange.1 + off
      (Definable i s s' c (c.s1 d) (sel < 64) fun name n =>
        (md.ok = false → Traps i s c Cause.descInvalid (BitVec.ofNat 32 sel) none) ∧
        (md.ok = true → off % 8 ≠ 0 → TrapsWith i s c ⟨Cause.align, 0, off, none, c.f.addr⟩) ∧
        (md.ok = true → off % 8 = 0 → c.localRange.2 < off + md.shape.bytes → Traps i s c Cause.illegalOperand (wordOf i) none) ∧
        (md.ok = true → off % 8 = 0 → off + md.shape.bytes ≤ c.localRange.2 →
          (s'.tileRoom c.clu c.t.group md.shape = false → Traps i s c Cause.tileSpace (c.s1 d) none) ∧
          (s'.tileRoom c.clu c.t.group md.shape = true → (s'.core c.core).badLocal at_ md.shape.bytes = none →
            Completes i s c ((c.define s' name n (.image md.shape (s'.lread c.core at_ md.shape.bytes))).post
              (.tileDefinitionComplete c.clu name)))))) ∧
    (admission (.ttask d x y) s = .ok c s' →
      let i : Instr := .ttask d x y
      let ctl := c.s1 y
      let depth := ctl.toNat % 2 ^ 12
      let lo (w : Word) : Word := (w.extractLsb' 0 16).setWidth 32
      let hi (w : Word) : Word := (w.extractLsb' 16 16).setWidth 32
      let zeroC := ctl.getLsbD 14
      let fine : Prop := depth % 32 = 0 ∧ 32 ≤ depth ∧ depth ≤ 2048 ∧ ctl.toNat < 2 ^ 15
      let failed (m : Name) : Byte := if m.st = .dying then Cause.tileStale else if m.st = .pending then m.fcause else 0
      let enters (name : Nat) (n : Name) (ops : List (Word × Name)) : Prop :=
        let apart : Prop := ∀ q ∈ ops, handleName q.1.toNat ≠ name
        let tasks := (s'.taskQueue c.clu).length
        (¬ apart → Traps i s c Cause.tileRedefine (lo (c.s1 d)) none) ∧
        (apart → 256 ≤ tasks → Parks i s c s' .taskQueue) ∧
        (apart → tasks < 256 → ∀ q, ops.find? (fun q => failed q.2 ≠ 0) = some q → Traps i s c (failed q.2) q.1 none) ∧
        (apart → tasks < 256 → (∀ q ∈ ops, failed q.2 = 0) → ∃ (k : Task) (waits : Nat),
          k.clu = c.clu ∧ k.d = (c.s1 d).extractLsb' 0 16 ∧ k.a = (c.s1 x).extractLsb' 0 16 ∧ k.b = (c.s1 x).extractLsb' 16 16 ∧
          k.c = (if zeroC then 0 else (c.s1 d).extractLsb' 16 16) ∧ k.ctl = ctl ∧ k.team = c.tid ∧ k.ctx = c.t.ctx ∧ k.group = c.t.group ∧
          k.core = c.core ∧ k.step = 0 ∧ k.st = .waiting ∧ k.region = c.inRegion ∧ k.reads = [] ∧
          let t := c.define { s' with seq := s'.seq + 1 } name n (.task s'.seq)
          let t1 := ({ t with tasks := s'.tasks.put s'.seq k } : State).feedTask s'.seq
          (∀ k', t1.tasks.get? s'.seq = some k' → waits = (k'.operands.eraseDups.filter fun n => !k'.reads.contains n).length) ∧
          Completes i s c (t1.pmc c.core 0x11 waits c.t.ctx))
      (¬ fine → Traps i s c Cause.illegalOperand (wordOf i) none) ∧
      (fine → Definable i s s' c (lo (c.s1 d)) True fun name n =>
        Named i s s' c (lo (c.s1 x)) fun _ ma => Named i s s' c (hi (c.s1 x)) fun _ mb =>
          (zeroC = true → enters name n [(lo (c.s1 x), ma), (hi (c.s1 x), mb)]) ∧
          (zeroC = false → Named i s s' c (hi (c.s1 d)) fun _ mc =>
            enters name n [(lo (c.s1 x), ma), (hi (c.s1 x), mb), (hi (c.s1 d), mc)])))

/-- TSTORE, TGET and TWAIT read a name: a DEFINED one at once, a PENDING one once it is defined, while its path parks and is then counted
in READS. TGET writes its elements to the active lanes, FP64 as they stand and others as FP32, and zero outside the shape; TSTORE, whose
descriptor must be valid and have the value's shape, starts a transfer that counts in READS; TKILL faults the parked readers with
TILE_KILLED_WAIT and frees the name, or leaves it DYING while reads or a definition are left. -/
def Obligations.TileReads : Prop :=
  ∀ (d : BitVec 5) (v : BitVec 7) (x y : BitVec 5) (s s' : State) (c : Ctx), c.active ≠ 0 →
    let sel := (c.s1 y).toNat
    (admission (.twait x) s = .ok c s' → NamedToRead (.twait x) s s' c (c.s1 x) fun name n =>
      ReadsTile (.twait x) s s' c (c.s1 x) name n false fun t _ _ => Completes (.twait x) s c t) ∧
    (admission (.tget v x y) s = .ok c s' →
      let i : Instr := .tget v x y
      let row := sel % 2 ^ 12
      let col := sel / 2 ^ 16 % 2 ^ 12
      let clean : Prop := sel / 2 ^ 12 % 16 = 0 ∧ sel < 2 ^ 28
      (NamedToRead i s s' c (c.s1 x) fun name n => (¬ clean → Traps i s c Cause.illegalOperand (wordOf i) none) ∧
        (clean → ReadsTile i s s' c (c.s1 x) name n false fun t h img =>
        (h.fmt = 1 → v.toNat % 2 = 1 → Traps i s c Cause.illegalOperand (wordOf i) none) ∧
        (h.fmt = 1 → v.toNat % 2 = 0 → c.t.vcount ≤ v.toNat + 1 → Traps i s c Cause.regBudget (BitVec.ofNat 32 (v.toNat + 1)) none) ∧
        ((h.fmt = 1 → v.toNat % 2 = 0 ∧ v.toNat + 1 < c.t.vcount) → ∃ val : Nat → DWord,
          Completes i s c (c.modTeam t fun u => u.putReg c.lanes (vCode v) (decide (h.fmt = 1)) val) ∧ ∀ l,
            ((h.rows ≤ row ∨ h.cols ≤ col + l) → val l = 0) ∧
            (row < h.rows → col + l < h.cols → val l = BitVec.ofNat 64 (
              if h.fmt = 1 then leNat ((img.drop (8 * h.index row (col + l))).take 8)
              else ((toFmtPre Fmt.fp32 FEnv.plain (tileValue h img row (col + l))).finish Fmt.fp32 FEnv.plain 0).1)))))) ∧
    (admission (.tstore d x y) s = .ok c s' →
      let i : Instr := .tstore d x y
      let id := (c.s1 x).toNat
      let mdN := s'.descriptor c.clu c.t.ctx id
      let md := Desc.ofNat mdN
      (NamedToRead i s s' c (c.s1 d) fun name n => (64 ≤ id → Traps i s c Cause.illegalOperand (wordOf i) none) ∧
        (id < 64 → md.ok = false → Traps i s c Cause.descInvalid (BitVec.ofNat 32 id) none) ∧
        (id < 64 → md.ok = true → Footprinted i s s' c (c.s2 y).toNat md true fun t => ReadsTile i s t c (c.s1 d) name n true fun t1 h _ =>
          (¬ (h.rows = md.rows ∧ h.cols = md.cols) → Traps i s c Cause.tileShape (c.s1 d) none) ∧
          (h.rows = md.rows → h.cols = md.cols → ∃ e : TileStore,
            e.clu = c.clu ∧ e.name = name ∧ e.team = c.tid ∧ e.path = c.pid ∧ e.ctx = c.t.ctx ∧ e.desc = BitVec.ofNat 128 mdN ∧
            e.va = (c.s2 y).toNat ∧ e.stores = [] ∧ e.started = false ∧
            CompletesWhen i s c (({ t1 with seq := t1.seq + 1, tstores := t1.tstores.put t1.seq e } : State).post
              (.tileReadComplete c.clu name t1.seq)) (.tileStore t1.seq))))) ∧
    (admission (.tkill x) s = .ok c s' → Named (.tkill x) s s' c (c.s1 x) fun name n =>
      (n.st = .dying → Traps (.tkill x) s c Cause.tileStale (c.s1 x) none) ∧
      (n.st ≠ .dying → Completes (.tkill x) s c ((s'.faultReaders c.clu name Cause.tileKilledWait).dieName c.clu name)))

/-! ## Control, paths and groups -/

/-- The branch class: which lanes take and where to; the link of a call and the counter of a loop are written whichever way it goes.
With no lane taking the path goes on; a split past eight records, or in a handler, traps with JOIN_OVERFLOW; then a taken target must be
a bundle and canonical, ALIGN first; with every lane taking the path enters it; else the path splits, the side with more words staying,
the taken side at the target and the other at the next slot. -/
def Obligations.Branches : Prop :=
  (∀ (p : BitVec 4) (i : BitVec 16) (k : BitVec 24) (r : BitVec 5) (d x : Code) (s s' : State) (c : Ctx),
    let goes (j : Instr) (s1 : State) (taking : LaneMask) (target : Nat) : Prop :=
      admission j s = .ok c s' → exec j s = .next (c.conclude (c.branch s1 taking target))
    let rel (off : Int) : Nat := (((c.bundle : Int) + 16 * off) % 2 ^ 64).toNat
    let addr (taking : LaneMask) : Nat := (c.dword false x c.popB ((lanesOf taking).headD 0)).toNat
    let link (d : Code) : State := c.modTeam s' fun t => t.putReg c.lanes d true fun _ => BitVec.ofNat 64 (c.bundle + 16)
    goes (.bra p i) s' (c.active &&& c.t.preg p.toNat) (rel i.toInt) ∧
    goes (.bran p i) s' (c.active &&& ~~~(c.t.preg p.toNat)) (rel i.toInt) ∧
    goes (.brx p x) s' (c.active &&& c.t.preg p.toNat) (addr (c.active &&& c.t.preg p.toNat)) ∧
    goes (.call k) (link 12) c.active (rel k.toInt) ∧
    goes (.callx d x) (link d) c.active (addr c.active) ∧
    goes (.ret x) s' c.active (addr c.active) ∧
    (c.active = 0 → goes (.loop r i) s' 0 0) ∧
    (c.active ≠ 0 → goes (.loop r i) (c.modTeam s' fun t => t.setS r.toNat (c.t.sreg r.toNat - 1))
      (if c.t.sreg r.toNat - 1 = 0 then 0 else c.active) (rel i.toInt))) ∧
  (∀ (c : Ctx) (s : State) (u : Team) (taking : LaneMask) (target : Nat),
    s.team? c.tid = some u → u.paths.get? c.pid = some c.p → u.recs = c.t.recs → u.place = .resident →
    let t := c.conclude (c.branch s taking target)
    let fall := c.p.mask &&& ~~~taking
    (taking = 0 → ∃ v q, t.team? c.tid = some v ∧ v.paths.get? c.pid = some q ∧ q.pc = c.f.addr + 4 ∧ q.mask = c.p.mask) ∧
    let deep : Prop := fall ≠ 0 ∧ (8 ≤ c.t.recs.length ∨ c.p.win = .trap)
    (taking ≠ 0 → deep → c.branch s taking target = c.trap Cause.joinOverflow 0) ∧
    (taking ≠ 0 → ¬ deep → target % 16 ≠ 0 → c.branch s taking target = .trap ⟨Cause.align, 0, target, none, c.f.addr⟩) ∧
    (taking ≠ 0 → ¬ deep → target % 16 = 0 → 2 ^ 56 ≤ target → c.branch s taking target = .trap ⟨Cause.addrNoncanon, 0, target, none, c.f.addr⟩) ∧
    (taking ≠ 0 → ¬ deep → target % 16 = 0 → target < 2 ^ 56 →
      (fall = 0 → ∃ v q, t.team? c.tid = some v ∧ v.paths.get? c.pid = some q ∧ q.pc = target ∧ q.mask = c.p.mask ∧ q.entered = false) ∧
      (fall ≠ 0 → u.paths.get? c.t.freshPath = none → ∃ v a b rid,
        t.team? c.tid = some v ∧ v.paths.get? c.pid = some a ∧ v.paths.get? c.t.freshPath = some b ∧
        v.recs.get? rid = some ⟨c.p.chain.length, c.pid⟩ ∧ a.chain = rid :: c.p.chain ∧ b.chain = rid :: c.p.chain ∧
        (if (wordsOf taking).length > (wordsOf fall).length then a.mask = taking ∧ a.pc = target ∧ b.mask = fall ∧ b.pc = c.f.addr + 4
          else a.mask = fall ∧ a.pc = c.f.addr + 4 ∧ b.mask = taking ∧ b.pc = target))))

/-- MODE writes its immediate unless it is reserved; JOIN is nothing at a depth with no record, else it waits or merges; EXIT removes
the active lanes and closes the path's fallback window; YIELD gives way, and with a stop request pending its team is saved; SLEEP parks
until device time has come; WAITF ends once its flags are clear; PMARK counts the active lanes for its context's EDF entry. -/
def Obligations.ModesAndPaths : Prop :=
  ∀ (m n : BitVec 16) (j : BitVec 3) (x : Code) (k : BitVec 4) (s s' : State) (c : Ctx),
    (admission (.mode m) s = .ok c s' →
      (modeValid m = true → Completes (.mode m) s c (c.modTeam s' fun t => { t with mode := m })) ∧
      (modeValid m = false → Traps (.mode m) s c Cause.modeInvalid (wordOf (.mode m)) none)) ∧
    (admission (.join j) s = .ok c s' →
      (c.p.chain.reverse[j.toNat]? = none → Completes (.join j) s c s') ∧
      ∀ rid, c.p.chain.reverse[j.toNat]? = some rid →
        let come : Nat × State := if c.p.st = .parked (.join rid) then (c.p.prog, s') else (s'.seq, { s' with seq := s'.seq + 1 })
        let t := c.modPath (c.waitHere come.2) fun p => { p with st := .parked (.join rid), prog := come.1 }
        let merged := t.joinPaths c.tid (some c.pid)
        ((∃ u, merged.team? c.tid = some u ∧ (u.recs.get? rid).isSome = true) → Parks (.join j) s c t (.join rid)) ∧
        ((∀ u, merged.team? c.tid = some u → u.recs.get? rid = none) → Places (.join j) s c merged)) ∧
    (admission .exit s = .ok c s' →
      let t := (c.modPath s' fun p => { p with win := if p.win = .fallback then .closed else p.win }).removeLanes c.tid c.active true
      (c.active = 0 → Completes .exit s c s') ∧
      (c.active ≠ 0 → c.active ≠ c.p.mask → Completes .exit s c t) ∧
      (c.active ≠ 0 → c.active = c.p.mask → Places .exit s c t)) ∧
    (admission .yield s = .ok c s' →
      let t := c.modPath s' fun p => { p with yielded := true }
      (t.stopPending c.t = false → Completes .yield s c t) ∧
      (t.stopPending c.t = true → exec .yield s = .next
        { ((c.retire t none false).drainSave c.tid).post (.sliceEnd c.clu) with focus := none })) ∧
    (admission (.sleep n) s = .ok c s' →
      (n = 0 → Completes (.sleep n) s c s') ∧
      (n ≠ 0 → c.p.prog = 0 → ∃ t, Parks (.sleep n) s c t (.sleep (s'.ns + n.toNat)) ∧ .sleepExpiry c.tid c.pid ∈ t.pending) ∧
      (n ≠ 0 → c.p.prog ≠ 0 → (c.p.prog ≤ s'.ns → Completes (.sleep n) s c s') ∧
        (s'.ns < c.p.prog → Parks (.sleep n) s c s' (.sleep c.p.prog)))) ∧
    (admission (.waitf x) s = .ok c s' →
      (c.t.flags s'.cycle &&& (c.ub x).extractLsb' 0 12 = 0 → Completes (.waitf x) s c (s'.applyDie c.die)) ∧
      (c.t.flags s'.cycle &&& (c.ub x).extractLsb' 0 12 ≠ 0 → Parks (.waitf x) s c s (.flags ((c.ub x).extractLsb' 0 12)))) ∧
    (admission (.pmark k) s = .ok c s' →
      let mine := (s'.clu c.clu).edf.find? fun p => p.2.valid && p.2.ctx = c.t.ctx && !c.t.fw
      (mine = none → Completes (.pmark k) s c s') ∧
      ∀ i e, mine = some (i, e) → Completes (.pmark k) s c (s'.modEdf c.clu i fun e =>
        { e with prog := Tab.store 0 e.prog k.toNat (e.prog.getD k.toNat 0 + BitVec.ofNat 32 c.lanes.length) }))

/-- BAR, BARA and BARW: an arrival is a release and counts once for the team; a full generation completes, and a departure is an acquire;
until then BAR's path parks. A BARW whose team has arrived waits for the open generation, and a BAR or BARA reached while the team's
arrival is open waits until that generation has completed. From the firmware slot each traps with PRIV. -/
def Obligations.Barriers : Prop :=
  ∀ (b : BitVec 3) (s s' t0 : State) (c : Ctx) (g : Group),
    let i1 : Instr := .bar b
    let i2 : Instr := .bara b
    let i3 : Instr := .barw b
    let gen := g.gens.getD b.toNat 0
    let arrive := ((c.modTeam t0 fun t => { t with arrived := t.arrived ||| (1#8 <<< b.toNat) }).modGroup c.clu c.t.group fun g =>
      { g with counts := Tab.store 0 g.counts b.toNat (g.counts.getD b.toNat 0 + 1) }).barrierTest c.clu c.t.group b.toNat
    (c.t.fw = true → (admission i1 s = .ok c s' → Traps i1 s c Cause.priv (wordOf i1) none) ∧
      (admission i2 s = .ok c s' → Traps i2 s c Cause.priv (wordOf i2) none) ∧
      (admission i3 s = .ok c s' → Traps i3 s c Cause.priv (wordOf i3) none)) ∧
    (c.t.fw = false → c.p.prog = 0 → s'.group? c.clu c.t.group = some g → c.t.arrived.getLsbD b.toNat = false →
      (admission i3 s = .ok c s' → Completes i3 s c (s'.applyDie c.die)) ∧
      (Releases c s' c.t.pscope t0 →
        (admission i2 s = .ok c s' → Completes i2 s c arrive) ∧
        (∀ g', arrive.group? c.clu c.t.group = some g' →
          (g'.gens.getD b.toNat 0 ≠ gen → admission i1 s = .ok c s' → Completes i1 s c (arrive.applyDie c.die)) ∧
          (g'.gens.getD b.toNat 0 = gen → admission i1 s = .ok c s' →
            Parks i1 s c (c.modPath arrive fun p => { p with prog := gen + 1 }) (.barrier b.toNat gen))))) ∧
    (c.t.fw = false → c.p.prog = 0 → s'.group? c.clu c.t.group = some g → c.t.arrived.getLsbD b.toNat = true →
      (admission i1 s = .ok c s' → Parks i1 s c s' (.barrier b.toNat gen)) ∧
      (admission i2 s = .ok c s' → Parks i2 s c s' (.barrier b.toNat gen)) ∧
      (admission i3 s = .ok c s' → Parks i3 s c (c.modPath s' fun p => { p with prog := gen + 1 }) (.barrier b.toNat gen))) ∧
    (c.t.fw = false → s'.group? c.clu c.t.group = some g → ∀ k, c.p.prog = k + 1 → ∀ i, (i = i1 ∨ i = i3) → admission i s = .ok c s' →
      (gen ≠ k → Completes i s c (s'.applyDie c.die)) ∧
      (gen = k → Parks i s c (c.modPath s' fun p => { p with prog := k + 1 }) (.barrier b.toNat k)))

/-- GIVE and CLAIM move register blocks between a team and its group, whole: GIVE's are then served to the CLAIMs parked on its core's
pool, and a CLAIM parks behind those before it; one that a set-flag count held back (R63) takes its blocks when it comes again. SPAWN appends its lanes' records where R32 accepts them and their rings have room, and
parks where they have not. SVC opens a call and takes its team off the core, once its instructions are complete, until the call is
answered. -/
def Obligations.BlocksRecordsAndCalls : Prop :=
  ∀ (k : BitVec 4) (x : BitVec 7) (n : BitVec 8) (s s' : State) (c : Ctx),
    let need := k.toNat * (c.t.lanes / 32)
    (admission (.give k) s = .ok c s' →
      let left := c.t.vcount - 8 * k.toNat
      let busy := (c.t.pendingWrites s'.cycle).extractLsb' 0 16 >>> (left / 8)
      ((c.t.fw = true ∨ c.t.vcount < 8 * k.toNat + 8 ∨ busy ≠ 0) → Traps (.give k) s c Cause.regBudget 0xFF none) ∧
      (c.t.fw = false → 8 * k.toNat + 8 ≤ c.t.vcount → busy = 0 → ∃ u : Team → Team, Completes (.give k) s c
        (((c.modTeam s' u).modGroup c.clu c.t.group fun g =>
          { g with blocks := Tab.store 0 g.blocks c.core (g.blocks.getD c.core 0 + need) }).servePool c.clu c.t.group c.core) ∧
        ∀ t, u t = { t with vcount := left, v := (u t).v } ∧ ∀ r l, r < left → l < 1024 → (u t).vreg r l = t.vreg r l)) ∧
    (admission (.claim k) s = .ok c s' →
      ((c.t.fw = true ∨ 128 < c.t.vcount + 8 * k.toNat) → Traps (.claim k) s c Cause.regBudget 0xFF none) ∧
      ∀ g, c.t.fw = false → c.t.vcount + 8 * k.toNat ≤ 128 → s'.group? c.clu c.t.group = some g →
        let me := (c.tid, c.pid, k.toNat)
        let queue := s'.claimsOn g c.core
        let enough : Prop := need ≤ g.blocks.getD c.core 0
        let take (s : State) : State := c.modTeam (s.modGroup c.clu c.t.group fun g =>
          { g with blocks := Tab.store 0 g.blocks c.core (g.blocks.getD c.core 0 - need) }) fun t => { t with vcount := t.vcount + 8 * k.toNat }
        (queue = [] → enough → Completes (.claim k) s c (take s')) ∧
        (c.p.st ≠ .parked .claim → (queue ≠ [] ∨ ¬ enough) → Parks (.claim k) s c
          (c.waitHere (s'.modGroup c.clu c.t.group fun g => { g with claims := g.claims ++ [me] })) .claim) ∧
        (c.p.st = .parked .claim → queue.head? = some me → enough → Completes (.claim k) s c
          ((take (s'.modGroup c.clu c.t.group fun g => { g with claims := g.claims.erase me })).servePool c.clu c.t.group c.core)) ∧
        (c.p.st = .parked .claim → (queue ≠ [] ∨ ¬ enough) → (queue.head? ≠ some me ∨ ¬ enough) → Parks (.claim k) s c s' .claim)) ∧
    (admission (.spawn x) s = .ok c s' →
      (c.t.fw = true → Traps (.spawn x) s c Cause.priv (wordOf (.spawn x)) none) ∧
      (c.t.fw = false → ∀ t, s'.badRecord c.t.ctx (c.lanes.map fun l => (l, c.laneRecord x.toNat l)) = (none, t) →
        (t.ringsFit c.t.ctx (c.lanes.map fun l => c.laneRecord x.toNat l) = true → Completes (.spawn x) s c
          (c.lanes.foldl (fun s l => s.appendRecord c.t.ctx (c.laneRecord x.toNat l) .code) t)) ∧
        (t.ringsFit c.t.ctx (c.lanes.map fun l => c.laneRecord x.toNat l) = false → Parks (.spawn x) s c t .spawn)) ∧
      (c.t.fw = false → ∀ t l, s'.badRecord c.t.ctx (c.lanes.map fun l => (l, c.laneRecord x.toNat l)) = (some l, t) →
        Traps (.spawn x) s c Cause.workInvalid (BitVec.ofNat 32 l) none)) ∧
    (admission (.svc n) s = .ok c s' →
      (c.t.fw = true → Traps (.svc n) s c Cause.priv (wordOf (.svc n)) none) ∧
      (c.t.fw = false → c.active = 0 → Completes (.svc n) s c s') ∧
      (c.t.fw = false → c.active ≠ 0 →
        let call := 64 * (s'.ctx c.t.ctx).freeCall + c.t.ctx
        let opens : SvcCall := { team := c.tid, path := c.pid, number := n.toNat, lanes := c.lanes, sent := false, replies := [], posted := false }
        let opened := s'.modCtx c.t.ctx fun x => { x with nextCall := (x.freeCall + 1) % 2 ^ 26, calls := x.calls.put call opens }
        let t := opened.svcSave c.tid call
        CompletesWhen (.svc n) s c t (.svc call) ∧ ∀ u, t.team? c.tid = some u →
          if (opened.settleTeam c.tid).settled c.tid = true then u.place = .savedBySvc call else u.stopped = true))

/-! ## Engines, assumptions and the system -/

/-- CARD, CARDW, GARM, SUBM, SIGW and SIGA read or reach one aligned block or word: elsewhere they trap with ALIGN. A sound card, once
its team's writes are visible, enters its stream's tracker: CARD completes with it, CARDW waits for it and then writes its status, as an
acquire. A rejected card traps with CARD_INVALID; a full tracker parks. GARM sends one decrement of PRED to its bank, with an atomic's
release bit; GDONE fences, and retires its node once the node's work is visible. SUBM, after its fence, writes the packet into its queue's next slot;
it completes when that is performed and WRIDX has moved on; it waits for room in a full ring, and a bad queue traps with ILLEGAL_OPERAND
(the firmware slot names any ACTIVE queue: log 40). SIGW ends as an acquire once its condition holds and SIGA updates
its signal at the bank; a page of another scope traps with PAGE_SCOPE_INVALID, and one whose
bytes cannot be read with ECC_UNCORRECTED_MEM. -/
def Obligations.EnginesAndSignals : Prop :=
  ∀ (d x : BitVec 5) (y : Code) (r : BitVec 1) (o : BitVec 2) (k : BitVec 3) (s s' t t1 t2 : State) (c : Ctx) (a : LaneAcc)
    (vals : Tab Nat) (st : Clock), c.active ≠ 0 →
    let va := (c.s2 x).toNat
    let img := (vals.headD (0, 0)).2
    let reads (s0 : State) (n : Nat) : Prop := va % n = 0 ∧ Accesses c s0 [(c.lane0, va)] n true false true false [a] t ∧
      Loads c t [a] n t1 vals st
    let aligned (i : Instr) (n : Nat) : Prop := va % n ≠ 0 → TrapsWith i s c ⟨Cause.align, 0, va, some c.active, c.f.addr⟩
    let teams := if c.t.fw then 0 else match t1.group? c.clu c.t.group with | some g => g.teams.length | none => 0
    let home := c.cardHome t1 img
    let sound := cardOk img teams (if c.t.fw then 0 else home.2.2.1)
    let submits (i : Instr) (ends : State → Nat → Prop) : Prop := aligned i 128 ∧ (reads s' 128 →
      (sound = false → Traps i s c Cause.cardInvalid (BitVec.ofNat 32 va) none) ∧
      (sound = true → t1.trackerFull (.team c.tid) = true → Parks i s c s .tracker) ∧
      (sound = true → t1.trackerFull (.team c.tid) = false → Published c t1 t2 → ∃ (q : Card) (pages : List (Nat × Nat)),
        q.img = BitVec.ofNat 1024 img ∧ q.stream = .team c.tid ∧ q.ctx = c.t.engineCtx ∧ q.clu = c.clu ∧ q.core = home.1 ∧ q.order = t2.seq ∧
        q.st = .waiting ∧ q.offset = 0 ∧ q.packet = none ∧
        ends (c.modTeam { t2 with seq := t2.seq + 1, cards := t2.cards.put t2.seq q, pending := t2.pending ++ [.cardStart t2.seq] }
          fun u => { u with pscope := widerScope u.pscope pages }) t2.seq))
    let calm (s0 : State) : State := if r = 1 then c.modTeam s0 fun u => { u with pscope := Scope.core } else s0
    let released : Prop := if r = 1 then Releases c t (widerScope c.t.pscope [(a.pa, a.scope)]) t1 else t1 = t
    let signal (i : Instr) (wr : Bool) (ends : Prop) : Prop := aligned i 8 ∧ (va % 8 = 0 → Accesses c s' [(c.lane0, va)] 8 true wr true false [a] t →
      (a.scope ≠ Scope.package → a.scope ≠ Scope.host → TrapsWith i s c ⟨Cause.pageScopeInvalid, 0, va, some c.active, c.f.addr⟩) ∧
      ((a.scope = Scope.package ∨ a.scope = Scope.host) →
        (t.badAt a.pa 8 = true → TrapsWith i s c ⟨Cause.eccUncorrectedMem, 0, a.va, some (maskOf [a.lane]), c.f.addr⟩) ∧
        (t.badAt a.pa 8 = false → ends)))
    (admission (.card x) s = .ok c s' → submits (.card x) fun t3 id => CompletesWhen (.card x) s c t3 (.card id)) ∧
    (admission (.cardw d x) s = .ok c s' →
      (c.p.prog = 0 → submits (.cardw d x) fun t3 id => Parks (.cardw d x) s c (c.modPath t3 fun p => { p with prog := id + 1 }) (.card id)) ∧
      ∀ id, c.p.prog = id + 1 → ∀ q, s'.cards.get? id = some q →
        (∀ st, q.st = .done st → Completes (.cardw d x) s c
          (c.modTeam (({ s' with cards := s'.cards.del id } : State).applyDie c.die) fun t => t.setS d.toNat (st.setWidth 32))) ∧
        (q.open = true → Parks (.cardw d x) s c s' (.card id))) ∧
    (admission (.garm x r) s = .ok c s' → aligned (.garm x r) 64 ∧
      (va % 64 = 0 → Accesses c s' [(c.lane0, va)] 4 true true true false [a] t → released →
        let g := (c.surrender t1 [a] 4).sendDecrement (.core c.core) c.die c.t.ctx va a.pa a.scope none
        CompletesWhen (.garm x r) s c (calm (c.sent g.2 [a] [g.1])) (.stores [g.1]) ∧ ∃ b : BankReq, .bankAluOperation b ∈ g.2.pending ∧
          b.id = g.1 ∧ b.op = 1 ∧ b.ty = 1 ∧ b.lanes = [⟨a.pa, 0xFFFFFFFF, 0⟩] ∧ b.graph = true)) ∧
    (admission (.gdone x) s = .ok c s' → Releases c s' c.t.pscope t →
      ((t.ctx c.t.ctx).nodes.find? (fun p => p.2.addr = va && p.2.gdone && !p.2.due) = none → Completes (.gdone x) s c t) ∧
      ∀ n node, (t.ctx c.t.ctx).nodes.find? (fun p => p.2.addr = va && p.2.gdone && !p.2.due) = some (n, node) →
        (t.settleAll.allVisible = true → CompletesWhen (.gdone x) s c (t.settleAll.retireNode c.t.ctx n node none).2
          (.stores (t.settleAll.retireNode c.t.ctx n node none).1)) ∧
        (t.settleAll.allVisible = false → Parks (.gdone x) s c s.settleAll .posted)) ∧
    (admission (.subm x y) s = .ok c s' →
      let q := (c.uc y).toNat
      let m := s'.mgmt.cmd q
      let mine : Prop := q < 256 ∧ m.st = 1 ∧ (c.t.fw = true ∨ m.ctx = c.t.ctx)
      (¬ mine → Traps (.subm x y) s c Cause.illegalOperand (wordOf (.subm x y)) none) ∧
      (mine → m.full = false → ∀ t0, (if c.p.prog = 1 then t0 = s' else Releases c s' c.t.pscope t0) → aligned (.subm x y) 64 ∧
        (reads t0 64 → ∀ pa sc, t1.frontXlat m.ctx (m.slot m.next.toNat) true = (.ok pa sc, t2) →
          let w := t2.engineWrite 0 m.ctx (atAddr pa (natLe 64 img))
          let bell : Bell := ⟨w.2.seq, none, w.1⟩
          CompletesWhen (.subm x y) s c
            ((({ w.2 with seq := w.2.seq + 1 } : State).modCmdq q fun k => { k with bells := k.bells ++ [bell] }).pokeBells q) (.appended q w.2.seq))) ∧
      (mine → m.full = true → reads s 64 →
        (c.p.prog = 1 → Parks (.subm x y) s c s (.ring q)) ∧
        (c.p.prog ≠ 1 → ∀ t0, Releases c s c.t.pscope t0 → Parks (.subm x y) s c (c.modPath t0 fun p => { p with prog := 1 }) (.ring q)))) ∧
    (admission (.sigw d x k) s = .ok c s' → signal (.sigw d x k) false (
      let rd := t.engineRead c.t.ctx a.pa 8
      let v := BitVec.ofNat 64 (leNat rd.1)
      (signalEnds k.toNat v (c.s2 d) = true → ∀ t3, Acquires c rd.2 (rd.2.stampOf (lineOf a.pa)) t3 →
        Completes (.sigw d x k) s c (c.modTeam t3 fun u => u.putS true d.toNat v)) ∧
      (signalEnds k.toNat v (c.s2 d) = false → Parks (.sigw d x k) s c rd.2 (.signal a.pa k.toNat (c.s2 d))))) ∧
    (admission (.siga d x r o) s = .ok c s' → signal (.siga d x r o) true (released →
      let g := c.sendBank (if o = 0 then 0 else 1) 2 [[(a, if o = 2 then - c.s2 d else c.s2 d)]] (c.surrender t1 [a] 8) []
      CompletesWhen (.siga d x r o) s c (calm (c.sent g.2 [a] g.1)) (.stores g.1)))

/-- AREG checks its regions, takes the lowest free object, arms its watches, parks, and then writes the object's number; with no room it
traps with ASSUME_TABLE_FULL. AENTER pushes a guard entry with the team's mode, predicates, mask and fallback, at most four deep and in
one path, and on a revoked object aborts at once. AEXIT pops an inner entry; the outermost waits for its earlier writes, then for its
commit, and ends as a release. ATEST reads an object's state; AREVK and ADROP revoke an armed object and wait, AREVK completes at once on a
revoked one, and ADROP frees it once its revocation is over. A number that names no object of the context traps with ASSUME_BAD_ID. -/
def Obligations.AssumptionsAndRegions : Prop :=
  ∀ (v x : Code) (p : BitVec 4) (r : BitVec 5) (k : BitVec 2) (i : BitVec 8) (s s' t t1 : State) (c : Ctx),
    let n := (c.ub x).toNat
    (admission (.areg v r k) s = .ok c s' →
      let b1 := (c.s2 r).toNat
      let l1 := (c.s2 (r + 2)).toNat
      let arg := c.s2 (r + 4)
      let l2 := (c.s2 (r + 6)).toNat
      let odd (b n : Nat) : Prop := b % 4 ≠ 0 ∨ n % 4 ≠ 0 ∨ n = 0 ∨ 2 ^ 40 < n
      let bad : Prop := odd b1 l1 ∨ (k = 1 ∧ odd arg.toNat l2) ∨ (k = 2 ∧ (b1 % 8 ≠ 0 ∨ l1 ≠ 8))
      let far (b : Nat) : Prop := TrapsWith (.areg v r k) s c ⟨Cause.addrNoncanon, 0, b, some c.active, c.f.addr⟩
      (c.active ≠ 0 → c.p.prog = 0 →
        (bad → Traps (.areg v r k) s c Cause.illegalOperand (wordOf (.areg v r k)) none) ∧
        (¬ bad → 2 ^ 56 < b1 + l1 → far b1) ∧
        (¬ bad → b1 + l1 ≤ 2 ^ 56 → k = 1 → 2 ^ 56 < arg.toNat + l2 → far arg.toNat) ∧
        (¬ bad → b1 + l1 ≤ 2 ^ 56 → (k = 1 → arg.toNat + l2 ≤ 2 ^ 56) → ∀ p1 p2,
          c.regionPieces (regionOf b1 l1) s' [] = (.inl p1, t) →
          c.regionPieces (if k = 1 then regionOf arg.toNat l2 else []) t [] = (.inl p2, t1) →
          (c.register t1 k.toNat b1 l1 l2 arg p1 p2 = none → Traps (.areg v r k) s c Cause.assumeTableFull 0 none) ∧
          ∀ m t2, c.register t1 k.toNat b1 l1 l2 arg p1 p2 = some (m, t2) →
            Parks (.areg v r k) s c (c.modPath t2 fun p => { p with prog := m + 1 }) .registered ∧
            m < 1024 ∧ t1.objs.get? m = none ∧ (∀ j < m, t1.objs.get? j = none → (t1.revokes.get? j).isSome = true) ∧
            ∃ o, t2.objs.get? m = some o ∧ o.kind = k.toNat ∧ o.ctx = c.t.ctx ∧ o.base1 = BitVec.ofNat 56 b1 ∧ o.len1 = l1 ∧ o.arg = arg ∧
              o.len2 = l2 ∧ (k = 0 → o.armed = true))) ∧
      ∀ m, c.p.prog = m + 1 →
        exec (.areg v r k) s = .next (c.conclude (c.put s' v false fun _ => BitVec.ofNat 64 m)) ∧
        (Code.isQ v = false → Completes (.areg v r k) s c (c.modTeam s' fun t => t.putReg c.lanes v false fun _ => BitVec.ofNat 64 m))) ∧
    (admission (.aenter x i) s = .ok c s' →
      let a := (c.ua x).toNat
      let room : Prop := c.t.paths.length ≤ 1 ∧ c.t.guard.length < 4
      (¬ room → Traps (.aenter x i) s c Cause.guardNest (BitVec.ofNat 32 c.t.guard.length) none) ∧
      (room → c.object s' a = none → Traps (.aenter x i) s c Cause.assumeBadId (BitVec.ofNat 32 a) none) ∧
      (room → ∀ o, c.object s' a = some o → ∃ g : GuardEntry, g.obj = a ∧ g.mode = c.t.mode ∧ g.preds = c.t.p ∧ g.mask = c.p.mask ∧
        g.fallback = (((c.bundle : Int) + 16 * i.toInt) % 2 ^ 64).toNat ∧
        let inside := c.modPath (c.modTeam s' fun t => { t with guard := g :: t.guard }) fun p =>
          { p with win := if p.win = .fallback then .closed else p.win }
        (o.armed = true → Completes (.aenter x i) s c inside) ∧
        (o.armed = false → exec (.aenter x i) s = .next { inside.abortTeam c.tid Cause.assumeRevoked a true none with focus := none }))) ∧
    (admission .aexit s = .ok c s' → c.p.prog ≠ 2 →
      let flushed := s'.flushWrites c.tid
      (c.active = 0 → Completes .aexit s c s') ∧
      (c.active ≠ 0 → (c.t.guard = [] ∨ 1 < c.t.paths.length) → Traps .aexit s c Cause.guardNest (BitVec.ofNat 32 c.t.guard.length) none) ∧
      (c.active ≠ 0 → 1 < c.t.guard.length → c.t.paths.length ≤ 1 →
        Completes .aexit s c (c.modTeam s' fun t => { t with guard := t.guard.drop 1 })) ∧
      (c.active ≠ 0 → c.t.guard.length = 1 → c.t.paths.length ≤ 1 →
        (flushed.releaseHeld c.tid c.t.pscope = true → Parks .aexit s c flushed .posted) ∧
        (flushed.releaseHeld c.tid c.t.pscope = false →
          Parks .aexit s c ((c.modPath flushed fun p => { p with prog := 1 }).post (.commitGroup c.tid)) .commit))) ∧
    (admission .aexit s = .ok c s' → c.p.prog = 2 → Releases c s' c.t.pscope t → Completes .aexit s c t) ∧
    (c.active ≠ 0 → c.p.prog = 0 →
      (∀ j ∈ [Instr.atest p x, .arevk x, .adrop x], admission j s = .ok c s' →
        (1024 ≤ n → Traps j s c Cause.illegalOperand (wordOf j) none) ∧
        (n < 1024 → c.object s' n = none → Traps j s c Cause.assumeBadId (BitVec.ofNat 32 n) none)) ∧
      ∀ o, n < 1024 → c.object s' n = some o →
        let idle : Prop := o.armed = false ∧ s'.revokes.get? n = none
        let revoking (free : Bool) : State := (c.modPath s' fun p => { p with prog := 1 }).startRevoke n c.die free
        (admission (.atest p x) s = .ok c s' → ∃ m, Completes (.atest p x) s c (c.modTeam s' fun u => u.putPred c.active p.toNat m) ∧
          ∀ l ∈ c.lanes, m.getLsbD l = o.armed) ∧
        (admission (.arevk x) s = .ok c s' → (o.armed = false → Completes (.arevk x) s c s') ∧
          (o.armed = true → Parks (.arevk x) s c (revoking false) (.revoke n))) ∧
        (admission (.adrop x) s = .ok c s' → (idle → Completes (.adrop x) s c (s'.freeObject n)) ∧
          (¬ idle → Parks (.adrop x) s c (revoking true) (.revoke n)))) ∧
    (c.active ≠ 0 → c.p.prog = 1 → ∀ j ∈ [Instr.arevk x, .adrop x], admission j s = .ok c s' → Completes j s c s')

/-- The CSR instructions in their views: a read outside the view returns zero and a write outside it traps with PRIV at the shared checks, lanes
active or not; inside, a read of a
low half latches its high half, CSRW writes RW fields and clears W1C bits but for STATUS bits that hardware sets in the same cycle, CSRS and
CSRC change RW fields alone, APINV invalidates, and unassigned numbers read as zero and ignore writes. What a written CSR then reads: STATUS
bits clear, TRAPEN, DROOPCFG in its range, context debug and handler registers hold the value. -/
def Obligations.ControlRegisters : Prop :=
  (∀ (x d : Code) (k : BitVec 12) (s s' : State) (c : Ctx), c.active ≠ 0 →
    let n := k.toNat
    let sees : Prop := c.t.fw = true ∨ n < 0x400 ∨ (c.p.win = .trap ∧ n < 0x800)
    let v := c.csrView s'
    let old := s'.csrValue v n
    let w := c.ua x
    let rw := csrMask n
    let kept : Word := if n = 0x008 then (match s'.team? c.tid with | some t => t.fresh.setWidth 32 | none => 0) else 0
    let reads (t : State) (val : Word) : Prop :=
      exec (.csrr d k) s = .next (c.conclude (c.put t d false fun _ => val.setWidth 64)) ∧
      (Code.isQ d = false → Completes (.csrr d k) s c (c.modTeam t fun u => u.putReg c.lanes d false fun _ => val.setWidth 64))
    (admission (.csrr d k) s = .ok c s' → (¬ sees → reads s' 0) ∧ (sees → reads (s'.csrLatch v n) old)) ∧
    (sees →
      (admission (.csrw x k) s = .ok c s' → Completes (.csrw x k) s c (
        if n = 0x8B2 then s'.apInvalidate c.die w else if rw = 0 ∧ csrW1C n = 0 then s'
        else s'.csrPut v n (((w &&& rw) ||| (old &&& ~~~rw)) &&& ~~~(w &&& csrW1C n &&& ~~~kept)))) ∧
      (admission (.csrs x k) s = .ok c s' → Completes (.csrs x k) s c (if rw = 0 then s' else s'.csrPut v n (old ||| (w &&& rw)))) ∧
      (admission (.csrc x k) s = .ok c s' → Completes (.csrc x k) s c (if rw = 0 then s' else s'.csrPut v n (old &&& ~~~(w &&& rw)))))) ∧
  (∀ (x : Code) (k : BitVec 12) (s : State) (f : Focus) (t : Team) (p : Path), Issuer s f t p → t.rests.get? f.path = none → p.begun = false →
    ¬ (t.fw = true ∨ k.toNat < 0x400 ∨ (p.win = .trap ∧ k.toNat < 0x800)) → ∀ i ∈ [Instr.csrw x k, .csrs x k, .csrc x k],
    exec i s = .next { s.takeTrap f.team f.path f.addr ⟨Cause.priv, k.setWidth 32, 0, none, f.addr⟩ with focus := none }) ∧
  (∀ (s : State) (v : CsrView) (x : Word) (t : Team), s.team? v.tid = some t →
    (s.csrWrite v 0x008 x).csrValue v 0x008 = (t.status &&& ~~~(x.setWidth 16 &&& ~~~t.fresh)).setWidth 32 ∧
    (s.csrWrite v 0x00A x).csrValue v 0x00A = ((x &&& 0x7F) ||| (t.trapen &&& ~~~0x7F)) ∧
    (2 ≤ x.toNat → x.toNat ≤ 6 → (s.csrValue v 0x800).toNat < 8 → (s.csrWrite v 0x800 x).csrValue v 0x800 = x) ∧
    (s.csrWrite v 0x500 x).csrValue v 0x500 = ((x &&& 0xFFFFFFFC) ||| (s.csrValue v 0x500 &&& 3)) ∧
    (s.csrWrite v 0x00B x) = s ∧ s.csrValue v 0x00B = 0 ∧ (s.csrWrite v 0x000 x) = s)

/-- The firmware's instructions. FWCALL enters a loaded overlay at X with the caller and the way back in s30 and s31, or parks until its
load completes; an overlay or entry that is none traps with ILLEGAL_OPERAND, and so does the register form outside the firmware slot. From
a handler it posts a class-7 job, once the class has room, and waits for the outcome. TINV drops translations, and waits for the
revocations it starts of the NOALIAS objects that the range meets. TICKET claims the oldest open job of a class, or answers all ones, and
its done form closes a claimed one and hands on the outcome of a class 0, 1 or 7 job. SVCR answers with a call's state, 0 once it has
reinstated the team. CTXS and CTXL save a context, once its teams are settled or by force after 50 µs, and restore one, once the cluster
has room, on a cluster of their die; a CTXS whose save another agent has ended answers 0 if the context is saved and else FORCED_RESET (the
model's reading, log 21). -/
def Obligations.FirmwareInstructions : Prop :=
  ∀ (x n : Code) (d a : BitVec 5) (k : BitVec 4) (s s' : State) (c : Ctx), c.active ≠ 0 →
    let fine (m : Nat) (w : Word) : Prop := (s'.mgmt.overlays.get? m).isSome = true ∧ w.extractLsb' 0 4 = 0 ∧ w.extractLsb' 16 16 = 0
    let enters (i : Instr) (m : Nat) (w : Word) : Prop :=
      (¬ fine m w → Traps i s c Cause.illegalOperand (wordOf i) none) ∧
      (fine m w → (s'.core c.core).overlay = some m → Places i s c
        (c.modPath (c.modTeam s' fun t => (t.setS 30 (BitVec.ofNat 32 m)).setS 31 (BitVec.ofNat 32 (c.bundle + 16)))
          fun p => { p with pc := w.toNat, entered := false })) ∧
      (fine m w → (s'.core c.core).overlay ≠ some m → Parks i s c
        ((c.modPath (c.waitHere s) fun p => { p with waitPc := w.toNat }).post (.overlayLoadComplete c.core m)) (.overlay m))
    (admission (.fwcall x n) s = .ok c s' →
      (c.t.fw = true → enters (.fwcall x n) n.toNat (c.ub x)) ∧
      (c.t.fw = false →
        (c.p.prog = 0 → s.jobRoom c.die 7 = false → Parks (.fwcall x n) s c s (.jobRoom c.die 7)) ∧
        (c.p.prog = 0 → s.jobRoom c.die 7 = true → ∃ (t : State) (j : Job), Parks (.fwcall x n) s c t .fwcall ∧
          j ∈ (t.die c.die).jobs.getD 7 [] ∧ j.claimed = false ∧ j.team = c.tid ∧ j.path = c.pid ∧ j.w2 = c.ub x ∧
          j.w1 = BitVec.ofNat 32 (n.toNat + c.core * 2 ^ 8 + c.t.slot * 2 ^ 18) ∧ j.w3.toNat % 32 = 0) ∧
        (c.p.prog = 1 → Parks (.fwcall x n) s c s .fwcall) ∧ (c.p.prog = 2 → Completes (.fwcall x n) s c s'))) ∧
    (admission (.fwcallReg a x) s = .ok c s' →
      let good : Prop := c.t.fw = true ∧ (c.s1 a).toNat < 256
      (¬ good → Traps (.fwcallReg a x) s c Cause.illegalOperand (wordOf (.fwcallReg a x)) none) ∧
      (good → enters (.fwcallReg a x) (c.s1 a).toNat (c.ub x))) ∧
    (admission (.tinv d x) s = .ok c s' →
      let w := (c.uc x).toNat
      let r := tinvRange (w / 64) (c.s2 d).toNat
      let touched := s'.aliasObjects (w % 64) r.1 r.2
      let gone := s'.dropTranslations (w % 64) r.1 r.2
      (c.p.begun = false → 256 ≤ w → Traps (.tinv d x) s c Cause.illegalOperand (wordOf (.tinv d x)) none) ∧
      (c.p.begun = false → w < 256 →
        (touched = [] → Completes (.tinv d x) s c gone) ∧
        (touched ≠ [] → Parks (.tinv d x) s c (c.modPath ((gone.aliasObjects (w % 64) r.1 r.2).foldl (fun s o => s.startRevoke o c.die false) gone)
          fun p => { p with prog := 1 }) (.translations (w % 64) r.1 r.2))) ∧
      (∀ ctx lo hi, c.p.prog ≠ 0 → c.p.st = .parked (.translations ctx lo hi) →
        ((∀ o ∈ s'.aliasObjects ctx lo hi, s'.revokes.get? o = none) → Completes (.tinv d x) s c s') ∧
        ((∃ o ∈ s'.aliasObjects ctx lo hi, (s'.revokes.get? o).isSome = true) → Parks (.tinv d x) s c s' (.translations ctx lo hi)))) ∧
    (admission (.ticketClaim d k) s = .ok c s' →
      (s'.openJob c.die k.toNat = none → Completes (.ticketClaim d k) s c (c.modTeam s' fun t => t.setS d.toNat 0xFFFFFFFF)) ∧
      ∀ j, s'.openJob c.die k.toNat = some j → Completes (.ticketClaim d k) s c
        (c.modTeam (s'.modJob c.die k.toNat j.idx fun j => { j with claimed := true })
          fun t => t.setSs d.toNat [BitVec.ofNat 32 j.idx, j.w1, j.w2, j.w3])) ∧
    (admission (.ticketDone d k) s = .ok c s' →
      let o := c.t.sreg (d.toNat + 1)
      let mine := ((s'.die c.die).jobs.getD k.toNat []).find? fun j => j.idx = (c.s1 d).toNat && j.claimed
      (mine = none → Completes (.ticketDone d k) s c s') ∧
      ∀ j, mine = some j →
        let t := s'.modDie c.die fun x => { x with jobs := x.jobs.modify k.toNat fun l => l.filter fun i => i.idx ≠ j.idx }
        Completes (.ticketDone d k) s c (
          if k = 0 then t.faultOutcome j o else if k = 1 then t.cardOutcome j o else if k = 7 then t.callOutcome j o else t)) ∧
    (admission (.svcr d x) s = .ok c s' →
      let call := (c.ub x).toNat
      let answers (t : State) (w : Word) : Prop := Completes (.svcr d x) s c (c.modTeam t fun u => u.setS d.toNat w)
      ((s'.ctx (call % 64)).calls.get? call = none → answers s' 3) ∧
      ∀ q, (s'.ctx (call % 64)).calls.get? call = some q →
        (q.complete = false → answers s' 1) ∧
        (q.complete = true → s'.team? q.team = none → answers s' 3) ∧
        (∀ u, q.complete = true → s'.team? q.team = some u → (s'.canReturn u = true → answers (s'.reinstate (call % 64) call q) 0) ∧
          (s'.canReturn u = false → answers s' 2))) ∧
    (∀ i ∈ [Instr.ctxs d x, .ctxl d x], admission i s = .ok c s' →
      c.saveTarget s' (c.ub x) = none → Traps i s c Cause.illegalOperand (wordOf i) none) ∧
    (∀ ctx clu, c.saveTarget s' (c.ub x) = some (ctx, clu) →
      let answers (i : Instr) (t : State) (w : Word) : Prop := Completes i s c (c.modTeam t fun u => u.setS d.toNat w)
      (admission (.ctxs d x) s = .ok c s' →
        let late : Prop := 0 < c.p.prog ∧ c.p.prog - 1 + 50000 ≤ s'.ns
        let going : Prop := ctx ∈ (s'.clu clu).saving
        (c.p.prog = 0 → s'.residentState ctx clu = false → answers (.ctxs d x) s' 1) ∧
        (0 < c.p.prog → ¬ going →
          answers (.ctxs d x) s' (if (s'.image? ctx clu).isSome then 0 else Cause.forcedReset.setWidth 32)) ∧
        (going → late → answers (.ctxs d x) (s'.forceReset ctx clu) (Cause.forcedReset.setWidth 32)) ∧
        ((if c.p.prog = 0 then s'.residentState ctx clu = true else going ∧ ¬ late) →
          ((s'.settleContext ctx clu).1 = true → answers (.ctxs d x) ((s'.settleContext ctx clu).2.saveAndFree ctx clu) 0) ∧
          ((s'.settleContext ctx clu).1 = false →
            let kept := (s.settleContext ctx clu).2.modClu clu fun k =>
              { k with saving := if k.saving.contains ctx then k.saving else k.saving ++ [ctx] }
            Parks (.ctxs d x) s c (c.modPath kept fun p => { p with prog := if c.p.prog = 0 then s'.ns + 1 else c.p.prog }) .saving))) ∧
      (admission (.ctxl d x) s = .ok c s' →
        (s'.image? ctx clu = none → answers (.ctxl d x) s' 1) ∧
        ∀ i, s'.image? ctx clu = some i →
          (s'.restorable ctx clu i = true → answers (.ctxl d x) (s'.restoreContext ctx clu) 0) ∧
          (s'.restorable ctx clu i = false → Parks (.ctxl d x) s c s' .saving)))

/-- XTRIG halts its context's other paths of the package; TRON switches a context's tracing on or off on every die, its own or, from the
firmware slot, the one it names, and traps on reserved bits; EXPD reads its aligned block and starts a trial on its cluster, unless the
block is bad or one runs there. -/
def Obligations.DebugInstructions : Prop :=
  ∀ (x : Code) (r : BitVec 5) (s s' t t1 : State) (c : Ctx) (a : LaneAcc) (vals : Tab Nat) (st : Clock), c.active ≠ 0 →
    let w := (c.ub x).toNat
    let b := (vals.headD (0, 0)).2
    let va := (c.s2 r).toNat
    (admission .xtrig s = .ok c s' → Completes .xtrig s c (s'.haltContext c.t.ctx c.die none)) ∧
    (admission (.tron x) s = .ok c s' →
      let ctx := if c.t.fw then w / 2 ^ 8 % 64 else c.t.ctx
      let clean : Prop := w / 2 % 2 ^ 7 = 0 ∧ w < (if c.t.fw then 2 ^ 14 else 2 ^ 8)
      (¬ clean → Traps (.tron x) s c Cause.illegalOperand (wordOf (.tron x)) none) ∧
      (clean → ∃ t2 : State, Completes (.tron x) s c t2 ∧ (∀ d < 4, ∀ k < 64, (t2.die d).traced.getLsbD k =
        if k = ctx then decide (w % 2 = 1) else (s'.die d).traced.getLsbD k) ∧ t2.mem = s'.mem)) ∧
    (admission (.expd r) s = .ok c s' → va % 64 ≠ 0 → TrapsWith (.expd r) s c ⟨Cause.align, 0, va, some c.active, c.f.addr⟩) ∧
    (admission (.expd r) s = .ok c s' → va % 64 = 0 → Accesses c s' [(c.lane0, va)] 64 true false true false [a] t → Loads c t [a] 64 t1 vals st →
      (trialOk b = false → Traps (.expd r) s c Cause.illegalOperand (wordOf (.expd r)) none) ∧
      (trialOk b = true → (t1.clu c.clu).trial.isSome = true → Traps (.expd r) s c Cause.priv (wordOf (.expd r)) none) ∧
      (trialOk b = true → (t1.clu c.clu).trial = none → ∃ t2 q, Completes (.expd r) s c t2 ∧ .trialPhaseEnd c.clu ∈ t2.pending ∧
        (t2.clu c.clu).trial = some q ∧ q.ctx = c.t.ctx ∧ q.start = b % 2 ^ 64 ∧ q.stop = b / 2 ^ 64 % 2 ^ 64 ∧ q.delay = false))

/-! ## Events: the device and its management -/

/-- A cold reset leaves nothing running and boots; memory keeps its contents (log 25). A power loss keeps host memory and the flash, whose
chosen marker copy no update touches. The alarm is set by SECURITY_ALARM. An update writes the slot that was not booted and the marker copy
that boot did not choose, with the next sequence number; a recovery image that verifies runs, in place of the slot that the chosen copy
names (the model's choice, log 24), and ends the row of failed signatures. The attestation report holds the measurements of the image that
booted and of every loaded overlay, and their signature. The device enters a power state once its conditions have held for 100 µs, wakes to
PS0, and notes a patrol scrub, with which an error may strike (the model's choice, log 45). -/
def Obligations.ResetBootAndPower : Prop :=
  ∀ (s : State) (i : FlashImage) (cut : FlashCut) (b : Bool),
    (∃ t, Leads .coldReset s t ∧ t.mem = s.mem ∧ t.cycle = 0 ∧ t.ctxs = [] ∧ t.cards = [] ∧ t.tasks = [] ∧ t.objs = [] ∧
      (∀ p ∈ t.teams, p.2.fw = true) ∧ t.mgmt.fuseVersion = s.mgmt.fuseVersion ∧ t.mgmt.slotA = s.mgmt.slotA ∧ t.mgmt.slotB = s.mgmt.slotB ∧
      (s.mgmt.keys = true → s.mgmt.verifies (s.mgmt.slot s.mgmt.choose.2) = true → t.mgmt.booted = some s.mgmt.choose.2)) ∧
    (∃ t, Leads (.powerLoss cut) s t ∧ (∀ pa, t.mem.read pa = if isHostAp pa then s.mem.read pa else State.reset.mem.read pa) ∧
      t.teams = [] ∧ t.ctxs = [] ∧ t.mgmt.fuseVersion = s.mgmt.fuseVersion ∧ t.mgmt.booted = none ∧
      (if s.mgmt.chosen then t.mgmt.marker1 = s.mgmt.marker1 else t.mgmt.marker0 = s.mgmt.marker0) ∧
      (∀ i n, cut = .markerWrite i n → s.mgmt.booted = some b → t.mgmt.slot (!b) = i ∧ t.mgmt.slot b = s.mgmt.slot b) ∧
      (cut = .idle → t.mgmt.slotA = s.mgmt.slotA ∧ t.mgmt.slotB = s.mgmt.slotB ∧ t.mgmt.marker0 = s.mgmt.marker0 ∧
        t.mgmt.marker1 = s.mgmt.marker1)) ∧
    (∃ t, Leads .securityAlarm s t ∧ t.mgmt.alarm = true) ∧
    (s.mgmt.booted = some b → ∃ t, Leads (.imageUpdate i) s t ∧ t = { s with mgmt := t.mgmt } ∧ t.mgmt.slot (!b) = i ∧
      t.mgmt.slot b = s.mgmt.slot b ∧ t.mgmt.booted = some b ∧
      (if s.mgmt.chosen then t.mgmt.marker1 = s.mgmt.marker1 ∧ ∃ n, t.mgmt.marker0 = markerBytes n (!b) ∧
          ∀ m c, markerOf s.mgmt.marker1 = some (m, c) → n = m + 1
        else t.mgmt.marker0 = s.mgmt.marker0 ∧ ∃ n, t.mgmt.marker1 = markerBytes n (!b) ∧
          ∀ m c, markerOf s.mgmt.marker0 = some (m, c) → n = m + 1)) ∧
    (s.mgmt.booted = none → s.mgmt.alarm = false → s.mgmt.keys = true → s.mgmt.verifies i = true →
      ∃ t, Leads (.recoveryImage i) s t ∧ t = (s.modMgmt fun m => { m with sigFails := 0 }).runImage s.mgmt.choose.2 i ∧
        t.mgmt.booted = some s.mgmt.choose.2 ∧ t.mgmt.image = i.body ∧ t.mem = s.mem) ∧
    (∃ t, Leads .attestationRequest s t ∧ t = s.modMgmt (fun m => { m with report := t.mgmt.report }) ∧ ∃ ms : List (BitVec 256),
      t.mgmt.report = (ms.flatMap fun x => natLe 32 x.toNat) ++ Config.attestationSignature ms ∧
      (s.mgmt.booted.isSome = true → Config.measurement s.mgmt.image ∈ ms) ∧
      ∀ core n o, core ∈ s.cores → core.2.overlay = some n → s.mgmt.overlays.get? n = some o →
        Config.measurement (o.flatMap fun p => natLe 16 p.2.toNat) ∈ ms) ∧
    (s.ps1 = true → s.mgmt.idleSince + 100000 ≤ s.ns → Leads .powerStateEntry s (s.markBusy.modMgmt fun m => { m with power := s.deepest })) ∧
    (s.ps1 = false → Leads .powerStateEntry s (s.modMgmt fun m => { m with idleSince := s.ns, quietSince := s.ns, stillSince := s.ns })) ∧
    (s.deepest ≤ 4 ∧ (3 ≤ s.deepest → s.quiet = true ∧ s.mgmt.quietSince + 100000 ≤ s.ns) ∧
      (s.deepest = 4 → s.still = true ∧ s.mgmt.stillSince + 100000 ≤ s.ns)) ∧
    Leads .powerWake s (s.modMgmt fun m => { m with power := 0, idleSince := s.ns }) ∧
    (∃ t, Leads .patrolScrub s t ∧ t = (s.modMgmt fun m => { m with lastScrub := s.ns }).strike ∧ t.mgmt.lastScrub = s.ns ∧ t.mem = s.mem)

/-- Register writes, by the access code of each register, and what a read of BAR0 returns; a context is created from a sound entry while its VALID is
0, with every tensor descriptor invalid, and ends with VALID 0; a pool's entry is written while invalid; a job that nobody claims for
1 ms is posted again in class 5, with the overdue job's class, index, context and cluster; a loaded overlay stands in its core's store, and the FWCALLs that wait for it enter it. -/
def Obligations.RegistersContextsAndJobs : Prop :=
  ∀ (s : State) (core die team csr ctx pool cls idx n fn : Nat) (v : DWord) (w : Word) (e : BitVec 512),
    Leads (.registerWrite (.bar0 0 8) v) s (s.putBar 0 8 (v &&& 0xFFFFFF)) ∧
    (fn ≤ 16 → fn ≠ 0 → Leads (.registerWrite (.bar0 fn 8) v) s s) ∧
    (fn ≤ 16 → Leads (.registerWrite (.bar0 fn 0x400) v) s (s.putBar fn 0x400 (v &&& 0xFFFFFFFFF))) ∧
    (fn ≤ 16 → s.readBar fn 0 = BitVec.ofNat 64 fn ∧
      s.readBar fn 0x10 = BitVec.ofNat 64 ((if s.mgmt.alarm then 1 else 0) + s.mgmt.power % 8 * 2) ∧ (fn ≠ 0 → s.readBar fn 8 = 0) ∧
      (s.putBar fn 0x400 v).readBar fn 0x400 = v ∧ ∀ k q, s.barQueue fn k = some q →
        s.readBar fn (0x10000 + 32 * k + 24) = (s.mgmt.cmd q).rdidx ++ (s.mgmt.cmd q).wridx) ∧
    (core < Config.cores → Leads (.registerWrite (.csr core n) v) s
      (s.csrWrite ⟨core, s.seq, s.ctxSel (dieOfCore core)⟩ n (v.setWidth 32))) ∧
    (core < Config.cores → ((s.core core).csr.getD 0x800 0).toNat < 8 →
      (2 ≤ w.toNat → w.toNat ≤ 6 → Leads (.droopcfgWrite core w) s (s.modCore core fun c => { c with csr := Tab.store 0 c.csr 0x800 w })) ∧
      (w = 0 ∨ w = 1 ∨ w = 7 → Leads (.droopcfgWrite core w) s s)) ∧
    (die < Config.dies → ∃ t, Leads (.apinv die w) s t ∧ (t.die die).apcache.get? w.toNat = none ∧ t.mem = s.mem) ∧
    (∀ u, s.team? team = some u → ∃ t, Leads (.statusClear team w) s t ∧ t = { s with teams := t.teams } ∧
      t.team? team = some { u with status := u.status &&& ~~~(w.setWidth 16 &&& ~~~u.fresh) }) ∧
    (∀ u, s.team? team = some u → csr = 0x000 ∨ csr = 0x002 → ∃ t, Leads (.latchingRead team csr) s t ∧ t = { s with teams := t.teams } ∧
      t.team? team = some (if csr = 0 then { u with cycleh := BitVec.ofNat 32 (s.cycle / 2 ^ 32) }
        else { u with timeh := BitVec.ofNat 32 (s.ns / 2 ^ 32) })) ∧
    (ctx < 64 → (s.ctx ctx).entry.getLsbD 0 = false → entryOk e.toNat (s.clustersOf ctx).length = true →
      ∃ t, Leads (.contextCreation ctx e) s t ∧ (t.ctx ctx).entry = e ||| 1 ∧ (∀ k, k ≠ ctx → t.ctx k = s.ctx k) ∧ t.mem = s.mem ∧
        ∀ clu i, i < 64 → (t.clu clu).tdesc.getD (64 * ctx + i) 0 = 0) ∧
    (ctx < 64 → ((s.ctx ctx).entry.getLsbD 0 = true ∨ entryOk e.toNat (s.clustersOf ctx).length = false) →
      Leads (.contextCreation ctx e) s s) ∧
    (ctx < 64 → ∃ t, Leads (.contextDestruction ctx) s t ∧ (t.ctx ctx).entry = (s.ctx ctx).entry &&& ~~~1 ∧
      (∀ o q, t.objs.get? o = some q → q.ctx ≠ ctx ∨ s.objs.get? o ≠ some q) ∧ t.mem = s.mem) ∧
    (ctx < 64 → pool < 64 → (bits (s.poolEntry ctx pool) 0 1 = 0 ∨ e.getLsbD 0 = false) → Leads (.poolConfiguration ctx pool e) s
      ((s.engineWrite 0 ctx (atAddr (s.poolAddr ctx pool) (natLe 64 e.toNat))).2.modCtx ctx fun c => { c with rr := c.rr.put pool 0 })) ∧
    (ctx < 64 → pool < 64 → bits (s.poolEntry ctx pool) 0 1 = 1 → e.getLsbD 0 = true → Leads (.poolConfiguration ctx pool e) s s) ∧
    (∀ j, ((s.die die).jobs.getD cls []).find? (fun j => j.idx = idx) = some j → j.claimed = false → j.reposted = false → cls < 8 →
      j.posted + 1000000 ≤ s.ns → s.jobRoom die 5 = true → ∃ (t : State) (js : List Job) (k : Job), Leads (.jobWatchdog die cls idx) s t ∧
        (t.die die).jobs.getD 5 [] = js ++ [k] ∧ (∀ c u, s.jobPlace cls j = (c, u) →
          k.w1 = BitVec.ofNat 32 (Cause.watchdog.toNat + c % 64 * 2 ^ 8 + u % 64 * 2 ^ 14)) ∧ k.w2 = BitVec.ofNat 32 cls ∧ k.w3 = BitVec.ofNat 32 idx ∧
        k.claimed = false ∧ t.mem = s.mem) ∧
    (core < Config.cores → (s.mgmt.overlays.get? n).isSome = true →
      (∃ t, Leads (.overlayLoadComplete core n) s t ∧ (t.core core).overlay = some n ∧ t.mem = s.mem) ∧
      ((∀ q ∈ s.teams, q.2.fw = true → q.2.core = core → ∀ p ∈ q.2.paths, p.2.st ≠ .parked (.overlay n)) →
        Leads (.overlayLoadComplete core n) s (s.modCore core fun c => { c with overlay := some n })) ∧
      ∀ u p, s.teams = [(team, u)] → u.fw = true → u.core = core → u.place = .resident → u.paths = [(idx, p)] →
        p.st = .parked (.overlay n) → ∃ t u' p', Leads (.overlayLoadComplete core n) s t ∧ t.team? team = some u' ∧
          u'.paths.get? idx = some p' ∧ p'.pc = p.waitPc ∧ p'.st = .ready ∧ u'.sreg 30 = BitVec.ofNat 32 (s.overlayOf core) ∧
          u'.sreg 31 = BitVec.ofNat 32 (p.pc / 16 * 16 + 16))

/-! ## Events: the host's queues and packets -/

/-- Doorbells, acted on once the host writes received before them are performed, and queue states; the BAR2 window; completion queues,
whose oldest entry is written once the ring has room and whose interrupt covers every pending one; packets of each type, which start in
order; the appending of a WORK packet's records, the reading of a WAIT's signals; and the rings of service calls. The model's own choices
here are log 12 (the rings' sizes and layout), log 38 (a GRAPH packet's decrement of its root), log 40 (malformed packets, BAR0 writes)
and log 44 (the request ring is emptied at once; SVCERR counts on die 0; a second reply of a lane stands in place of the first). -/
def Obligations.HostQueuesAndPackets : Prop :=
  ∀ (s s1 s2 : State) (q idx p ctx : Nat) (w : Word) (v : DWord) (entry : BitVec 128) (fn off pa : Nat) (bs : List Byte) (n : Nat),
    let c := s.mgmt.cpl q
    ((s.funcOfQueue q).isSome = true →
      ((s.mgmt.cmd q).bells = [] → s.hostIds.any s.writeOpen = false →
        Leads (.doorbell q w) s ((s.wake.modCmdq q fun c => { c with wridx := w, bells := [] }).pokeQueue q)) ∧
      ((s.mgmt.cmd q).bells = [] → s.hostIds.any s.writeOpen = true → Leads (.doorbell q w) s
        (((s.wake.modCmdq q fun c => { c with bells := [⟨0, some w, s.hostIds⟩] }).postOnce (.markerPacket q)).pokeQueue q)) ∧
      Leads (.queueDisable q) s (s.modCmdq q fun c => { c with st := 0 }) ∧
      Leads (.queueAbortWrite q) s (s.modCmdq q fun c => { c with st := 2 })) ∧
    (s.queueOwn q = true → (s.mgmt.cmd q).st ≠ 1 → Leads (.queueEnable q) s (s.modCmdq q fun c => { c.rung with st := 1, rdidx := c.rung.wridx })) ∧
    (s.window fn off bs.length = some pa → s.hostHeld = none →
      Leads (.hostWindowWrite fn off bs) s (s.engineWrite 0 hostCtx (atAddr pa bs)).2) ∧
    (s.window fn off bs.length = some pa → s.hostHeld.isSome = true → ∃ t, Leads (.hostWindowWrite fn off bs) s t ∧ t.mem = s.mem) ∧
    (s.window fn off bs.length = none → Leads (.hostWindowWrite fn off bs) s s) ∧
    (s.window fn off n = some pa → ∃ t, Leads (.hostWindowRead fn off n) s t ∧ t.mgmt.readData = if t.badAt pa n then [] else readRun t.homeByte pa n) ∧
    (s.window fn off n = none → Leads (.hostWindowRead fn off n) s (s.modMgmt fun m => { m with readData := [] })) ∧
    (∃ t, Leads (.cqHeadWrite q w) s t ∧ (t.mgmt.cpl q).head = w ∧ (t.mgmt.cpl q).waiting = c.waiting ∧ t.mem = s.mem) ∧
    (∃ t, Leads (.cqRingReset q false v) s t ∧ (t.mgmt.cpl q).base = v.setWidth 56 ∧ (t.mgmt.cpl q).tail = 0) ∧
    (v.toNat % 16 ≤ 10 → ∃ t, Leads (.cqRingReset q true v) s t ∧ (t.mgmt.cpl q).size = v.toNat % 16 ∧ (t.mgmt.cpl q).tail = 0) ∧
    (∀ e rest, c.waiting = e :: rest →
      (c.ring ≤ (c.tail - c.head).toNat → Leads (.completionEntryPost q) s s) ∧
      ((c.tail - c.head).toNat < c.ring → (s.engineWrite 0 64 (atAddr c.slot (natLe 16 (e.toNat + c.phase * 2 ^ 127)))).2 = s1 →
        ∃ t, Leads (.completionEntryPost q) s t ∧ (t.mgmt.cpl q).tail = (s1.mgmt.cpl q).tail + 1 ∧ (t.mgmt.cpl q).waiting = rest ∧
          t.mem = s1.mem)) ∧
    (c.en = true → c.pendingN ≠ 0 → c.pendingSince + 1000 * c.timer ≤ s.ns → ∃ t, Leads (.cqInterruptTimer q) s t ∧
      (t.mgmt.cpl q).pendingN = 0 ∧ t.mgmt.msix = ((s.funcOfQueue q).getD 0, c.vector) :: s.mgmt.msix) ∧
    (s.nextPacket q = (some p, s1) → s1.startPacket q p = (idx, s2) → packetOk p = true →
      (pType p = 1 → Leads (.workPacket q) s ((s2.post (.workRecordAppend q idx)).pokeQueue q)) ∧
      (pType p = 2 → Leads (.waitPacket q) s ((s2.post (.waitSignalRead q idx)).pokeQueue q)) ∧
      (pType p = 4 → s.trackerFull (.queue q) = false → ∀ s3 img, s2.frontRead (s2.mgmt.cmd q).ctx (bits p 64 64) 128 = (.inl img, s3) →
        cardOk (leNat img) 0 0 = true → Leads (.copyPacket q) s
          ((s3.submitCard (.queue q) (s2.mgmt.cmd q).ctx 0 0 0 0 0 (bits p 64 64) (leNat img) (some (q, idx))).2.pokeQueue q)) ∧
      (pType p = 5 → (s.mgmt.cmd q).started = [] → ∀ s3 a sc, s2.frontXlat (s.mgmt.cmd q).ctx (bits p 64 64) true = (.ok a sc, s3) →
        Leads (.graphPacket q) s
          ((s3.settleAll.sendDecrement (.die 0) 0 (s.mgmt.cmd q).ctx (bits p 64 64) a Scope.package (some (q, idx))).2.pokeQueue q)) ∧
      (pType p = 6 → (∀ x ∈ (s.mgmt.cmd q).started, x.aborted = none) →
        let t := (s2.finishMarkers q ((s2.mgmt.cmd q).started.length + 1)).pokeQueue q
        ((t.mgmt.cmd q).bells = [] → Leads (.markerPacket q) s t ∨ Leads (.markerPacket q) s (t.pokeQueue q)) ∧
        ((t.mgmt.cmd q).bells ≠ [] → Leads (.markerPacket q) s (t.pokeBells q)))) ∧
    ((∀ x ∈ (s.mgmt.cmd q).started, x.done = false) → let s0 := s.settleAll
      (s0.allVisible = false → Leads (.signalPacket q) s (s0.postOnce (.signalPacket q))) ∧
      (s0.allVisible = true → s0.nextPacket q = (some p, s1) →
        s1.startPacket q p = (idx, s2) → packetOk p = true → pType p = 3 → Leads (.signalPacket q) s ((s2.sendSignal q idx p).pokeQueue q))) ∧
    (s.nextPacket q = (some p, s1) → s1.startPacket q p = (idx, s2) → packetOk p = false → pType p = 1 →
      Leads (.workPacket q) s (s2.abortPacket q idx Cause.cmdInvalid minusOne)) ∧
    (∀ k r, s.started? q idx = some k → pType k.header.toNat = 1 →
      s.frontRead (s.mgmt.cmd q).ctx (bits k.body.toNat 64 64 + 64 * k.appended) 64 = (.inl r, s1) →
      (s1.recordOk (s.mgmt.cmd q).ctx (leNat r) = (false, s2) →
        Leads (.workRecordAppend q idx) s (s2.finishPacket q idx Cause.workInvalid)) ∧
      (s1.recordOk (s.mgmt.cmd q).ctx (leNat r) = (true, s2) → s2.ringsFit (s.mgmt.cmd q).ctx [leNat r] = true →
        let s3 := (s2.appendRecord (s.mgmt.cmd q).ctx (leNat r) (.packet q idx)).modStarted q idx fun p => { p with appended := p.appended + 1 }
        Leads (.workRecordAppend q idx) s
          (if k.appended + 1 < bits k.body.toNat 128 32 then s3.post (.workRecordAppend q idx) else s3.finishPacket q idx 0))) ∧
    (∀ k, s.started? q idx = some k → pType k.header.toNat = 2 →
      let r := s.waitEntries (s.mgmt.cmd q).ctx k.body.toNat (List.range 6) .met
      (r = (.met, s1) → Leads (.waitSignalRead q idx) s (s1.settleAll.finishPacket q idx 0)) ∧
      (r = (.notYet, s1) → Leads (.waitSignalRead q idx) s (s1.post (.waitSignalRead q idx))) ∧
      (r = (.negative v, s1) → Leads (.waitSignalRead q idx) s (s1.abortPacket q idx Cause.peerAbort v)) ∧
      (∀ cause, r = (.fault cause, s1) → Leads (.waitSignalRead q idx) s (s1.abortPacket q idx cause minusOne))) ∧
    (ctx < 64 → (s.ctx ctx).calls = [] → Leads (.svcRequestRoom ctx) s (s.modCtx ctx fun c => { c with room := 1024, requests := [] })) ∧
    (ctx < 64 → let call := bits entry.toNat 0 32
      let lane := bits entry.toNat 32 16
      let s0 := s.settleAll
      let m := (s0.ctx ctx).nextReply % 65536
      let waits : Prop := s0.hostIds ≠ [] ∨ s0.unapplied 0 = true ∨ (s0.ctx ctx).replyHeld m = true
      let t0 := (s0.homePut (atAddr (replySlot ctx m) (natLe 16 entry.toNat))).modCtx ctx fun c => { c with nextReply := m + 1 }
      (waits → Leads (.svcReply ctx entry) s (s0.post (.svcReply ctx entry))) ∧
      (¬ waits →
        ((∀ k, (t0.ctx ctx).calls.get? call = some k → lane ∉ k.lanes ∨ k.sent = false) →
          Leads (.svcReply ctx entry) s (t0.countCtx 0 ctx 0x872)) ∧
        ∀ k, (t0.ctx ctx).calls.get? call = some k → lane ∈ k.lanes → k.sent = true → ∃ t k', Leads (.svcReply ctx entry) s t ∧
          (t.ctx ctx).calls.get? call = some k' ∧ k'.replies.get? lane = some m ∧ t.mem = t0.mem))

/-! ## Events: work, time and the schedule -/

/-- Records reach clusters in turn and gather into teams, which launch when their window has run; a group is admitted whole to its
context's cluster; a feed pool's record enters its feed queue. EDF periods refill the budget and move the deadline on; a stop is
requested at DRAIN, a slice ends with the budget, a context that stays is pre-empted, and a save that takes too long becomes a forced
reset. A sleep ends, a trial's phases follow each other, outstanding instructions complete, and what is due later is done then. The model's
own choices here are log 34 (the former always has room; which waiting groups admission looks at), log 43 (delay debts end with the trial),
log 47 (which path takes a deferred cause) and log 49 (the slot an admitted team takes; where a feed record counts). -/
def Obligations.WorkTimeAndSchedule : Prop :=
  ∀ (s s1 s2 : State) (ctx pool clu i id tid pid r h : Nat) (src : Origin) (core tag line : Nat),
    (let s0 := s.retryCompletion ctx pool;
      s0.headRecord ctx pool = some (r, src) → poolFeed (s0.poolEntry ctx pool) = false →
      nextInTurn (s0.clustersOf ctx) ((s0.ctx ctx).rr.getD pool 0) = some clu →
      ((s0.dropHead ctx pool).modCtx ctx fun c => { c with rr := c.rr.put pool (clu + 1) }).header ctx (recEntry r) = (some h, s1) →
      Leads (.recordDistribute ctx pool) s (s1.formRecord clu ctx pool r src h)) ∧
    (∀ f, s.forming.get? id = some f →
      Leads (.gatherWindowExpiry id) s (if s.windowRun f then s.wake.launchForming id f else s.post (.gatherWindowExpiry id))) ∧
    (∀ l place, s.chooseSlice clu = s1 → s1.runningCtx clu = some ctx → (s1.clu clu).stopReq = false → ctx ∉ (s1.clu clu).saving → s1.image? ctx clu = none →
      s1.admissible clu ctx (s1.clu clu).waiting 0 none = some (i, l, place) → Leads (.groupAdmission clu) s
        (((s1.modClu clu fun c => { c with waiting := c.waiting.eraseIdx i }).admitGroup clu l place).post (.groupAdmission clu))) ∧
    (let e := s.poolEntry ctx pool
      ∀ x, s.headRecord ctx pool = some (r, src) → (s.clu (bits e 88 6)).queues.get? (bits e 94 6) = some x →
        s.takesFeed ctx (bits e 88 6) x = true → poolValid e = true → poolFeed e = true → s.queueLocked (bits e 88 6) (bits e 94 6) = false →
        let fed (s : State) : List (Nat × Origin × Nat) := (s.clu (bits e 88 6)).feeds.getD (feedKey x (bits e 94 6)) []
        ∃ t, Leads (.feedAppend ctx pool) s t ∧ fed t = fed (s.dropHead ctx pool) ++ [(64 * ctx + pool, src, 16)]) ∧
    (∀ e, s.edfEntry? clu i = some e → e.valid = true → e.deadline ≤ s.ns → ∃ t e', Leads (.edfPeriodStart clu i) s t ∧
      t.edfEntry? clu i = some e' ∧ e'.deadline = (e.deadline + e.period) % 2 ^ 64 ∧ e'.remain = e.budget - e.carry ∧
      e'.carry = e.carry - e.budget ∧ t.mem = s.mem) ∧
    (∀ e, s.runningEdf clu = some (i, e) →
      ((s.clu clu).stopReq = false → s.edfRemain clu i ≤ e.drain →
        ∃ t, Leads (.stopRequest clu) s t ∧ (t.clu clu).stopReq = true ∧ t.teams = s.teams ∧ t.mem = s.mem) ∧
      (s.anyResident e.ctx clu = false → s.edfRemain clu i = 0 → Leads (.sliceEnd clu) s (s.freeCluster clu e.ctx)) ∧
      (s.edfRemain clu i = 0 → s.anyResident e.ctx clu = true →
        (∀ k ∈ s.teamsAt e.ctx clu .resident, ∀ u, s.team? k = some u → u.leaving = false) →
        Leads (.sliceEnd clu) s ((s.hardPreempt clu).postOnce (.sliceEnd clu))) ∧
      (s.edfRemain clu i = 0 → s.anyResident e.ctx clu = true → (s.clu clu).overrun = none →
        ∃ t, Leads (.hardPreemption clu) s t ∧ (∀ k ∈ s.teamsAt e.ctx clu .resident, ∀ u, t.team? k = some u → u.stopped = true) ∧
          (t.clu clu).saveTimer = some ((s.clu clu).runSince + e.remain + 50000) ∧ t.mem = s.mem)) ∧
    (∀ t0, (s.clu clu).saveTimer = some t0 → s.runningCtx clu = some ctx → t0 ≤ s.ns →
      Leads (.saveTimerExpiry clu) s (s.forceReset ctx clu)) ∧
    (∀ u p k, s.team? tid = some u → u.paths.get? pid = some p → p.st = .parked (.sleep k) → k ≤ s.ns →
      Leads (.sleepExpiry tid pid) s (s.wake.modPath tid pid fun p => { p with st := .ready, since := s.cycle })) ∧
    (∀ q, (s.clu clu).trial = some q → q.began + 1000 * q.t ≤ s.ns →
      (q.delay = true → Leads (.trialPhaseEnd clu) s (s.wake.finishTrial clu false)) ∧
      (q.delay = false → ∃ t q', Leads (.trialPhaseEnd clu) s t ∧ (t.clu clu).trial = some q' ∧ q'.delay = true ∧
        q'.e0 = s.ns - q.began ∧ q'.p0 = s.trialGrowth clu q ∧ q'.began = s.ns)) ∧
    (∀ u o, s.team? tid = some u → u.outst.find? (fun o => o.id = id) = some o →
      Leads (.instructionComplete tid id) s (if s.condHolds u o.cond then
        (s.modTeam tid fun t => { t with outst := t.outst.filter fun o => o.id ≠ id }).condDone o.cond
        else (match o.cond with
          | .svc call => if u.place = Place.resident then s.svcSave tid call else s
          | _ => s).post (.instructionComplete tid id))) ∧
    Leads (.ldaLanded tid tag) s (s.modTeam tid fun t => { t with tags := t.tags.modify tag fun g => { g with landed := true } }) ∧
    (∀ u cs, s.team? tid = some u → u.deferred ≠ [] → u.place = .resident → u.inHandler = false →
      s.candidates u.core (!u.fw && u.xfront) = (cs, s1) →
      ∃ (t : State) (k : Nat), Leads (.deferredTrap tid) s t ∧ (t = s1.deliverDeferred tid k ∨ t = (s1.deliverDeferred tid k).postOnce (.deferredTrap tid)) ∧
        ∀ b, bestOf (cs.filter fun c => c.tid = tid) = some b → k = b.pid) ∧
    (Leads (.priorityAging tid pid) s s ∧ ∀ b w, b ≤ 9 → agedLevel b w ≤ 9 ∧ agedLevel b (w + 256) = min 9 (agedLevel b w + 1)) ∧
    (∀ u p, s.team? tid = some u → u.paths.get? pid = some p → s.traced u = true → u.place ≠ .ended → p.needSync = false →
      Leads (.traceSyncTimer tid pid) s (if u.place = .resident ∧ s.syncDue u p = true then
        s.traceSync tid u pid (slotAddr p.pc) p.mask else s.postOnce (.traceSyncTimer tid pid))) ∧
    (∀ e u, (s.core core).posted.get? tag = some e → s.pending.any (isStore e.store) = true →
      (s.dropStore core e.store).modCore core (fun c => { c with posted := c.posted.del tag }) = s2 → s2.team? e.team = some u →
      u.place ≠ .ended → Leads (.lateStoreFault core tag) s (s2.deferTrap e.team ⟨Cause.lateStore, BitVec.ofNat 32 tag, e.va, none, none⟩)) ∧
    (∃ t, Leads (.postedStoreAck core tag) s t ∧ (t.core core).posted.get? tag = none ∧
      (∀ k, k ≠ tag → (t.core core).posted.get? k = (s.core core).posted.get? k) ∧ t = { s with cores := t.cores }) ∧
    (∀ l, s.l1? core line = some l → l.dirty ≠ 0 → l.dirtyAt + 2000 ≤ s.ns → ∃ t l', Leads (.narrowWritebackTimer core line) s t ∧
      t.l1? core line = some l' ∧ l'.dirty = 0 ∧ l'.data = l.data ∧ t.mem = s.mem)

/-! ## Events: the engines -/

/-- Cards start behind the cards they conflict with, move their bytes and complete; collective ranks take the data of peers whose
parameters agree with theirs, end where they differ or a peer fails, and give up after 100 ms; a graph node dispatches when due and retires
when its work is over and visible; definitions complete or fail, reads end, and tile
tasks dispatch in order to an engine with a free bank and advance by step blocks. -/
def Obligations.EngineEvents : Prop :=
  ∀ (s s1 : State) (id rank clu name core ctx n x : Nat) (k : Card) (bs : List Byte) (cause : Byte)
    (head : PeerHead) (tag : Nat),
    (s.cards.get? id = some k → k.st = .waiting → (k.ofTeam = false ∨ s.image? k.ctx k.clu = none) →
      (∀ p ∈ s.tracker k.stream, p.2.order < k.order → p.2.conflicts k = false) → ∃ t, Leads (.cardStart id) s t ∧
        t.cards.get? id = some { k with st := .running, began := s.ns } ∧ .cardTransfer id ∈ t.pending ∧ t.mem = s.mem) ∧
    (s.cards.get? id = some k → k.st = .running →
      let m := if cardEngine k.img.toNat = 1 then s.copyStep k else if cardEngine k.img.toNat = 2 then s.gatherStep k else s.colStep k
      (∀ k', m = (.ok k', s1) → Leads (.cardTransfer id) s (({ s1 with cards := s1.cards.put id k' } : State).post (.cardTransfer id))) ∧
      (m = (.finished, s1) → Leads (.cardTransfer id) s (s1.endCard id 0)) ∧
      (∀ st, m = (.stop st, s1) → Leads (.cardTransfer id) s (s1.endCard id st)) ∧
      (∀ wr va, m = (.fault cause wr va, s1) → cardReplay k.img.toNat = false → Leads (.cardTransfer id) s (s1.endCard id cause))) ∧
    (∀ st, s.cards.get? id = some k → k.st = .ending st → let s0 := s.settleAll
      s0.cardAway k = false →
      ((k.stores.any s0.writeOpen = true ∨ s0.unapplied (dieOfClu k.clu) = true) → Leads (.cardComplete id) s (s0.post (.cardComplete id))) ∧
      (k.stores.any s0.writeOpen = false → s0.unapplied (dieOfClu k.clu) = false → cardSigen k.img.toNat = false →
        cardArren k.img.toNat = false → (∃ tm, k.stream = .team tm) → k.packet = none → Leads (.cardComplete id) s
          (if s0.awaited id then s0.modCard id fun k => { k with st := .done st, stores := [] }
            else { s0 with cards := s0.cards.del id }))) ∧
    (s.cards.get? id = some k → k.live = true → cardEngine k.img.toNat = 3 →
      let here := s.wake.modMgmt fun m => { m with lastFabric := s.ns }
      let mine := cardHead k.img.toNat
      ((∃ r < colRanks k.img.toNat, r ≠ colRank k.img.toNat ∧ k.heard.get? r = none) → k.began + 100000000 ≤ s.ns →
        Leads (.collectiveTimeout id) s (s.wake.endCard id Cause.peerAbort)) ∧
      (rank < colRanks k.img.toNat → rank ≠ colRank k.img.toNat →
        (head.tag ≠ mine.tag ∨ (k.heard.get? rank).isSome = true → Leads (.collectivePeerMessage id rank (.data head bs)) s here) ∧
        (head.tag = mine.tag → k.heard.get? rank = none →
          (headsDiffer head mine = true ∨ bs.length ≠ (cardFoot k.img.toNat 0).len →
            Leads (.collectivePeerMessage id rank (.data head bs)) s (here.endCard id Cause.cardInvalid)) ∧
          (headsDiffer head mine = false → bs.length = (cardFoot k.img.toNat 0).len →
            Leads (.collectivePeerMessage id rank (.data head bs)) s (here.modCard id fun k => { k with heard := k.heard.put rank bs }))) ∧
        Leads (.collectivePeerMessage id rank (.abort tag)) s (if tag = mine.tag then here.endCard id Cause.peerAbort else here))) ∧
    (∀ node, (s.ctx ctx).nodes.get? n = some node →
      (node.due = true → Leads (.nodeRetire ctx n) s (s.dispatchNode ctx n node)) ∧
      (node.due = false → node.fail ≠ 0 → Leads (.nodeRetire ctx n) s (s.retireNode ctx n node none).2) ∧
      (node.due = false → node.fail = 0 → (0 < node.left ∨ node.gdone = true) → Leads (.nodeRetire ctx n) s s) ∧
      (node.due = false → node.fail = 0 → node.left = 0 → node.gdone = false → Leads (.nodeRetire ctx n) s
        (if s.settleAll.allVisible = true then (s.settleAll.retireNode ctx n node none).2 else s.settleAll.post (.nodeRetire ctx n)))) ∧
    (∀ h img, (s.name clu name).defn = some (.image h img) → (s.name clu name).st = .pending →
      Leads (.tileDefinitionComplete clu name) s (s.placeValue clu name (s.name clu name) h img)) ∧
    ((s.name clu name).defn = some (.failed cause) → Leads (.tileDefinitionFail clu name cause) s (s.failDefinition clu name cause)) ∧
    ((s.name clu name).defn ≠ some (.failed cause) → Leads (.tileDefinitionFail clu name cause) s s) ∧
    (∀ e, s.tstores.get? x = some e → e.started = false → s.image? e.ctx e.clu = none →
      let nm := s.name clu name
      let md := Desc.ofNat e.desc.toNat
      ∀ img ids, s.tileData clu name nm = .ok img →
        s.engineStores clu e.ctx (piecesOf e.va md.runs) (convertImage nm.shape { md.shape with orient := md.orient } img) [] = (.inl ids, s1) →
        Leads (.tileReadComplete clu name x) s
          (({ s1 with tstores := s1.tstores.put x { e with started := true, stores := ids } } : State).endRead clu name)) ∧
    (∀ task e, s.tasks.get? id = some task → task.st = .ready → s.freeBank task.clu core = some e →
      (∀ p ∈ s.tasks, p.2.clu = task.clu → p.2.st = .ready → task.serial ≤ p.2.serial) → s.emptyBank task.clu e = some s1 →
      let ha := (s1.operand task task.a).1
      let hb := (s1.operand task task.b).1
      let hc := (s1.operand task task.c).1
      let fp64 := decide (ha.fmt = 1)
      let fits := macShapes (task.ctl.toNat % 2 ^ 12) ha hb (if task.ctl.getLsbD 14 then none else some hc)
      (fits = false → Leads (.tileTaskDispatch id core) s (s1.failTask id Cause.tileShape)) ∧
      (fits = true → ∀ acc s2, s1.firstCells task (if fp64 then 64 else 128) (if fp64 then 32 else 64) = .ok acc →
        s1.stage task.clu (handleName task.b.toNat) e = .ok s2 → Leads (.tileTaskDispatch id core) s
          (({ s2 with tasks := s2.tasks.put id { task with st := .running e, fp64 := fp64, acc := acc } } : State).post (.tileStepBlock id)))) ∧
    (∀ task e, s.tasks.get? id = some task → task.st = .running e →
      ∀ ha ia g, s.stage task.clu (handleName task.b.toNat) e = .ok s1 → s1.operand task task.a = (ha, .ok ia) →
      (s1.core e).garnet.find? (fun g => g.name = handleName task.b.toNat) = some g →
      let depth := macDepth (macRow ha.fmt)
      let acc := task.block ha ia g.slice
      ∃ s2 : State, s2 = { s1 with cores := s2.cores } ∧
        ((task.step + 32 / depth) * depth < task.ctl.toNat % 2 ^ 12 → Leads (.tileStepBlock id) s
          (({ s2 with tasks := s2.tasks.put id { task with acc := acc, step := task.step + 32 / depth } } : State).post (.tileStepBlock id))) ∧
        (task.ctl.toNat % 2 ^ 12 ≤ (task.step + 32 / depth) * depth → Leads (.tileStepBlock id) s (s2.finishTask id task e acc)))

/-! ## Events: coherence, links and revocation -/

/-- The requests of the coherence protocol, each as one step: fills, at once or later; narrow grants and write-through grants, which an L1
that has the line takes (a grant that stands no longer is asked for anew); write-backs and the bank ALU, which leave the bytes they write at
home and no other changed, a bank operation on a bad burst none; invalidations, after which a load reads none of a span's clean words;
release markers and the apply queues; evictions, which leave a home line with no sharer and each guest die that had one with an invalidation
to apply, and forced publish; and page walks. The model's own choices here are those of log 31. -/
def Obligations.CoherenceRequests : Prop :=
  ∀ (s s1 : State) (q : LineReq) (r : StoreReq) (b : BankReq) (l : BankLane) (k : L1Line) (core die line src ctx va : Nat) (n : BitVec 48) (st : Clock)
    (count : Nat) (wr fetch : Bool),
    let s0 := s.ownBacks q.core q.line
    let e := s0.dirOf q.line
    let who := s0.sharerFor q.core q.line
    let span := (List.range (4 * q.count)).map fun i => 128 * q.line + 4 * q.first + i
    (goodLine q = true → ((s.linkOf (128 * q.line)).map s.linkState = none ∨ (s.linkOf (128 * q.line)).map s.linkState = some .up) →
      let before := s.drainOwn q.core (some q.line)
      let fills := before.fillWords q.core q.line (spanMask q.first q.count) q.scope 0
      (fills = some s1 → Leads (.gets q) s s1) ∧ (fills = none → Leads (.gets q) s (before.post (.gets q)))) ∧
    (goodLine q = true → (s.linkOf (128 * q.line)).map s.linkState = some .down → Leads (.gets q) s s) ∧
    (goodLine q = true → s0.heldOn q.line = none →
      (e.w = false → e.coarse = false → (e.ptrs.length < 4 ∨ who ∈ e.ptrs) →
        (∀ d g, who = .die d → s0.guest? d q.line = some g → g.dir.grantable (.core q.core) = true) → ∃ t, Leads (.nreq q) s t ∧
        (t.dirOf q.line).st = .n ∧ who ∈ (t.dirOf q.line).narrow ∧ q.core ∈ t.narrowCores q.line ∧ .ngrant q.core q.line ∈ t.pending ∧
        t.mem = s0.mem) ∧
      (e.w = true → s0.watchHits span = [] → ∃ t, Leads (.nreq q) s t ∧ .wtgrant q.core q.line ∈ t.pending ∧ t.mem = s0.mem)) ∧
    (core < Config.cores → s.grantStands core line = false → Leads (.ngrant core line) s (s.askGrant core line)) ∧
    (core < Config.cores → s.grantStands core line = true → s.l1? core line = some k →
      (∀ w ∈ (s.core core).waiting, w.line = line → touchedWords w.bytes &&& ~~~(wholeWords w.bytes) &&& ~~~k.readable = 0) →
      ∃ t l, Leads (.ngrant core line) s t ∧ t.l1? core line = some l ∧ l.st = .n ∧
        (∀ w ∈ (t.core core).waiting, w.line ≠ line) ∧ t.mem = s.mem) ∧
    (core < Config.cores → s.l1? core line = some k → ∃ t l, Leads (.wtgrant core line) s t ∧ t.l1? core line = some l ∧ l.wt = true ∧
      (∀ w ∈ (t.core core).waiting, w.line ≠ line) ∧ t.mem = s.mem) ∧
    (goodStore r = true → isHbm (128 * r.line) = true → s.heldOn r.line = none → s.watchHits (r.bytes.map (·.1)) = [] →
      (r.bytes.map (·.1)).Nodup → ∃ t, Leads (.writeBack r false) s t ∧ (∀ p ∈ r.bytes, t.homeByte p.1 = p.2) ∧
        ∀ pa, (∀ p ∈ r.bytes, p.1 ≠ pa) → t.mem.read pa = s.mem.read pa) ∧
    (goodLine q = true → ∃ t, Leads (.invalidation q) s t ∧ t.mem = s.mem ∧
      ∀ x, t.l1? q.core q.line = some x → x.readable &&& spanMask q.first q.count &&& ~~~x.dirty = 0) ∧
    (goodBank b = true → b.lanes = [l] → isHbm l.addr = true → s.heldOn (lineOf l.addr) = none → s.watchHits b.addrs = [] →
      (s.dirOf (lineOf l.addr)).st ≠ DirSt.n → b.graph = false →
      let w := bankBytes b.ty
      let old := leNat (readRun s.homeByte l.addr w)
      (s.badAt l.addr w = true → ∃ t, Leads (.bankAluOperation b) s t ∧ t.mem = s.mem) ∧
      (s.badAt l.addr w = false → ∃ t, Leads (.bankAluOperation b) s t ∧
        leNat (readRun t.homeByte l.addr w) = bankNew b.op b.ty old (l.operand.toNat % 2 ^ (8 * w)) l.expect.toNat % 2 ^ (8 * w) ∧
        (∀ pa, pa < l.addr ∨ l.addr + w ≤ pa → t.mem.read pa = s.mem.read pa))) ∧
    (src < Config.dies → die < Config.dies → ∃ t, Leads (.releaseMarker src die n st count) s t ∧
      (t.die die).apply = (s.die die).apply ++ [.marker src n st count] ∧ .applyEntry die ∈ t.pending ∧ t.mem = s.mem) ∧
    (pickApply (s.die die) die [] (s.die die).apply = none → Leads (.applyEntry die) s s) ∧
    (∀ x rest, pickApply (s.die die) die [] (s.die die).apply = some (x, rest) → ∃ t, Leads (.applyEntry die) s t ∧
      (t.die die).apply = rest ∧ t.mem = s.mem ∧
      (∀ o m c k, x = .marker o m c k → (t.die die).clock = (s.die die).clock.put o m) ∧
      ∀ o c ln f j w cx n, x = .inval o c ln f j w cx n → ∀ g, t.guest? die ln = some g → g.valid &&& spanMask f j = 0) ∧
    (populated (128 * line) = true → ∃ t, Leads (.homeEviction line) s t ∧ (t.dirOf line).narrow = [] ∧ (t.dirOf line).coarse = false ∧
      (t.dirOf line).st = .u ∧ (t.dirOf line).ptrs = [] ∧ t.stamps.get? line = none ∧
      ((s.dirOf line).st ≠ .n → t.mem = s.mem ∧ ∀ d, .die d ∈ s.sharersOf line → t.applyHolds d line = true)) ∧
    (∃ t, Leads (.guestEviction die line) s t ∧ (t.die die).guests.get? line = none) ∧
    ((s.dirOf line).st ≠ .n → Leads (.forcedPublish line wr) s s) ∧
    (∃ t, Leads (.forcedPublish line true) s t ∧ (t.dirOf line).st ≠ .n) ∧
    (core < Config.cores → ∀ tl, s.walk (dieOfCore core) ctx va wr fetch = (.inl tl, s1) →
      Leads (.pageWalk core ctx va wr fetch) s (s1.installTlb core tl)) ∧
    (core < Config.cores → ∀ cause, s.walk (dieOfCore core) ctx va wr fetch = (.inr cause, s1) →
      Leads (.pageWalk core ctx va wr fetch) s s1)

/-- Links retrain, recover, or are declared down after 2 ms; a requester's next access to an aperture may be due to fail, and a load that
meets the failure parks its path with a fault job, or, of a request without completion, until 50 ms have passed; a peer's read, write or
atomic is performed at home once its addresses translate, and answered, a write when it is applied on every die. A commit is performed when nothing holds its lines
and no watch is hit; a revocation marks its object and reaches the cores that hold it, each of which aborts its teams; with every
acknowledgement in, held requests are performed and the aborted teams go on at their fallbacks. -/
def Obligations.LinksAndRevocation : Prop :=
  ∀ (s s1 : State) (l tid pid obj core k port ctx va len : Nat) (who : Requester) (fabric : Bool) (peer : Option Byte) (r : BankReq)
    (bs : List Byte) (ids : List Nat),
    (l < 16 → s.linkState l = .up → Leads (.linkRetrain l) s ((s.setLink l (.retraining s.ns)).post (.linkRetrainTimeout l))) ∧
    (∀ since, s.linkState l = .retraining since →
      Leads (.linkRecovery l) s (s.setLink l .up) ∧
      (since + 2000000 ≤ s.ns → ∃ t, Leads (.linkRetrainTimeout l) s t ∧ t.linkState l = .down ∧ t.mem = s.mem) ∧
      (s.ns < since + 2000000 → Leads (.linkRetrainTimeout l) s (s.postOnce (.linkRetrainTimeout l)))) ∧
    (let late := match who with | .path t p => Instr.completionTimeout (some t) p | .card id => .completionTimeout none id;
    let cause := if fabric then (if ∃ c, peer = some c ∧ peerCause c = true then peer.getD 0 else Cause.linkDown) else Cause.pageNotPresent;
      (s.mayRequest who = true →
        Leads (.apertureFailure who fabric peer) s (s.modMgmt fun m => { m with fails := m.fails ++ [⟨who, fabric, cause, false, none⟩] }) ∧
        Leads late s
          (s.modMgmt fun m => { m with fails := m.fails ++ [⟨who, false, Cause.pageNotPresent, true, none⟩] })) ∧
      (s.mayRequest who = false → Leads (.apertureFailure who fabric peer) s s ∧ Leads late s s)) ∧
    (∀ (d x : Code) (z : BitVec 2) (o : BitVec 6) (s' t : State) (c : Ctx) (ok : List LaneAcc) (f : ApFail) (a : LaneAcc),
      let i := Instr.ld d x z o
      let n := szBytes c.T z.toNat
      let as := c.addrs x (o.toInt * n)
      admission i s = .ok c s' → (∀ a ∈ as, a.2 % n = 0 ∧ a.2 < 2 ^ 56) → c.translateLanes false as s' = (ok, [], t) →
      c.watchHit as n true false = none → (∀ a ∈ ok, t.linkAt a.pa = none ∨ ∃ l, t.linkAt a.pa = some (l, .up)) →
      c.meetsFail t ok n false = some (f, a) →
      (s.failDue f = true → exec i s = .next { (s.metFail (.path c.tid c.pid) f.cause).faultPark c.tid c.pid f.cause false a.va 0
        (some (maskOf [a.lane])) with focus := none }) ∧
      (s.failDue f = false → Parks i s c (s.sendFail f) (.completion (s.failTime f)))) ∧
    (port < 16 → ctx < 64 → s.linkState port = .up → let s0 := s.wake.modMgmt fun m => { m with lastFabric := s.ns }
      (∀ cause, s0.peerLanes ctx r.lanes = (.inr cause, s1) → Leads (.fabricRequest port (.atomic ctx r)) s (s1.answer port (.fault cause))) ∧
      (∀ ls, s0.peerLanes ctx r.lanes = (.inl ls, s1) →
        let q : BankReq := { r with id := s1.seq, agent := .die (port / 4), ctx := ctx, scope := Scope.package, lanes := ls, graph := false,
                                    stamp := (s1.die (port / 4)).clock, ret := none, peer := some port }
        goodBank q = true → Leads (.fabricRequest port (.atomic ctx r)) s (({ s1 with seq := s1.seq + 1 } : State).homeBank q)) ∧
      (∀ cause, s0.peerPieces ctx false (pagePieces (len / 65536 + 2) va len) = (.inr cause, s1) →
        Leads (.fabricRequest port (.read ctx va len)) s (s1.answer port (.fault cause))) ∧
      (∀ ps, s0.peerPieces ctx false (pagePieces (len / 65536 + 2) va len) = (.inl ps, s1) → ∃ t : State,
        Leads (.fabricRequest port (.read ctx va len)) s (t.answer port (if ∃ p ∈ ps, t.badAt p.1 p.2 = true then .fault Cause.eccUncorrectedMem
          else .data (ps.flatMap fun (p : Nat × Nat) => readRun t.homeByte p.1 p.2)))) ∧
      (∀ cause, s0.peerPieces ctx true (pagePieces (bs.length / 65536 + 2) va bs.length) = (.inr cause, s1) →
        Leads (.fabricRequest port (.write ctx va bs)) s (s1.answer port (.fault cause))) ∧
      (∀ ps, s0.peerPieces ctx true (pagePieces (bs.length / 65536 + 2) va bs.length) = (.inl ps, s1) → s1.inboundHeld port = none →
        ∀ s2, s1.engineWrite (port / 4) ctx ((ps.flatMap fun (p : Nat × Nat) => (List.range p.2).map (p.1 + ·)).zip bs) = (ids, s2) → ∃ t,
          Leads (.fabricRequest port (.write ctx va bs)) s t ∧ t.mem = s2.mem ∧ .fabricRequest port (.acknowledge ids) ∈ t.pending)) ∧
    (port < 16 → ctx < 64 → let s0 := (List.range Config.dies).foldl State.applyDie s.drainAll
      (ids.any s0.writeOpen = true ∨ s0.unapplied (port / 4) = true →
        Leads (.fabricRequest port (.acknowledge ids)) s (s0.post (.fabricRequest port (.acknowledge ids)))) ∧
      (ids.any s0.writeOpen = false → s0.unapplied (port / 4) = false → ∃ t, Leads (.fabricRequest port (.acknowledge ids)) s t ∧
        t.mgmt.answers = (port, .ack) :: s0.mgmt.answers ∧ t.mem = s0.mem)) ∧
    (s.linkState port ≠ .up → Leads (.fabricRequest port (.atomic ctx r)) s s ∧ Leads (.fabricRequest port (.read ctx va len)) s s ∧
      Leads (.fabricRequest port (.write ctx va bs)) s s) ∧
    (∀ u, s.team? tid = some u → u.committing = some pid → let ls := linePieces u.gbytes
      s.clearLines u.core ls = s1 → (∀ p ∈ ls, s1.heldOn p.1 = none ∧ s1.watchHits (p.2.map (·.1)) = []) →
      (s1.core u.core).posted.length + u.postedLines.length ≤ 256 →
      Leads (.commitGroup tid) s ((ls.foldl (fun s p => s.reserve tid p.1 p.2) s1).performCommit tid pid u)) ∧
    (∀ q o, s.revokes.get? obj = some q → q.done = false → q.cores = [] → s.objs.get? obj = some o → s.holderCores obj ≠ [] →
      ∃ t, Leads (.revocation obj l) s t ∧ (∃ o', t.objs.get? obj = some o' ∧ o'.armed = false) ∧
        ∀ c ∈ s.holderCores obj, .coreRevocation obj c ∈ t.pending) ∧
    (∀ q, s.revokes.get? obj = some q → core ∈ q.cores →
      let mine := (s.teams.filter fun p => p.2.core = core && p.2.place = .resident && p.2.guard.any fun g => g.obj = obj).map (·.1)
      let s2 := mine.foldl (fun s t => s.abortTeam t Cause.assumeRevoked obj true (some obj)) s
      let s3 : State := { s2 with revokes := s2.revokes.modify obj fun r => { r with cores := q.cores.erase core } }
      Leads (.coreRevocation obj core) s (if (q.cores.erase core).isEmpty then s3.revokeAcked obj else s3)) ∧
    (∀ h, s.held.get? k = some h → s.heldFree h = true → h.behind = [] → (∀ o ∈ h.objs, s.revokes.get? o = none) →
      ∀ t1, ({ s with held := s.held.del k } : State).runRequest h.req = t1 → (∀ tm, h.req ≠ .commitGroup tm) →
      (∀ o ∈ h.objs, t1.revokes.get? o = none) → Leads (.heldRequestRelease k) s t1) ∧
    (∃ t, Leads (.fallbackRelease obj core) s t ∧ ∀ i u p q, s.team? i = some u → u.core = core → u.paths.get? p = some q →
      q.st = .parked (.release obj) → ∀ u' q', t.team? i = some u' → u'.paths.get? p = some q' → q'.st = .ready)
end

