-- ==== Sys2Proof/Laws/Tab.lean ====
section
/-!
SUPPORT. Sys2Proof/Laws/Tab.lean: what tables and sparse storage read back, and that memory keeps its canonical form.
-/
namespace Sys2Proof.Machine

/-! ## Tables -/

@[simp] theorem Tab.get?_nil {α : Type} (k : Nat) : Tab.get? ([] : Tab α) k = none := rfl

theorem Tab.get?_put {α : Type} (t : Tab α) (k j : Nat) (a : α) : (t.put k a).get? j = if k = j then some a else t.get? j := by
  induction t with
  | nil => simp [Tab.put, Tab.get?]
  | cons p t ih =>
    obtain ⟨i, b⟩ := p
    rw [Tab.put]
    by_cases h : i = k
    · rw [if_pos h]; subst h
      simp only [Tab.get?]; split <;> rfl
    · rw [if_neg h]
      by_cases hl : k < i
      · rw [if_pos hl]; simp only [Tab.get?]
      · rw [if_neg hl]; simp only [Tab.get?, ih]
        by_cases hi : i = j
        · rw [if_pos hi, if_pos hi, if_neg fun e => h (hi.trans e.symm)]
        · rw [if_neg hi, if_neg hi]

@[simp] theorem Tab.get?_put_self {α : Type} (t : Tab α) (k : Nat) (a : α) : (t.put k a).get? k = some a := by simp [Tab.get?_put]
theorem Tab.get?_put_ne {α : Type} (t : Tab α) {k j : Nat} (a : α) (h : k ≠ j) : (t.put k a).get? j = t.get? j := by
  simp [Tab.get?_put, h]

theorem Tab.get?_del {α : Type} (t : Tab α) (k j : Nat) : (t.del k).get? j = if k = j then none else t.get? j := by
  induction t with
  | nil => simp [Tab.del, Tab.get?]
  | cons p t ih =>
    obtain ⟨i, b⟩ := p
    rw [Tab.del]
    by_cases h : i = k
    · rw [if_pos h, ih]; subst h
      simp only [Tab.get?]; split <;> rfl
    · rw [if_neg h]; simp only [Tab.get?, ih]
      by_cases hi : i = j
      · rw [if_pos hi, if_pos hi, if_neg fun e => h (hi.trans e.symm)]
      · rw [if_neg hi, if_neg hi]

@[simp] theorem Tab.get?_del_self {α : Type} (t : Tab α) (k : Nat) : (t.del k).get? k = none := by simp [Tab.get?_del]

theorem Tab.getD_put {α : Type} (t : Tab α) (k j : Nat) (a d : α) : (t.put k a).getD j d = if k = j then a else t.getD j d := by
  simp only [Tab.getD, Tab.get?_put]; split <;> rfl
theorem Tab.getD_del {α : Type} (t : Tab α) (k j : Nat) (d : α) : (t.del k).getD j d = if k = j then d else t.getD j d := by
  simp only [Tab.getD, Tab.get?_del]; split <;> rfl
@[simp] theorem Tab.getD_put_self {α : Type} (t : Tab α) (k : Nat) (a d : α) : (t.put k a).getD k d = a := by simp [Tab.getD_put]

theorem Tab.getD_store {α : Type} [DecidableEq α] (t : Tab α) (k j : Nat) (a d : α) :
    (Tab.store d t k a).getD j d = if k = j then a else t.getD j d := by
  unfold Tab.store
  split
  · rename_i h; rw [Tab.getD_del, h]
  · rw [Tab.getD_put]

theorem Tab.get?_modify {α : Type} (t : Tab α) (k j : Nat) (f : α → α) :
    (t.modify k f).get? j = if k = j then (t.get? j).map f else t.get? j := by
  unfold Tab.modify
  by_cases h : k = j
  · subst h
    cases hk : t.get? k <;> simp [hk]
  · cases hk : t.get? k <;> simp [h, Tab.get?_put]

theorem Tab.get?_map {α β : Type} (t : Tab α) (f : α → β) (k : Nat) :
    Tab.get? (t.map fun p => (p.1, f p.2)) k = (t.get? k).map f := by
  induction t with
  | nil => rfl
  | cons p t ih => obtain ⟨i, b⟩ := p; by_cases h : i = k <;> simp [Tab.get?, h, ih]

theorem Tab.mem_of_get? {α : Type} {t : Tab α} {k : Nat} {a : α} (h : t.get? k = some a) : (k, a) ∈ t := by
  induction t with
  | nil => cases h
  | cons p t ih =>
    obtain ⟨i, b⟩ := p
    by_cases hi : i = k
    · subst hi; simp only [Tab.get?, ↓reduceIte, Option.some.injEq] at h; subst h; simp
    · simp only [Tab.get?, hi, ↓reduceIte] at h; exact List.mem_cons_of_mem _ (ih h)

/-! ## The canonical form -/

theorem Tab.canonical_cons {α : Type} [DecidableEq α] {d : α} {k : Nat} {a : α} {t : Tab α} (h : Tab.canonical d ((k, a) :: t) = true) :
    a ≠ d ∧ Tab.canonical d t = true ∧ ∀ p ∈ t, k < p.1 := by
  induction t generalizing k a with
  | nil => simpa [Tab.canonical] using h
  | cons q t ih =>
    obtain ⟨j, b⟩ := q
    simp only [Tab.canonical, Bool.and_eq_true, decide_eq_true_eq] at h
    have ht : Tab.canonical d ((j, b) :: t) = true := by simp only [Tab.canonical, Bool.and_eq_true, decide_eq_true_eq]; exact h.2
    refine ⟨h.1.1, ht, ?_⟩
    intro p hp
    rcases List.mem_cons.1 hp with rfl | hp
    · exact h.1.2
    · exact Nat.lt_trans h.1.2 ((ih ht).2.2 p hp)

theorem Tab.canonical_cons_iff {α : Type} [DecidableEq α] {d : α} {k : Nat} {a : α} {t : Tab α} :
    Tab.canonical d ((k, a) :: t) = true ↔ a ≠ d ∧ Tab.canonical d t = true ∧ ∀ p ∈ t, k < p.1 := by
  refine ⟨Tab.canonical_cons, fun ⟨h1, h2, h3⟩ => ?_⟩
  cases t with
  | nil => simp [Tab.canonical, h1]
  | cons q t =>
    have := h3 q (by simp)
    simp only [Tab.canonical, Bool.and_eq_true, decide_eq_true_eq] at h2 ⊢
    exact ⟨⟨h1, this⟩, h2⟩

theorem Tab.canonical_del {α : Type} [DecidableEq α] {d : α} (t : Tab α) (k : Nat) (h : Tab.canonical d t = true) :
    Tab.canonical d (t.del k) = true ∧ ∀ p ∈ t.del k, p ∈ t := by
  induction t with
  | nil => exact ⟨h, by simp [Tab.del]⟩
  | cons q t ih =>
    obtain ⟨j, b⟩ := q
    obtain ⟨h1, h2, h3⟩ := Tab.canonical_cons h
    obtain ⟨i1, i2⟩ := ih h2
    by_cases hj : j = k
    · simp only [Tab.del, hj, ↓reduceIte]; exact ⟨i1, fun p hp => List.mem_cons_of_mem _ (i2 p hp)⟩
    · simp only [Tab.del, hj, ↓reduceIte]
      refine ⟨Tab.canonical_cons_iff.2 ⟨h1, i1, fun p hp => h3 p (i2 p hp)⟩, ?_⟩
      intro p hp
      rcases List.mem_cons.1 hp with rfl | hp
      · simp
      · exact List.mem_cons_of_mem _ (i2 p hp)

theorem Tab.mem_put {α : Type} {t : Tab α} {k : Nat} {a : α} {p : Nat × α} (h : p ∈ t.put k a) : p = (k, a) ∨ p ∈ t := by
  induction t with
  | nil => simpa [Tab.put] using h
  | cons q t ih =>
    obtain ⟨j, b⟩ := q
    simp only [Tab.put] at h
    split at h
    · rcases List.mem_cons.1 h with rfl | h <;> simp [*]
    · split at h
      · rcases List.mem_cons.1 h with rfl | h <;> simp_all
      · rcases List.mem_cons.1 h with rfl | h
        · simp
        · rcases ih h with rfl | h <;> simp [*]

theorem Tab.canonical_put {α : Type} [DecidableEq α] {d : α} (t : Tab α) (k : Nat) (a : α) (h : Tab.canonical d t = true) (ha : a ≠ d) :
    Tab.canonical d (t.put k a) = true := by
  induction t with
  | nil => simp [Tab.put, Tab.canonical, ha]
  | cons q t ih =>
    obtain ⟨j, b⟩ := q
    obtain ⟨h1, h2, h3⟩ := Tab.canonical_cons h
    simp only [Tab.put]
    split
    · rename_i e; subst e; exact Tab.canonical_cons_iff.2 ⟨ha, h2, h3⟩
    · split
      · rename_i e hl
        refine Tab.canonical_cons_iff.2 ⟨ha, h, ?_⟩
        intro p hp
        rcases List.mem_cons.1 hp with rfl | hp
        · exact hl
        · exact Nat.lt_trans hl (h3 p hp)
      · rename_i e hl
        refine Tab.canonical_cons_iff.2 ⟨h1, ih h2, ?_⟩
        intro p hp
        rcases Tab.mem_put hp with rfl | hp
        · exact Nat.lt_of_le_of_ne (Nat.not_lt.1 hl) e
        · exact h3 p hp

theorem Tab.canonical_store {α : Type} [DecidableEq α] {d : α} (t : Tab α) (k : Nat) (a : α) (h : Tab.canonical d t = true) :
    Tab.canonical d (Tab.store d t k a) = true := by
  unfold Tab.store
  split
  · exact (Tab.canonical_del t k h).1
  · rename_i ha; exact Tab.canonical_put t k a h ha

/-! ## Memory -/

/-- A write keeps the canonical form. -/
theorem Memory.write_wf (m : Memory) (a : Nat) (b : Byte) (h : m.wf = true) : (m.write a b).wf = true := Tab.canonical_store m a b h
/-- Several writes keep it. -/
theorem Memory.writeList_wf (bs : List (Nat × Byte)) : ∀ (m : Memory), m.wf = true → (m.writeList bs).wf = true := by
  induction bs with
  | nil => exact fun m h => h
  | cons p bs ih => exact fun m h => ih _ (Memory.write_wf m p.1 p.2 h)
theorem Memory.read_write (m : Memory) (a j : Nat) (b : Byte) : (m.write a b).read j = if a = j then b else m.read j :=
  Tab.getD_store m a j b Memory.unlisted
/-- Keeping only some addresses keeps the canonical form. -/
theorem Memory.filter_wf (p : Host.Cell → Bool) : ∀ (m : Memory), m.wf = true → Memory.wf (m.filter p) = true := by
  intro m
  induction m with
  | nil => exact fun h => h
  | cons q m ih =>
    intro h
    obtain ⟨h1, h2, h3⟩ := Tab.canonical_cons (d := Memory.unlisted) (k := q.1) (a := q.2) h
    simp only [List.filter_cons]
    split
    · exact Tab.canonical_cons_iff.2 ⟨h1, ih h2, fun x hx => h3 x (List.mem_filter.1 hx).1⟩
    · exact ih h2

end Sys2Proof.Machine
end

