-- ==== Sys2Proof/Laws/State.lean ====
section
/-!
SUPPORT. Sys2Proof/Laws/State.lean: what each update of the state leaves in each field, and what the accessors read after it: one
lemma per field per update.
-/
namespace Sys2Proof.Machine

/-! ## modCore -/

@[simp] theorem State.modCore_cycle (s : State) (n : Nat) (f : Core → Core) : (s.modCore n f).cycle = s.cycle := rfl
@[simp] theorem State.modCore_seq (s : State) (n : Nat) (f : Core → Core) : (s.modCore n f).seq = s.seq := rfl
@[simp] theorem State.modCore_free (s : State) (n : Nat) (f : Core → Core) : (s.modCore n f).free = s.free := rfl
@[simp] theorem State.modCore_focus (s : State) (n : Nat) (f : Core → Core) : (s.modCore n f).focus = s.focus := rfl
@[simp] theorem State.modCore_agenda (s : State) (n : Nat) (f : Core → Core) : (s.modCore n f).agenda = s.agenda := rfl
@[simp] theorem State.modCore_pending (s : State) (n : Nat) (f : Core → Core) : (s.modCore n f).pending = s.pending := rfl
@[simp] theorem State.modCore_turn (s : State) (n : Nat) (f : Core → Core) : (s.modCore n f).turn = s.turn := rfl
@[simp] theorem State.modCore_mem (s : State) (n : Nat) (f : Core → Core) : (s.modCore n f).mem = s.mem := rfl
@[simp] theorem State.modCore_stamps (s : State) (n : Nat) (f : Core → Core) : (s.modCore n f).stamps = s.stamps := rfl
@[simp] theorem State.modCore_floors (s : State) (n : Nat) (f : Core → Core) : (s.modCore n f).floors = s.floors := rfl
@[simp] theorem State.modCore_dir (s : State) (n : Nat) (f : Core → Core) : (s.modCore n f).dir = s.dir := rfl
@[simp] theorem State.modCore_watch (s : State) (n : Nat) (f : Core → Core) : (s.modCore n f).watch = s.watch := rfl
@[simp] theorem State.modCore_held (s : State) (n : Nat) (f : Core → Core) : (s.modCore n f).held = s.held := rfl
@[simp] theorem State.modCore_objs (s : State) (n : Nat) (f : Core → Core) : (s.modCore n f).objs = s.objs := rfl
@[simp] theorem State.modCore_revokes (s : State) (n : Nat) (f : Core → Core) : (s.modCore n f).revokes = s.revokes := rfl
@[simp] theorem State.modCore_dies (s : State) (n : Nat) (f : Core → Core) : (s.modCore n f).dies = s.dies := rfl
@[simp] theorem State.modCore_clus (s : State) (n : Nat) (f : Core → Core) : (s.modCore n f).clus = s.clus := rfl
@[simp] theorem State.modCore_cores (s : State) (n : Nat) (f : Core → Core) : (s.modCore n f).cores = s.cores.put n (f (s.core n)) := rfl
@[simp] theorem State.modCore_teams (s : State) (n : Nat) (f : Core → Core) : (s.modCore n f).teams = s.teams := rfl
@[simp] theorem State.modCore_sweeps (s : State) (n : Nat) (f : Core → Core) : (s.modCore n f).sweeps = s.sweeps := rfl
@[simp] theorem State.modCore_ctxs (s : State) (n : Nat) (f : Core → Core) : (s.modCore n f).ctxs = s.ctxs := rfl
@[simp] theorem State.modCore_forming (s : State) (n : Nat) (f : Core → Core) : (s.modCore n f).forming = s.forming := rfl
@[simp] theorem State.modCore_tasks (s : State) (n : Nat) (f : Core → Core) : (s.modCore n f).tasks = s.tasks := rfl
@[simp] theorem State.modCore_tstores (s : State) (n : Nat) (f : Core → Core) : (s.modCore n f).tstores = s.tstores := rfl
@[simp] theorem State.modCore_cards (s : State) (n : Nat) (f : Core → Core) : (s.modCore n f).cards = s.cards := rfl
@[simp] theorem State.modCore_images (s : State) (n : Nat) (f : Core → Core) : (s.modCore n f).images = s.images := rfl
@[simp] theorem State.modCore_openWrites (s : State) (n : Nat) (f : Core → Core) : (s.modCore n f).openWrites = s.openWrites := rfl
@[simp] theorem State.modCore_mgmt (s : State) (n : Nat) (f : Core → Core) : (s.modCore n f).mgmt = s.mgmt := rfl
@[simp] theorem State.modCore_at_die (s : State) (n : Nat) (f : Core → Core) (k : Nat) : (s.modCore n f).die k = s.die k := rfl
@[simp] theorem State.modCore_at_clu (s : State) (n : Nat) (f : Core → Core) (k : Nat) : (s.modCore n f).clu k = s.clu k := rfl
@[simp] theorem State.modCore_at_ctx (s : State) (n : Nat) (f : Core → Core) (k : Nat) : (s.modCore n f).ctx k = s.ctx k := rfl
@[simp] theorem State.modCore_at_team_get (s : State) (n : Nat) (f : Core → Core) (k : Nat) : (s.modCore n f).team? k = s.team? k := rfl
@[simp] theorem State.modCore_at_dirOf (s : State) (n : Nat) (f : Core → Core) (k : Nat) : (s.modCore n f).dirOf k = s.dirOf k := rfl
@[simp] theorem State.modCore_at_heldOn (s : State) (n : Nat) (f : Core → Core) (k : Nat) : (s.modCore n f).heldOn k = s.heldOn k := rfl

/-! ## modDie -/

@[simp] theorem State.modDie_cycle (s : State) (n : Nat) (f : Die → Die) : (s.modDie n f).cycle = s.cycle := rfl
@[simp] theorem State.modDie_seq (s : State) (n : Nat) (f : Die → Die) : (s.modDie n f).seq = s.seq := rfl
@[simp] theorem State.modDie_free (s : State) (n : Nat) (f : Die → Die) : (s.modDie n f).free = s.free := rfl
@[simp] theorem State.modDie_focus (s : State) (n : Nat) (f : Die → Die) : (s.modDie n f).focus = s.focus := rfl
@[simp] theorem State.modDie_agenda (s : State) (n : Nat) (f : Die → Die) : (s.modDie n f).agenda = s.agenda := rfl
@[simp] theorem State.modDie_pending (s : State) (n : Nat) (f : Die → Die) : (s.modDie n f).pending = s.pending := rfl
@[simp] theorem State.modDie_turn (s : State) (n : Nat) (f : Die → Die) : (s.modDie n f).turn = s.turn := rfl
@[simp] theorem State.modDie_mem (s : State) (n : Nat) (f : Die → Die) : (s.modDie n f).mem = s.mem := rfl
@[simp] theorem State.modDie_stamps (s : State) (n : Nat) (f : Die → Die) : (s.modDie n f).stamps = s.stamps := rfl
@[simp] theorem State.modDie_floors (s : State) (n : Nat) (f : Die → Die) : (s.modDie n f).floors = s.floors := rfl
@[simp] theorem State.modDie_dir (s : State) (n : Nat) (f : Die → Die) : (s.modDie n f).dir = s.dir := rfl
@[simp] theorem State.modDie_watch (s : State) (n : Nat) (f : Die → Die) : (s.modDie n f).watch = s.watch := rfl
@[simp] theorem State.modDie_held (s : State) (n : Nat) (f : Die → Die) : (s.modDie n f).held = s.held := rfl
@[simp] theorem State.modDie_objs (s : State) (n : Nat) (f : Die → Die) : (s.modDie n f).objs = s.objs := rfl
@[simp] theorem State.modDie_revokes (s : State) (n : Nat) (f : Die → Die) : (s.modDie n f).revokes = s.revokes := rfl
@[simp] theorem State.modDie_dies (s : State) (n : Nat) (f : Die → Die) : (s.modDie n f).dies = s.dies.put n (f (s.die n)) := rfl
@[simp] theorem State.modDie_clus (s : State) (n : Nat) (f : Die → Die) : (s.modDie n f).clus = s.clus := rfl
@[simp] theorem State.modDie_cores (s : State) (n : Nat) (f : Die → Die) : (s.modDie n f).cores = s.cores := rfl
@[simp] theorem State.modDie_teams (s : State) (n : Nat) (f : Die → Die) : (s.modDie n f).teams = s.teams := rfl
@[simp] theorem State.modDie_sweeps (s : State) (n : Nat) (f : Die → Die) : (s.modDie n f).sweeps = s.sweeps := rfl
@[simp] theorem State.modDie_ctxs (s : State) (n : Nat) (f : Die → Die) : (s.modDie n f).ctxs = s.ctxs := rfl
@[simp] theorem State.modDie_forming (s : State) (n : Nat) (f : Die → Die) : (s.modDie n f).forming = s.forming := rfl
@[simp] theorem State.modDie_tasks (s : State) (n : Nat) (f : Die → Die) : (s.modDie n f).tasks = s.tasks := rfl
@[simp] theorem State.modDie_tstores (s : State) (n : Nat) (f : Die → Die) : (s.modDie n f).tstores = s.tstores := rfl
@[simp] theorem State.modDie_cards (s : State) (n : Nat) (f : Die → Die) : (s.modDie n f).cards = s.cards := rfl
@[simp] theorem State.modDie_images (s : State) (n : Nat) (f : Die → Die) : (s.modDie n f).images = s.images := rfl
@[simp] theorem State.modDie_openWrites (s : State) (n : Nat) (f : Die → Die) : (s.modDie n f).openWrites = s.openWrites := rfl
@[simp] theorem State.modDie_mgmt (s : State) (n : Nat) (f : Die → Die) : (s.modDie n f).mgmt = s.mgmt := rfl
@[simp] theorem State.modDie_at_core (s : State) (n : Nat) (f : Die → Die) (k : Nat) : (s.modDie n f).core k = s.core k := rfl
@[simp] theorem State.modDie_at_clu (s : State) (n : Nat) (f : Die → Die) (k : Nat) : (s.modDie n f).clu k = s.clu k := rfl
@[simp] theorem State.modDie_at_ctx (s : State) (n : Nat) (f : Die → Die) (k : Nat) : (s.modDie n f).ctx k = s.ctx k := rfl
@[simp] theorem State.modDie_at_team_get (s : State) (n : Nat) (f : Die → Die) (k : Nat) : (s.modDie n f).team? k = s.team? k := rfl
@[simp] theorem State.modDie_at_dirOf (s : State) (n : Nat) (f : Die → Die) (k : Nat) : (s.modDie n f).dirOf k = s.dirOf k := rfl
@[simp] theorem State.modDie_at_heldOn (s : State) (n : Nat) (f : Die → Die) (k : Nat) : (s.modDie n f).heldOn k = s.heldOn k := rfl

/-! ## modClu -/

@[simp] theorem State.modClu_cycle (s : State) (n : Nat) (f : Cluster → Cluster) : (s.modClu n f).cycle = s.cycle := rfl
@[simp] theorem State.modClu_seq (s : State) (n : Nat) (f : Cluster → Cluster) : (s.modClu n f).seq = s.seq := rfl
@[simp] theorem State.modClu_free (s : State) (n : Nat) (f : Cluster → Cluster) : (s.modClu n f).free = s.free := rfl
@[simp] theorem State.modClu_focus (s : State) (n : Nat) (f : Cluster → Cluster) : (s.modClu n f).focus = s.focus := rfl
@[simp] theorem State.modClu_agenda (s : State) (n : Nat) (f : Cluster → Cluster) : (s.modClu n f).agenda = s.agenda := rfl
@[simp] theorem State.modClu_pending (s : State) (n : Nat) (f : Cluster → Cluster) : (s.modClu n f).pending = s.pending := rfl
@[simp] theorem State.modClu_turn (s : State) (n : Nat) (f : Cluster → Cluster) : (s.modClu n f).turn = s.turn := rfl
@[simp] theorem State.modClu_mem (s : State) (n : Nat) (f : Cluster → Cluster) : (s.modClu n f).mem = s.mem := rfl
@[simp] theorem State.modClu_stamps (s : State) (n : Nat) (f : Cluster → Cluster) : (s.modClu n f).stamps = s.stamps := rfl
@[simp] theorem State.modClu_floors (s : State) (n : Nat) (f : Cluster → Cluster) : (s.modClu n f).floors = s.floors := rfl
@[simp] theorem State.modClu_dir (s : State) (n : Nat) (f : Cluster → Cluster) : (s.modClu n f).dir = s.dir := rfl
@[simp] theorem State.modClu_watch (s : State) (n : Nat) (f : Cluster → Cluster) : (s.modClu n f).watch = s.watch := rfl
@[simp] theorem State.modClu_held (s : State) (n : Nat) (f : Cluster → Cluster) : (s.modClu n f).held = s.held := rfl
@[simp] theorem State.modClu_objs (s : State) (n : Nat) (f : Cluster → Cluster) : (s.modClu n f).objs = s.objs := rfl
@[simp] theorem State.modClu_revokes (s : State) (n : Nat) (f : Cluster → Cluster) : (s.modClu n f).revokes = s.revokes := rfl
@[simp] theorem State.modClu_dies (s : State) (n : Nat) (f : Cluster → Cluster) : (s.modClu n f).dies = s.dies := rfl
@[simp] theorem State.modClu_clus (s : State) (n : Nat) (f : Cluster → Cluster) : (s.modClu n f).clus = s.clus.put n (f (s.clu n)) := rfl
@[simp] theorem State.modClu_cores (s : State) (n : Nat) (f : Cluster → Cluster) : (s.modClu n f).cores = s.cores := rfl
@[simp] theorem State.modClu_teams (s : State) (n : Nat) (f : Cluster → Cluster) : (s.modClu n f).teams = s.teams := rfl
@[simp] theorem State.modClu_sweeps (s : State) (n : Nat) (f : Cluster → Cluster) : (s.modClu n f).sweeps = s.sweeps := rfl
@[simp] theorem State.modClu_ctxs (s : State) (n : Nat) (f : Cluster → Cluster) : (s.modClu n f).ctxs = s.ctxs := rfl
@[simp] theorem State.modClu_forming (s : State) (n : Nat) (f : Cluster → Cluster) : (s.modClu n f).forming = s.forming := rfl
@[simp] theorem State.modClu_tasks (s : State) (n : Nat) (f : Cluster → Cluster) : (s.modClu n f).tasks = s.tasks := rfl
@[simp] theorem State.modClu_tstores (s : State) (n : Nat) (f : Cluster → Cluster) : (s.modClu n f).tstores = s.tstores := rfl
@[simp] theorem State.modClu_cards (s : State) (n : Nat) (f : Cluster → Cluster) : (s.modClu n f).cards = s.cards := rfl
@[simp] theorem State.modClu_images (s : State) (n : Nat) (f : Cluster → Cluster) : (s.modClu n f).images = s.images := rfl
@[simp] theorem State.modClu_openWrites (s : State) (n : Nat) (f : Cluster → Cluster) : (s.modClu n f).openWrites = s.openWrites := rfl
@[simp] theorem State.modClu_mgmt (s : State) (n : Nat) (f : Cluster → Cluster) : (s.modClu n f).mgmt = s.mgmt := rfl
@[simp] theorem State.modClu_at_core (s : State) (n : Nat) (f : Cluster → Cluster) (k : Nat) : (s.modClu n f).core k = s.core k := rfl
@[simp] theorem State.modClu_at_die (s : State) (n : Nat) (f : Cluster → Cluster) (k : Nat) : (s.modClu n f).die k = s.die k := rfl
@[simp] theorem State.modClu_at_ctx (s : State) (n : Nat) (f : Cluster → Cluster) (k : Nat) : (s.modClu n f).ctx k = s.ctx k := rfl
@[simp] theorem State.modClu_at_team_get (s : State) (n : Nat) (f : Cluster → Cluster) (k : Nat) : (s.modClu n f).team? k = s.team? k := rfl
@[simp] theorem State.modClu_at_dirOf (s : State) (n : Nat) (f : Cluster → Cluster) (k : Nat) : (s.modClu n f).dirOf k = s.dirOf k := rfl
@[simp] theorem State.modClu_at_heldOn (s : State) (n : Nat) (f : Cluster → Cluster) (k : Nat) : (s.modClu n f).heldOn k = s.heldOn k := rfl

/-! ## modCtx -/

@[simp] theorem State.modCtx_cycle (s : State) (n : Nat) (f : Context → Context) : (s.modCtx n f).cycle = s.cycle := rfl
@[simp] theorem State.modCtx_seq (s : State) (n : Nat) (f : Context → Context) : (s.modCtx n f).seq = s.seq := rfl
@[simp] theorem State.modCtx_free (s : State) (n : Nat) (f : Context → Context) : (s.modCtx n f).free = s.free := rfl
@[simp] theorem State.modCtx_focus (s : State) (n : Nat) (f : Context → Context) : (s.modCtx n f).focus = s.focus := rfl
@[simp] theorem State.modCtx_agenda (s : State) (n : Nat) (f : Context → Context) : (s.modCtx n f).agenda = s.agenda := rfl
@[simp] theorem State.modCtx_pending (s : State) (n : Nat) (f : Context → Context) : (s.modCtx n f).pending = s.pending := rfl
@[simp] theorem State.modCtx_turn (s : State) (n : Nat) (f : Context → Context) : (s.modCtx n f).turn = s.turn := rfl
@[simp] theorem State.modCtx_mem (s : State) (n : Nat) (f : Context → Context) : (s.modCtx n f).mem = s.mem := rfl
@[simp] theorem State.modCtx_stamps (s : State) (n : Nat) (f : Context → Context) : (s.modCtx n f).stamps = s.stamps := rfl
@[simp] theorem State.modCtx_floors (s : State) (n : Nat) (f : Context → Context) : (s.modCtx n f).floors = s.floors := rfl
@[simp] theorem State.modCtx_dir (s : State) (n : Nat) (f : Context → Context) : (s.modCtx n f).dir = s.dir := rfl
@[simp] theorem State.modCtx_watch (s : State) (n : Nat) (f : Context → Context) : (s.modCtx n f).watch = s.watch := rfl
@[simp] theorem State.modCtx_held (s : State) (n : Nat) (f : Context → Context) : (s.modCtx n f).held = s.held := rfl
@[simp] theorem State.modCtx_objs (s : State) (n : Nat) (f : Context → Context) : (s.modCtx n f).objs = s.objs := rfl
@[simp] theorem State.modCtx_revokes (s : State) (n : Nat) (f : Context → Context) : (s.modCtx n f).revokes = s.revokes := rfl
@[simp] theorem State.modCtx_dies (s : State) (n : Nat) (f : Context → Context) : (s.modCtx n f).dies = s.dies := rfl
@[simp] theorem State.modCtx_clus (s : State) (n : Nat) (f : Context → Context) : (s.modCtx n f).clus = s.clus := rfl
@[simp] theorem State.modCtx_cores (s : State) (n : Nat) (f : Context → Context) : (s.modCtx n f).cores = s.cores := rfl
@[simp] theorem State.modCtx_teams (s : State) (n : Nat) (f : Context → Context) : (s.modCtx n f).teams = s.teams := rfl
@[simp] theorem State.modCtx_sweeps (s : State) (n : Nat) (f : Context → Context) : (s.modCtx n f).sweeps = s.sweeps := rfl
@[simp] theorem State.modCtx_ctxs (s : State) (n : Nat) (f : Context → Context) : (s.modCtx n f).ctxs = s.ctxs.put n (f (s.ctx n)) := rfl
@[simp] theorem State.modCtx_forming (s : State) (n : Nat) (f : Context → Context) : (s.modCtx n f).forming = s.forming := rfl
@[simp] theorem State.modCtx_tasks (s : State) (n : Nat) (f : Context → Context) : (s.modCtx n f).tasks = s.tasks := rfl
@[simp] theorem State.modCtx_tstores (s : State) (n : Nat) (f : Context → Context) : (s.modCtx n f).tstores = s.tstores := rfl
@[simp] theorem State.modCtx_cards (s : State) (n : Nat) (f : Context → Context) : (s.modCtx n f).cards = s.cards := rfl
@[simp] theorem State.modCtx_images (s : State) (n : Nat) (f : Context → Context) : (s.modCtx n f).images = s.images := rfl
@[simp] theorem State.modCtx_openWrites (s : State) (n : Nat) (f : Context → Context) : (s.modCtx n f).openWrites = s.openWrites := rfl
@[simp] theorem State.modCtx_mgmt (s : State) (n : Nat) (f : Context → Context) : (s.modCtx n f).mgmt = s.mgmt := rfl
@[simp] theorem State.modCtx_at_core (s : State) (n : Nat) (f : Context → Context) (k : Nat) : (s.modCtx n f).core k = s.core k := rfl
@[simp] theorem State.modCtx_at_die (s : State) (n : Nat) (f : Context → Context) (k : Nat) : (s.modCtx n f).die k = s.die k := rfl
@[simp] theorem State.modCtx_at_clu (s : State) (n : Nat) (f : Context → Context) (k : Nat) : (s.modCtx n f).clu k = s.clu k := rfl
@[simp] theorem State.modCtx_at_team_get (s : State) (n : Nat) (f : Context → Context) (k : Nat) : (s.modCtx n f).team? k = s.team? k := rfl
@[simp] theorem State.modCtx_at_dirOf (s : State) (n : Nat) (f : Context → Context) (k : Nat) : (s.modCtx n f).dirOf k = s.dirOf k := rfl
@[simp] theorem State.modCtx_at_heldOn (s : State) (n : Nat) (f : Context → Context) (k : Nat) : (s.modCtx n f).heldOn k = s.heldOn k := rfl

/-! ## setCtx -/

@[simp] theorem State.setCtx_cycle (s : State) (n : Nat) (x : Context) : (s.setCtx n x).cycle = s.cycle := rfl
@[simp] theorem State.setCtx_seq (s : State) (n : Nat) (x : Context) : (s.setCtx n x).seq = s.seq := rfl
@[simp] theorem State.setCtx_free (s : State) (n : Nat) (x : Context) : (s.setCtx n x).free = s.free := rfl
@[simp] theorem State.setCtx_focus (s : State) (n : Nat) (x : Context) : (s.setCtx n x).focus = s.focus := rfl
@[simp] theorem State.setCtx_agenda (s : State) (n : Nat) (x : Context) : (s.setCtx n x).agenda = s.agenda := rfl
@[simp] theorem State.setCtx_pending (s : State) (n : Nat) (x : Context) : (s.setCtx n x).pending = s.pending := rfl
@[simp] theorem State.setCtx_turn (s : State) (n : Nat) (x : Context) : (s.setCtx n x).turn = s.turn := rfl
@[simp] theorem State.setCtx_mem (s : State) (n : Nat) (x : Context) : (s.setCtx n x).mem = s.mem := rfl
@[simp] theorem State.setCtx_stamps (s : State) (n : Nat) (x : Context) : (s.setCtx n x).stamps = s.stamps := rfl
@[simp] theorem State.setCtx_floors (s : State) (n : Nat) (x : Context) : (s.setCtx n x).floors = s.floors := rfl
@[simp] theorem State.setCtx_dir (s : State) (n : Nat) (x : Context) : (s.setCtx n x).dir = s.dir := rfl
@[simp] theorem State.setCtx_watch (s : State) (n : Nat) (x : Context) : (s.setCtx n x).watch = s.watch := rfl
@[simp] theorem State.setCtx_held (s : State) (n : Nat) (x : Context) : (s.setCtx n x).held = s.held := rfl
@[simp] theorem State.setCtx_objs (s : State) (n : Nat) (x : Context) : (s.setCtx n x).objs = s.objs := rfl
@[simp] theorem State.setCtx_revokes (s : State) (n : Nat) (x : Context) : (s.setCtx n x).revokes = s.revokes := rfl
@[simp] theorem State.setCtx_dies (s : State) (n : Nat) (x : Context) : (s.setCtx n x).dies = s.dies := rfl
@[simp] theorem State.setCtx_clus (s : State) (n : Nat) (x : Context) : (s.setCtx n x).clus = s.clus := rfl
@[simp] theorem State.setCtx_cores (s : State) (n : Nat) (x : Context) : (s.setCtx n x).cores = s.cores := rfl
@[simp] theorem State.setCtx_teams (s : State) (n : Nat) (x : Context) : (s.setCtx n x).teams = s.teams := rfl
@[simp] theorem State.setCtx_sweeps (s : State) (n : Nat) (x : Context) : (s.setCtx n x).sweeps = s.sweeps := rfl
@[simp] theorem State.setCtx_ctxs (s : State) (n : Nat) (x : Context) : (s.setCtx n x).ctxs = s.ctxs.put n x := rfl
@[simp] theorem State.setCtx_forming (s : State) (n : Nat) (x : Context) : (s.setCtx n x).forming = s.forming := rfl
@[simp] theorem State.setCtx_tasks (s : State) (n : Nat) (x : Context) : (s.setCtx n x).tasks = s.tasks := rfl
@[simp] theorem State.setCtx_tstores (s : State) (n : Nat) (x : Context) : (s.setCtx n x).tstores = s.tstores := rfl
@[simp] theorem State.setCtx_cards (s : State) (n : Nat) (x : Context) : (s.setCtx n x).cards = s.cards := rfl
@[simp] theorem State.setCtx_images (s : State) (n : Nat) (x : Context) : (s.setCtx n x).images = s.images := rfl
@[simp] theorem State.setCtx_openWrites (s : State) (n : Nat) (x : Context) : (s.setCtx n x).openWrites = s.openWrites := rfl
@[simp] theorem State.setCtx_mgmt (s : State) (n : Nat) (x : Context) : (s.setCtx n x).mgmt = s.mgmt := rfl
@[simp] theorem State.setCtx_at_core (s : State) (n : Nat) (x : Context) (k : Nat) : (s.setCtx n x).core k = s.core k := rfl
@[simp] theorem State.setCtx_at_die (s : State) (n : Nat) (x : Context) (k : Nat) : (s.setCtx n x).die k = s.die k := rfl
@[simp] theorem State.setCtx_at_clu (s : State) (n : Nat) (x : Context) (k : Nat) : (s.setCtx n x).clu k = s.clu k := rfl
@[simp] theorem State.setCtx_at_team_get (s : State) (n : Nat) (x : Context) (k : Nat) : (s.setCtx n x).team? k = s.team? k := rfl
@[simp] theorem State.setCtx_at_dirOf (s : State) (n : Nat) (x : Context) (k : Nat) : (s.setCtx n x).dirOf k = s.dirOf k := rfl
@[simp] theorem State.setCtx_at_heldOn (s : State) (n : Nat) (x : Context) (k : Nat) : (s.setCtx n x).heldOn k = s.heldOn k := rfl

/-! ## setTeam -/

@[simp] theorem State.setTeam_cycle (s : State) (n : Nat) (x : Team) : (s.setTeam n x).cycle = s.cycle := rfl
@[simp] theorem State.setTeam_seq (s : State) (n : Nat) (x : Team) : (s.setTeam n x).seq = s.seq := rfl
@[simp] theorem State.setTeam_free (s : State) (n : Nat) (x : Team) : (s.setTeam n x).free = s.free := rfl
@[simp] theorem State.setTeam_focus (s : State) (n : Nat) (x : Team) : (s.setTeam n x).focus = s.focus := rfl
@[simp] theorem State.setTeam_agenda (s : State) (n : Nat) (x : Team) : (s.setTeam n x).agenda = s.agenda := rfl
@[simp] theorem State.setTeam_pending (s : State) (n : Nat) (x : Team) : (s.setTeam n x).pending = s.pending := rfl
@[simp] theorem State.setTeam_turn (s : State) (n : Nat) (x : Team) : (s.setTeam n x).turn = s.turn := rfl
@[simp] theorem State.setTeam_mem (s : State) (n : Nat) (x : Team) : (s.setTeam n x).mem = s.mem := rfl
@[simp] theorem State.setTeam_stamps (s : State) (n : Nat) (x : Team) : (s.setTeam n x).stamps = s.stamps := rfl
@[simp] theorem State.setTeam_floors (s : State) (n : Nat) (x : Team) : (s.setTeam n x).floors = s.floors := rfl
@[simp] theorem State.setTeam_dir (s : State) (n : Nat) (x : Team) : (s.setTeam n x).dir = s.dir := rfl
@[simp] theorem State.setTeam_watch (s : State) (n : Nat) (x : Team) : (s.setTeam n x).watch = s.watch := rfl
@[simp] theorem State.setTeam_held (s : State) (n : Nat) (x : Team) : (s.setTeam n x).held = s.held := rfl
@[simp] theorem State.setTeam_objs (s : State) (n : Nat) (x : Team) : (s.setTeam n x).objs = s.objs := rfl
@[simp] theorem State.setTeam_revokes (s : State) (n : Nat) (x : Team) : (s.setTeam n x).revokes = s.revokes := rfl
@[simp] theorem State.setTeam_dies (s : State) (n : Nat) (x : Team) : (s.setTeam n x).dies = s.dies := rfl
@[simp] theorem State.setTeam_clus (s : State) (n : Nat) (x : Team) : (s.setTeam n x).clus = s.clus := rfl
@[simp] theorem State.setTeam_cores (s : State) (n : Nat) (x : Team) : (s.setTeam n x).cores = s.cores := rfl
@[simp] theorem State.setTeam_teams (s : State) (n : Nat) (x : Team) : (s.setTeam n x).teams = s.teams.put n x := rfl
@[simp] theorem State.setTeam_sweeps (s : State) (n : Nat) (x : Team) : (s.setTeam n x).sweeps = s.sweeps := rfl
@[simp] theorem State.setTeam_ctxs (s : State) (n : Nat) (x : Team) : (s.setTeam n x).ctxs = s.ctxs := rfl
@[simp] theorem State.setTeam_forming (s : State) (n : Nat) (x : Team) : (s.setTeam n x).forming = s.forming := rfl
@[simp] theorem State.setTeam_tasks (s : State) (n : Nat) (x : Team) : (s.setTeam n x).tasks = s.tasks := rfl
@[simp] theorem State.setTeam_tstores (s : State) (n : Nat) (x : Team) : (s.setTeam n x).tstores = s.tstores := rfl
@[simp] theorem State.setTeam_cards (s : State) (n : Nat) (x : Team) : (s.setTeam n x).cards = s.cards := rfl
@[simp] theorem State.setTeam_images (s : State) (n : Nat) (x : Team) : (s.setTeam n x).images = s.images := rfl
@[simp] theorem State.setTeam_openWrites (s : State) (n : Nat) (x : Team) : (s.setTeam n x).openWrites = s.openWrites := rfl
@[simp] theorem State.setTeam_mgmt (s : State) (n : Nat) (x : Team) : (s.setTeam n x).mgmt = s.mgmt := rfl
@[simp] theorem State.setTeam_at_core (s : State) (n : Nat) (x : Team) (k : Nat) : (s.setTeam n x).core k = s.core k := rfl
@[simp] theorem State.setTeam_at_die (s : State) (n : Nat) (x : Team) (k : Nat) : (s.setTeam n x).die k = s.die k := rfl
@[simp] theorem State.setTeam_at_clu (s : State) (n : Nat) (x : Team) (k : Nat) : (s.setTeam n x).clu k = s.clu k := rfl
@[simp] theorem State.setTeam_at_ctx (s : State) (n : Nat) (x : Team) (k : Nat) : (s.setTeam n x).ctx k = s.ctx k := rfl
@[simp] theorem State.setTeam_at_dirOf (s : State) (n : Nat) (x : Team) (k : Nat) : (s.setTeam n x).dirOf k = s.dirOf k := rfl
@[simp] theorem State.setTeam_at_heldOn (s : State) (n : Nat) (x : Team) (k : Nat) : (s.setTeam n x).heldOn k = s.heldOn k := rfl

/-! ## modTeam -/

@[simp] theorem State.modTeam_cycle (s : State) (n : Nat) (f : Team → Team) : (s.modTeam n f).cycle = s.cycle := rfl
@[simp] theorem State.modTeam_seq (s : State) (n : Nat) (f : Team → Team) : (s.modTeam n f).seq = s.seq := rfl
@[simp] theorem State.modTeam_free (s : State) (n : Nat) (f : Team → Team) : (s.modTeam n f).free = s.free := rfl
@[simp] theorem State.modTeam_focus (s : State) (n : Nat) (f : Team → Team) : (s.modTeam n f).focus = s.focus := rfl
@[simp] theorem State.modTeam_agenda (s : State) (n : Nat) (f : Team → Team) : (s.modTeam n f).agenda = s.agenda := rfl
@[simp] theorem State.modTeam_pending (s : State) (n : Nat) (f : Team → Team) : (s.modTeam n f).pending = s.pending := rfl
@[simp] theorem State.modTeam_turn (s : State) (n : Nat) (f : Team → Team) : (s.modTeam n f).turn = s.turn := rfl
@[simp] theorem State.modTeam_mem (s : State) (n : Nat) (f : Team → Team) : (s.modTeam n f).mem = s.mem := rfl
@[simp] theorem State.modTeam_stamps (s : State) (n : Nat) (f : Team → Team) : (s.modTeam n f).stamps = s.stamps := rfl
@[simp] theorem State.modTeam_floors (s : State) (n : Nat) (f : Team → Team) : (s.modTeam n f).floors = s.floors := rfl
@[simp] theorem State.modTeam_dir (s : State) (n : Nat) (f : Team → Team) : (s.modTeam n f).dir = s.dir := rfl
@[simp] theorem State.modTeam_watch (s : State) (n : Nat) (f : Team → Team) : (s.modTeam n f).watch = s.watch := rfl
@[simp] theorem State.modTeam_held (s : State) (n : Nat) (f : Team → Team) : (s.modTeam n f).held = s.held := rfl
@[simp] theorem State.modTeam_objs (s : State) (n : Nat) (f : Team → Team) : (s.modTeam n f).objs = s.objs := rfl
@[simp] theorem State.modTeam_revokes (s : State) (n : Nat) (f : Team → Team) : (s.modTeam n f).revokes = s.revokes := rfl
@[simp] theorem State.modTeam_dies (s : State) (n : Nat) (f : Team → Team) : (s.modTeam n f).dies = s.dies := rfl
@[simp] theorem State.modTeam_clus (s : State) (n : Nat) (f : Team → Team) : (s.modTeam n f).clus = s.clus := rfl
@[simp] theorem State.modTeam_cores (s : State) (n : Nat) (f : Team → Team) : (s.modTeam n f).cores = s.cores := rfl
@[simp] theorem State.modTeam_teams (s : State) (n : Nat) (f : Team → Team) : (s.modTeam n f).teams = s.teams.modify n f := rfl
@[simp] theorem State.modTeam_sweeps (s : State) (n : Nat) (f : Team → Team) : (s.modTeam n f).sweeps = s.sweeps := rfl
@[simp] theorem State.modTeam_ctxs (s : State) (n : Nat) (f : Team → Team) : (s.modTeam n f).ctxs = s.ctxs := rfl
@[simp] theorem State.modTeam_forming (s : State) (n : Nat) (f : Team → Team) : (s.modTeam n f).forming = s.forming := rfl
@[simp] theorem State.modTeam_tasks (s : State) (n : Nat) (f : Team → Team) : (s.modTeam n f).tasks = s.tasks := rfl
@[simp] theorem State.modTeam_tstores (s : State) (n : Nat) (f : Team → Team) : (s.modTeam n f).tstores = s.tstores := rfl
@[simp] theorem State.modTeam_cards (s : State) (n : Nat) (f : Team → Team) : (s.modTeam n f).cards = s.cards := rfl
@[simp] theorem State.modTeam_images (s : State) (n : Nat) (f : Team → Team) : (s.modTeam n f).images = s.images := rfl
@[simp] theorem State.modTeam_openWrites (s : State) (n : Nat) (f : Team → Team) : (s.modTeam n f).openWrites = s.openWrites := rfl
@[simp] theorem State.modTeam_mgmt (s : State) (n : Nat) (f : Team → Team) : (s.modTeam n f).mgmt = s.mgmt := rfl
@[simp] theorem State.modTeam_at_core (s : State) (n : Nat) (f : Team → Team) (k : Nat) : (s.modTeam n f).core k = s.core k := rfl
@[simp] theorem State.modTeam_at_die (s : State) (n : Nat) (f : Team → Team) (k : Nat) : (s.modTeam n f).die k = s.die k := rfl
@[simp] theorem State.modTeam_at_clu (s : State) (n : Nat) (f : Team → Team) (k : Nat) : (s.modTeam n f).clu k = s.clu k := rfl
@[simp] theorem State.modTeam_at_ctx (s : State) (n : Nat) (f : Team → Team) (k : Nat) : (s.modTeam n f).ctx k = s.ctx k := rfl
@[simp] theorem State.modTeam_at_dirOf (s : State) (n : Nat) (f : Team → Team) (k : Nat) : (s.modTeam n f).dirOf k = s.dirOf k := rfl
@[simp] theorem State.modTeam_at_heldOn (s : State) (n : Nat) (f : Team → Team) (k : Nat) : (s.modTeam n f).heldOn k = s.heldOn k := rfl

/-! ## modPath -/

@[simp] theorem State.modPath_cycle (s : State) (n k : Nat) (f : Path → Path) : (s.modPath n k f).cycle = s.cycle := rfl
@[simp] theorem State.modPath_seq (s : State) (n k : Nat) (f : Path → Path) : (s.modPath n k f).seq = s.seq := rfl
@[simp] theorem State.modPath_free (s : State) (n k : Nat) (f : Path → Path) : (s.modPath n k f).free = s.free := rfl
@[simp] theorem State.modPath_focus (s : State) (n k : Nat) (f : Path → Path) : (s.modPath n k f).focus = s.focus := rfl
@[simp] theorem State.modPath_agenda (s : State) (n k : Nat) (f : Path → Path) : (s.modPath n k f).agenda = s.agenda := rfl
@[simp] theorem State.modPath_pending (s : State) (n k : Nat) (f : Path → Path) : (s.modPath n k f).pending = s.pending := rfl
@[simp] theorem State.modPath_turn (s : State) (n k : Nat) (f : Path → Path) : (s.modPath n k f).turn = s.turn := rfl
@[simp] theorem State.modPath_mem (s : State) (n k : Nat) (f : Path → Path) : (s.modPath n k f).mem = s.mem := rfl
@[simp] theorem State.modPath_stamps (s : State) (n k : Nat) (f : Path → Path) : (s.modPath n k f).stamps = s.stamps := rfl
@[simp] theorem State.modPath_floors (s : State) (n k : Nat) (f : Path → Path) : (s.modPath n k f).floors = s.floors := rfl
@[simp] theorem State.modPath_dir (s : State) (n k : Nat) (f : Path → Path) : (s.modPath n k f).dir = s.dir := rfl
@[simp] theorem State.modPath_watch (s : State) (n k : Nat) (f : Path → Path) : (s.modPath n k f).watch = s.watch := rfl
@[simp] theorem State.modPath_held (s : State) (n k : Nat) (f : Path → Path) : (s.modPath n k f).held = s.held := rfl
@[simp] theorem State.modPath_objs (s : State) (n k : Nat) (f : Path → Path) : (s.modPath n k f).objs = s.objs := rfl
@[simp] theorem State.modPath_revokes (s : State) (n k : Nat) (f : Path → Path) : (s.modPath n k f).revokes = s.revokes := rfl
@[simp] theorem State.modPath_dies (s : State) (n k : Nat) (f : Path → Path) : (s.modPath n k f).dies = s.dies := rfl
@[simp] theorem State.modPath_clus (s : State) (n k : Nat) (f : Path → Path) : (s.modPath n k f).clus = s.clus := rfl
@[simp] theorem State.modPath_cores (s : State) (n k : Nat) (f : Path → Path) : (s.modPath n k f).cores = s.cores := rfl
@[simp] theorem State.modPath_teams (s : State) (n k : Nat) (f : Path → Path) : (s.modPath n k f).teams = s.teams.modify n fun t => { t with paths := t.paths.modify k f } := rfl
@[simp] theorem State.modPath_sweeps (s : State) (n k : Nat) (f : Path → Path) : (s.modPath n k f).sweeps = s.sweeps := rfl
@[simp] theorem State.modPath_ctxs (s : State) (n k : Nat) (f : Path → Path) : (s.modPath n k f).ctxs = s.ctxs := rfl
@[simp] theorem State.modPath_forming (s : State) (n k : Nat) (f : Path → Path) : (s.modPath n k f).forming = s.forming := rfl
@[simp] theorem State.modPath_tasks (s : State) (n k : Nat) (f : Path → Path) : (s.modPath n k f).tasks = s.tasks := rfl
@[simp] theorem State.modPath_tstores (s : State) (n k : Nat) (f : Path → Path) : (s.modPath n k f).tstores = s.tstores := rfl
@[simp] theorem State.modPath_cards (s : State) (n k : Nat) (f : Path → Path) : (s.modPath n k f).cards = s.cards := rfl
@[simp] theorem State.modPath_images (s : State) (n k : Nat) (f : Path → Path) : (s.modPath n k f).images = s.images := rfl
@[simp] theorem State.modPath_openWrites (s : State) (n k : Nat) (f : Path → Path) : (s.modPath n k f).openWrites = s.openWrites := rfl
@[simp] theorem State.modPath_mgmt (s : State) (n k : Nat) (f : Path → Path) : (s.modPath n k f).mgmt = s.mgmt := rfl
@[simp] theorem State.modPath_at_core (s : State) (n k : Nat) (f : Path → Path) (j : Nat) : (s.modPath n k f).core j = s.core j := rfl
@[simp] theorem State.modPath_at_die (s : State) (n k : Nat) (f : Path → Path) (j : Nat) : (s.modPath n k f).die j = s.die j := rfl
@[simp] theorem State.modPath_at_clu (s : State) (n k : Nat) (f : Path → Path) (j : Nat) : (s.modPath n k f).clu j = s.clu j := rfl
@[simp] theorem State.modPath_at_ctx (s : State) (n k : Nat) (f : Path → Path) (j : Nat) : (s.modPath n k f).ctx j = s.ctx j := rfl
@[simp] theorem State.modPath_at_dirOf (s : State) (n k : Nat) (f : Path → Path) (j : Nat) : (s.modPath n k f).dirOf j = s.dirOf j := rfl
@[simp] theorem State.modPath_at_heldOn (s : State) (n k : Nat) (f : Path → Path) (j : Nat) : (s.modPath n k f).heldOn j = s.heldOn j := rfl

/-! ## modGroup -/

@[simp] theorem State.modGroup_cycle (s : State) (n k : Nat) (f : Group → Group) : (s.modGroup n k f).cycle = s.cycle := rfl
@[simp] theorem State.modGroup_seq (s : State) (n k : Nat) (f : Group → Group) : (s.modGroup n k f).seq = s.seq := rfl
@[simp] theorem State.modGroup_free (s : State) (n k : Nat) (f : Group → Group) : (s.modGroup n k f).free = s.free := rfl
@[simp] theorem State.modGroup_focus (s : State) (n k : Nat) (f : Group → Group) : (s.modGroup n k f).focus = s.focus := rfl
@[simp] theorem State.modGroup_agenda (s : State) (n k : Nat) (f : Group → Group) : (s.modGroup n k f).agenda = s.agenda := rfl
@[simp] theorem State.modGroup_pending (s : State) (n k : Nat) (f : Group → Group) : (s.modGroup n k f).pending = s.pending := rfl
@[simp] theorem State.modGroup_turn (s : State) (n k : Nat) (f : Group → Group) : (s.modGroup n k f).turn = s.turn := rfl
@[simp] theorem State.modGroup_mem (s : State) (n k : Nat) (f : Group → Group) : (s.modGroup n k f).mem = s.mem := rfl
@[simp] theorem State.modGroup_stamps (s : State) (n k : Nat) (f : Group → Group) : (s.modGroup n k f).stamps = s.stamps := rfl
@[simp] theorem State.modGroup_floors (s : State) (n k : Nat) (f : Group → Group) : (s.modGroup n k f).floors = s.floors := rfl
@[simp] theorem State.modGroup_dir (s : State) (n k : Nat) (f : Group → Group) : (s.modGroup n k f).dir = s.dir := rfl
@[simp] theorem State.modGroup_watch (s : State) (n k : Nat) (f : Group → Group) : (s.modGroup n k f).watch = s.watch := rfl
@[simp] theorem State.modGroup_held (s : State) (n k : Nat) (f : Group → Group) : (s.modGroup n k f).held = s.held := rfl
@[simp] theorem State.modGroup_objs (s : State) (n k : Nat) (f : Group → Group) : (s.modGroup n k f).objs = s.objs := rfl
@[simp] theorem State.modGroup_revokes (s : State) (n k : Nat) (f : Group → Group) : (s.modGroup n k f).revokes = s.revokes := rfl
@[simp] theorem State.modGroup_dies (s : State) (n k : Nat) (f : Group → Group) : (s.modGroup n k f).dies = s.dies := rfl
@[simp] theorem State.modGroup_cores (s : State) (n k : Nat) (f : Group → Group) : (s.modGroup n k f).cores = s.cores := rfl
@[simp] theorem State.modGroup_teams (s : State) (n k : Nat) (f : Group → Group) : (s.modGroup n k f).teams = s.teams := rfl
@[simp] theorem State.modGroup_sweeps (s : State) (n k : Nat) (f : Group → Group) : (s.modGroup n k f).sweeps = s.sweeps := rfl
@[simp] theorem State.modGroup_ctxs (s : State) (n k : Nat) (f : Group → Group) : (s.modGroup n k f).ctxs = s.ctxs := rfl
@[simp] theorem State.modGroup_forming (s : State) (n k : Nat) (f : Group → Group) : (s.modGroup n k f).forming = s.forming := rfl
@[simp] theorem State.modGroup_tasks (s : State) (n k : Nat) (f : Group → Group) : (s.modGroup n k f).tasks = s.tasks := rfl
@[simp] theorem State.modGroup_tstores (s : State) (n k : Nat) (f : Group → Group) : (s.modGroup n k f).tstores = s.tstores := rfl
@[simp] theorem State.modGroup_cards (s : State) (n k : Nat) (f : Group → Group) : (s.modGroup n k f).cards = s.cards := rfl
@[simp] theorem State.modGroup_images (s : State) (n k : Nat) (f : Group → Group) : (s.modGroup n k f).images = s.images := rfl
@[simp] theorem State.modGroup_openWrites (s : State) (n k : Nat) (f : Group → Group) : (s.modGroup n k f).openWrites = s.openWrites := rfl
@[simp] theorem State.modGroup_mgmt (s : State) (n k : Nat) (f : Group → Group) : (s.modGroup n k f).mgmt = s.mgmt := rfl
@[simp] theorem State.modGroup_at_core (s : State) (n k : Nat) (f : Group → Group) (j : Nat) : (s.modGroup n k f).core j = s.core j := rfl
@[simp] theorem State.modGroup_at_die (s : State) (n k : Nat) (f : Group → Group) (j : Nat) : (s.modGroup n k f).die j = s.die j := rfl
@[simp] theorem State.modGroup_at_ctx (s : State) (n k : Nat) (f : Group → Group) (j : Nat) : (s.modGroup n k f).ctx j = s.ctx j := rfl
@[simp] theorem State.modGroup_at_team_get (s : State) (n k : Nat) (f : Group → Group) (j : Nat) : (s.modGroup n k f).team? j = s.team? j := rfl
@[simp] theorem State.modGroup_at_dirOf (s : State) (n k : Nat) (f : Group → Group) (j : Nat) : (s.modGroup n k f).dirOf j = s.dirOf j := rfl
@[simp] theorem State.modGroup_at_heldOn (s : State) (n k : Nat) (f : Group → Group) (j : Nat) : (s.modGroup n k f).heldOn j = s.heldOn j := rfl

/-! ## modMgmt -/

@[simp] theorem State.modMgmt_cycle (s : State) (f : Mgmt → Mgmt) : (s.modMgmt f).cycle = s.cycle := rfl
@[simp] theorem State.modMgmt_seq (s : State) (f : Mgmt → Mgmt) : (s.modMgmt f).seq = s.seq := rfl
@[simp] theorem State.modMgmt_free (s : State) (f : Mgmt → Mgmt) : (s.modMgmt f).free = s.free := rfl
@[simp] theorem State.modMgmt_focus (s : State) (f : Mgmt → Mgmt) : (s.modMgmt f).focus = s.focus := rfl
@[simp] theorem State.modMgmt_agenda (s : State) (f : Mgmt → Mgmt) : (s.modMgmt f).agenda = s.agenda := rfl
@[simp] theorem State.modMgmt_pending (s : State) (f : Mgmt → Mgmt) : (s.modMgmt f).pending = s.pending := rfl
@[simp] theorem State.modMgmt_turn (s : State) (f : Mgmt → Mgmt) : (s.modMgmt f).turn = s.turn := rfl
@[simp] theorem State.modMgmt_mem (s : State) (f : Mgmt → Mgmt) : (s.modMgmt f).mem = s.mem := rfl
@[simp] theorem State.modMgmt_stamps (s : State) (f : Mgmt → Mgmt) : (s.modMgmt f).stamps = s.stamps := rfl
@[simp] theorem State.modMgmt_floors (s : State) (f : Mgmt → Mgmt) : (s.modMgmt f).floors = s.floors := rfl
@[simp] theorem State.modMgmt_dir (s : State) (f : Mgmt → Mgmt) : (s.modMgmt f).dir = s.dir := rfl
@[simp] theorem State.modMgmt_watch (s : State) (f : Mgmt → Mgmt) : (s.modMgmt f).watch = s.watch := rfl
@[simp] theorem State.modMgmt_held (s : State) (f : Mgmt → Mgmt) : (s.modMgmt f).held = s.held := rfl
@[simp] theorem State.modMgmt_objs (s : State) (f : Mgmt → Mgmt) : (s.modMgmt f).objs = s.objs := rfl
@[simp] theorem State.modMgmt_revokes (s : State) (f : Mgmt → Mgmt) : (s.modMgmt f).revokes = s.revokes := rfl
@[simp] theorem State.modMgmt_dies (s : State) (f : Mgmt → Mgmt) : (s.modMgmt f).dies = s.dies := rfl
@[simp] theorem State.modMgmt_clus (s : State) (f : Mgmt → Mgmt) : (s.modMgmt f).clus = s.clus := rfl
@[simp] theorem State.modMgmt_cores (s : State) (f : Mgmt → Mgmt) : (s.modMgmt f).cores = s.cores := rfl
@[simp] theorem State.modMgmt_teams (s : State) (f : Mgmt → Mgmt) : (s.modMgmt f).teams = s.teams := rfl
@[simp] theorem State.modMgmt_sweeps (s : State) (f : Mgmt → Mgmt) : (s.modMgmt f).sweeps = s.sweeps := rfl
@[simp] theorem State.modMgmt_ctxs (s : State) (f : Mgmt → Mgmt) : (s.modMgmt f).ctxs = s.ctxs := rfl
@[simp] theorem State.modMgmt_forming (s : State) (f : Mgmt → Mgmt) : (s.modMgmt f).forming = s.forming := rfl
@[simp] theorem State.modMgmt_tasks (s : State) (f : Mgmt → Mgmt) : (s.modMgmt f).tasks = s.tasks := rfl
@[simp] theorem State.modMgmt_tstores (s : State) (f : Mgmt → Mgmt) : (s.modMgmt f).tstores = s.tstores := rfl
@[simp] theorem State.modMgmt_cards (s : State) (f : Mgmt → Mgmt) : (s.modMgmt f).cards = s.cards := rfl
@[simp] theorem State.modMgmt_images (s : State) (f : Mgmt → Mgmt) : (s.modMgmt f).images = s.images := rfl
@[simp] theorem State.modMgmt_openWrites (s : State) (f : Mgmt → Mgmt) : (s.modMgmt f).openWrites = s.openWrites := rfl
@[simp] theorem State.modMgmt_mgmt (s : State) (f : Mgmt → Mgmt) : (s.modMgmt f).mgmt = f s.mgmt := rfl
@[simp] theorem State.modMgmt_at_core (s : State) (f : Mgmt → Mgmt) (k : Nat) : (s.modMgmt f).core k = s.core k := rfl
@[simp] theorem State.modMgmt_at_die (s : State) (f : Mgmt → Mgmt) (k : Nat) : (s.modMgmt f).die k = s.die k := rfl
@[simp] theorem State.modMgmt_at_clu (s : State) (f : Mgmt → Mgmt) (k : Nat) : (s.modMgmt f).clu k = s.clu k := rfl
@[simp] theorem State.modMgmt_at_ctx (s : State) (f : Mgmt → Mgmt) (k : Nat) : (s.modMgmt f).ctx k = s.ctx k := rfl
@[simp] theorem State.modMgmt_at_team_get (s : State) (f : Mgmt → Mgmt) (k : Nat) : (s.modMgmt f).team? k = s.team? k := rfl
@[simp] theorem State.modMgmt_at_dirOf (s : State) (f : Mgmt → Mgmt) (k : Nat) : (s.modMgmt f).dirOf k = s.dirOf k := rfl
@[simp] theorem State.modMgmt_at_heldOn (s : State) (f : Mgmt → Mgmt) (k : Nat) : (s.modMgmt f).heldOn k = s.heldOn k := rfl

/-! ## post -/

@[simp] theorem State.post_cycle (s : State) (e : Instr) : (s.post e).cycle = s.cycle := rfl
@[simp] theorem State.post_seq (s : State) (e : Instr) : (s.post e).seq = s.seq := rfl
@[simp] theorem State.post_free (s : State) (e : Instr) : (s.post e).free = s.free := rfl
@[simp] theorem State.post_focus (s : State) (e : Instr) : (s.post e).focus = s.focus := rfl
@[simp] theorem State.post_agenda (s : State) (e : Instr) : (s.post e).agenda = s.agenda := rfl
@[simp] theorem State.post_pending (s : State) (e : Instr) : (s.post e).pending = s.pending ++ [e] := rfl
@[simp] theorem State.post_turn (s : State) (e : Instr) : (s.post e).turn = s.turn := rfl
@[simp] theorem State.post_mem (s : State) (e : Instr) : (s.post e).mem = s.mem := rfl
@[simp] theorem State.post_stamps (s : State) (e : Instr) : (s.post e).stamps = s.stamps := rfl
@[simp] theorem State.post_floors (s : State) (e : Instr) : (s.post e).floors = s.floors := rfl
@[simp] theorem State.post_dir (s : State) (e : Instr) : (s.post e).dir = s.dir := rfl
@[simp] theorem State.post_watch (s : State) (e : Instr) : (s.post e).watch = s.watch := rfl
@[simp] theorem State.post_held (s : State) (e : Instr) : (s.post e).held = s.held := rfl
@[simp] theorem State.post_objs (s : State) (e : Instr) : (s.post e).objs = s.objs := rfl
@[simp] theorem State.post_revokes (s : State) (e : Instr) : (s.post e).revokes = s.revokes := rfl
@[simp] theorem State.post_dies (s : State) (e : Instr) : (s.post e).dies = s.dies := rfl
@[simp] theorem State.post_clus (s : State) (e : Instr) : (s.post e).clus = s.clus := rfl
@[simp] theorem State.post_cores (s : State) (e : Instr) : (s.post e).cores = s.cores := rfl
@[simp] theorem State.post_teams (s : State) (e : Instr) : (s.post e).teams = s.teams := rfl
@[simp] theorem State.post_sweeps (s : State) (e : Instr) : (s.post e).sweeps = s.sweeps := rfl
@[simp] theorem State.post_ctxs (s : State) (e : Instr) : (s.post e).ctxs = s.ctxs := rfl
@[simp] theorem State.post_forming (s : State) (e : Instr) : (s.post e).forming = s.forming := rfl
@[simp] theorem State.post_tasks (s : State) (e : Instr) : (s.post e).tasks = s.tasks := rfl
@[simp] theorem State.post_tstores (s : State) (e : Instr) : (s.post e).tstores = s.tstores := rfl
@[simp] theorem State.post_cards (s : State) (e : Instr) : (s.post e).cards = s.cards := rfl
@[simp] theorem State.post_images (s : State) (e : Instr) : (s.post e).images = s.images := rfl
@[simp] theorem State.post_openWrites (s : State) (e : Instr) : (s.post e).openWrites = s.openWrites := rfl
@[simp] theorem State.post_mgmt (s : State) (e : Instr) : (s.post e).mgmt = s.mgmt := rfl
@[simp] theorem State.post_at_core (s : State) (e : Instr) (k : Nat) : (s.post e).core k = s.core k := rfl
@[simp] theorem State.post_at_die (s : State) (e : Instr) (k : Nat) : (s.post e).die k = s.die k := rfl
@[simp] theorem State.post_at_clu (s : State) (e : Instr) (k : Nat) : (s.post e).clu k = s.clu k := rfl
@[simp] theorem State.post_at_ctx (s : State) (e : Instr) (k : Nat) : (s.post e).ctx k = s.ctx k := rfl
@[simp] theorem State.post_at_team_get (s : State) (e : Instr) (k : Nat) : (s.post e).team? k = s.team? k := rfl
@[simp] theorem State.post_at_dirOf (s : State) (e : Instr) (k : Nat) : (s.post e).dirOf k = s.dirOf k := rfl
@[simp] theorem State.post_at_heldOn (s : State) (e : Instr) (k : Nat) : (s.post e).heldOn k = s.heldOn k := rfl

/-! ## postAll -/

@[simp] theorem State.postAll_cycle (s : State) (es : List Instr) : (s.postAll es).cycle = s.cycle := rfl
@[simp] theorem State.postAll_seq (s : State) (es : List Instr) : (s.postAll es).seq = s.seq := rfl
@[simp] theorem State.postAll_free (s : State) (es : List Instr) : (s.postAll es).free = s.free := rfl
@[simp] theorem State.postAll_focus (s : State) (es : List Instr) : (s.postAll es).focus = s.focus := rfl
@[simp] theorem State.postAll_agenda (s : State) (es : List Instr) : (s.postAll es).agenda = s.agenda := rfl
@[simp] theorem State.postAll_pending (s : State) (es : List Instr) : (s.postAll es).pending = s.pending ++ es := rfl
@[simp] theorem State.postAll_turn (s : State) (es : List Instr) : (s.postAll es).turn = s.turn := rfl
@[simp] theorem State.postAll_mem (s : State) (es : List Instr) : (s.postAll es).mem = s.mem := rfl
@[simp] theorem State.postAll_stamps (s : State) (es : List Instr) : (s.postAll es).stamps = s.stamps := rfl
@[simp] theorem State.postAll_floors (s : State) (es : List Instr) : (s.postAll es).floors = s.floors := rfl
@[simp] theorem State.postAll_dir (s : State) (es : List Instr) : (s.postAll es).dir = s.dir := rfl
@[simp] theorem State.postAll_watch (s : State) (es : List Instr) : (s.postAll es).watch = s.watch := rfl
@[simp] theorem State.postAll_held (s : State) (es : List Instr) : (s.postAll es).held = s.held := rfl
@[simp] theorem State.postAll_objs (s : State) (es : List Instr) : (s.postAll es).objs = s.objs := rfl
@[simp] theorem State.postAll_revokes (s : State) (es : List Instr) : (s.postAll es).revokes = s.revokes := rfl
@[simp] theorem State.postAll_dies (s : State) (es : List Instr) : (s.postAll es).dies = s.dies := rfl
@[simp] theorem State.postAll_clus (s : State) (es : List Instr) : (s.postAll es).clus = s.clus := rfl
@[simp] theorem State.postAll_cores (s : State) (es : List Instr) : (s.postAll es).cores = s.cores := rfl
@[simp] theorem State.postAll_teams (s : State) (es : List Instr) : (s.postAll es).teams = s.teams := rfl
@[simp] theorem State.postAll_sweeps (s : State) (es : List Instr) : (s.postAll es).sweeps = s.sweeps := rfl
@[simp] theorem State.postAll_ctxs (s : State) (es : List Instr) : (s.postAll es).ctxs = s.ctxs := rfl
@[simp] theorem State.postAll_forming (s : State) (es : List Instr) : (s.postAll es).forming = s.forming := rfl
@[simp] theorem State.postAll_tasks (s : State) (es : List Instr) : (s.postAll es).tasks = s.tasks := rfl
@[simp] theorem State.postAll_tstores (s : State) (es : List Instr) : (s.postAll es).tstores = s.tstores := rfl
@[simp] theorem State.postAll_cards (s : State) (es : List Instr) : (s.postAll es).cards = s.cards := rfl
@[simp] theorem State.postAll_images (s : State) (es : List Instr) : (s.postAll es).images = s.images := rfl
@[simp] theorem State.postAll_openWrites (s : State) (es : List Instr) : (s.postAll es).openWrites = s.openWrites := rfl
@[simp] theorem State.postAll_mgmt (s : State) (es : List Instr) : (s.postAll es).mgmt = s.mgmt := rfl
@[simp] theorem State.postAll_at_core (s : State) (es : List Instr) (k : Nat) : (s.postAll es).core k = s.core k := rfl
@[simp] theorem State.postAll_at_die (s : State) (es : List Instr) (k : Nat) : (s.postAll es).die k = s.die k := rfl
@[simp] theorem State.postAll_at_clu (s : State) (es : List Instr) (k : Nat) : (s.postAll es).clu k = s.clu k := rfl
@[simp] theorem State.postAll_at_ctx (s : State) (es : List Instr) (k : Nat) : (s.postAll es).ctx k = s.ctx k := rfl
@[simp] theorem State.postAll_at_team_get (s : State) (es : List Instr) (k : Nat) : (s.postAll es).team? k = s.team? k := rfl
@[simp] theorem State.postAll_at_dirOf (s : State) (es : List Instr) (k : Nat) : (s.postAll es).dirOf k = s.dirOf k := rfl
@[simp] theorem State.postAll_at_heldOn (s : State) (es : List Instr) (k : Nat) : (s.postAll es).heldOn k = s.heldOn k := rfl

/-! ## unpost -/

@[simp] theorem State.unpost_cycle (s : State) (e : Instr) : (s.unpost e).cycle = s.cycle := rfl
@[simp] theorem State.unpost_seq (s : State) (e : Instr) : (s.unpost e).seq = s.seq := rfl
@[simp] theorem State.unpost_free (s : State) (e : Instr) : (s.unpost e).free = s.free := rfl
@[simp] theorem State.unpost_focus (s : State) (e : Instr) : (s.unpost e).focus = s.focus := rfl
@[simp] theorem State.unpost_agenda (s : State) (e : Instr) : (s.unpost e).agenda = s.agenda := rfl
@[simp] theorem State.unpost_pending (s : State) (e : Instr) : (s.unpost e).pending = s.pending.erase e := rfl
@[simp] theorem State.unpost_turn (s : State) (e : Instr) : (s.unpost e).turn = s.turn := rfl
@[simp] theorem State.unpost_mem (s : State) (e : Instr) : (s.unpost e).mem = s.mem := rfl
@[simp] theorem State.unpost_stamps (s : State) (e : Instr) : (s.unpost e).stamps = s.stamps := rfl
@[simp] theorem State.unpost_floors (s : State) (e : Instr) : (s.unpost e).floors = s.floors := rfl
@[simp] theorem State.unpost_dir (s : State) (e : Instr) : (s.unpost e).dir = s.dir := rfl
@[simp] theorem State.unpost_watch (s : State) (e : Instr) : (s.unpost e).watch = s.watch := rfl
@[simp] theorem State.unpost_held (s : State) (e : Instr) : (s.unpost e).held = s.held := rfl
@[simp] theorem State.unpost_objs (s : State) (e : Instr) : (s.unpost e).objs = s.objs := rfl
@[simp] theorem State.unpost_revokes (s : State) (e : Instr) : (s.unpost e).revokes = s.revokes := rfl
@[simp] theorem State.unpost_dies (s : State) (e : Instr) : (s.unpost e).dies = s.dies := rfl
@[simp] theorem State.unpost_clus (s : State) (e : Instr) : (s.unpost e).clus = s.clus := rfl
@[simp] theorem State.unpost_cores (s : State) (e : Instr) : (s.unpost e).cores = s.cores := rfl
@[simp] theorem State.unpost_teams (s : State) (e : Instr) : (s.unpost e).teams = s.teams := rfl
@[simp] theorem State.unpost_sweeps (s : State) (e : Instr) : (s.unpost e).sweeps = s.sweeps := rfl
@[simp] theorem State.unpost_ctxs (s : State) (e : Instr) : (s.unpost e).ctxs = s.ctxs := rfl
@[simp] theorem State.unpost_forming (s : State) (e : Instr) : (s.unpost e).forming = s.forming := rfl
@[simp] theorem State.unpost_tasks (s : State) (e : Instr) : (s.unpost e).tasks = s.tasks := rfl
@[simp] theorem State.unpost_tstores (s : State) (e : Instr) : (s.unpost e).tstores = s.tstores := rfl
@[simp] theorem State.unpost_cards (s : State) (e : Instr) : (s.unpost e).cards = s.cards := rfl
@[simp] theorem State.unpost_images (s : State) (e : Instr) : (s.unpost e).images = s.images := rfl
@[simp] theorem State.unpost_openWrites (s : State) (e : Instr) : (s.unpost e).openWrites = s.openWrites := rfl
@[simp] theorem State.unpost_mgmt (s : State) (e : Instr) : (s.unpost e).mgmt = s.mgmt := rfl
@[simp] theorem State.unpost_at_core (s : State) (e : Instr) (k : Nat) : (s.unpost e).core k = s.core k := rfl
@[simp] theorem State.unpost_at_die (s : State) (e : Instr) (k : Nat) : (s.unpost e).die k = s.die k := rfl
@[simp] theorem State.unpost_at_clu (s : State) (e : Instr) (k : Nat) : (s.unpost e).clu k = s.clu k := rfl
@[simp] theorem State.unpost_at_ctx (s : State) (e : Instr) (k : Nat) : (s.unpost e).ctx k = s.ctx k := rfl
@[simp] theorem State.unpost_at_team_get (s : State) (e : Instr) (k : Nat) : (s.unpost e).team? k = s.team? k := rfl
@[simp] theorem State.unpost_at_dirOf (s : State) (e : Instr) (k : Nat) : (s.unpost e).dirOf k = s.dirOf k := rfl
@[simp] theorem State.unpost_at_heldOn (s : State) (e : Instr) (k : Nat) : (s.unpost e).heldOn k = s.heldOn k := rfl

/-! ## setDir -/

@[simp] theorem State.setDir_cycle (s : State) (l : Nat) (e : DirEntry) : (s.setDir l e).cycle = s.cycle := rfl
@[simp] theorem State.setDir_seq (s : State) (l : Nat) (e : DirEntry) : (s.setDir l e).seq = s.seq := rfl
@[simp] theorem State.setDir_free (s : State) (l : Nat) (e : DirEntry) : (s.setDir l e).free = s.free := rfl
@[simp] theorem State.setDir_focus (s : State) (l : Nat) (e : DirEntry) : (s.setDir l e).focus = s.focus := rfl
@[simp] theorem State.setDir_agenda (s : State) (l : Nat) (e : DirEntry) : (s.setDir l e).agenda = s.agenda := rfl
@[simp] theorem State.setDir_pending (s : State) (l : Nat) (e : DirEntry) : (s.setDir l e).pending = s.pending := rfl
@[simp] theorem State.setDir_turn (s : State) (l : Nat) (e : DirEntry) : (s.setDir l e).turn = s.turn := rfl
@[simp] theorem State.setDir_mem (s : State) (l : Nat) (e : DirEntry) : (s.setDir l e).mem = s.mem := rfl
@[simp] theorem State.setDir_stamps (s : State) (l : Nat) (e : DirEntry) : (s.setDir l e).stamps = s.stamps := rfl
@[simp] theorem State.setDir_floors (s : State) (l : Nat) (e : DirEntry) : (s.setDir l e).floors = s.floors := rfl
@[simp] theorem State.setDir_dir (s : State) (l : Nat) (e : DirEntry) : (s.setDir l e).dir = s.dir.put l e := rfl
@[simp] theorem State.setDir_watch (s : State) (l : Nat) (e : DirEntry) : (s.setDir l e).watch = s.watch := rfl
@[simp] theorem State.setDir_held (s : State) (l : Nat) (e : DirEntry) : (s.setDir l e).held = s.held := rfl
@[simp] theorem State.setDir_objs (s : State) (l : Nat) (e : DirEntry) : (s.setDir l e).objs = s.objs := rfl
@[simp] theorem State.setDir_revokes (s : State) (l : Nat) (e : DirEntry) : (s.setDir l e).revokes = s.revokes := rfl
@[simp] theorem State.setDir_dies (s : State) (l : Nat) (e : DirEntry) : (s.setDir l e).dies = s.dies := rfl
@[simp] theorem State.setDir_clus (s : State) (l : Nat) (e : DirEntry) : (s.setDir l e).clus = s.clus := rfl
@[simp] theorem State.setDir_cores (s : State) (l : Nat) (e : DirEntry) : (s.setDir l e).cores = s.cores := rfl
@[simp] theorem State.setDir_teams (s : State) (l : Nat) (e : DirEntry) : (s.setDir l e).teams = s.teams := rfl
@[simp] theorem State.setDir_sweeps (s : State) (l : Nat) (e : DirEntry) : (s.setDir l e).sweeps = s.sweeps := rfl
@[simp] theorem State.setDir_ctxs (s : State) (l : Nat) (e : DirEntry) : (s.setDir l e).ctxs = s.ctxs := rfl
@[simp] theorem State.setDir_forming (s : State) (l : Nat) (e : DirEntry) : (s.setDir l e).forming = s.forming := rfl
@[simp] theorem State.setDir_tasks (s : State) (l : Nat) (e : DirEntry) : (s.setDir l e).tasks = s.tasks := rfl
@[simp] theorem State.setDir_tstores (s : State) (l : Nat) (e : DirEntry) : (s.setDir l e).tstores = s.tstores := rfl
@[simp] theorem State.setDir_cards (s : State) (l : Nat) (e : DirEntry) : (s.setDir l e).cards = s.cards := rfl
@[simp] theorem State.setDir_images (s : State) (l : Nat) (e : DirEntry) : (s.setDir l e).images = s.images := rfl
@[simp] theorem State.setDir_openWrites (s : State) (l : Nat) (e : DirEntry) : (s.setDir l e).openWrites = s.openWrites := rfl
@[simp] theorem State.setDir_mgmt (s : State) (l : Nat) (e : DirEntry) : (s.setDir l e).mgmt = s.mgmt := rfl
@[simp] theorem State.setDir_at_core (s : State) (l : Nat) (e : DirEntry) (k : Nat) : (s.setDir l e).core k = s.core k := rfl
@[simp] theorem State.setDir_at_die (s : State) (l : Nat) (e : DirEntry) (k : Nat) : (s.setDir l e).die k = s.die k := rfl
@[simp] theorem State.setDir_at_clu (s : State) (l : Nat) (e : DirEntry) (k : Nat) : (s.setDir l e).clu k = s.clu k := rfl
@[simp] theorem State.setDir_at_ctx (s : State) (l : Nat) (e : DirEntry) (k : Nat) : (s.setDir l e).ctx k = s.ctx k := rfl
@[simp] theorem State.setDir_at_team_get (s : State) (l : Nat) (e : DirEntry) (k : Nat) : (s.setDir l e).team? k = s.team? k := rfl
@[simp] theorem State.setDir_at_heldOn (s : State) (l : Nat) (e : DirEntry) (k : Nat) : (s.setDir l e).heldOn k = s.heldOn k := rfl

/-! ## pmc -/

@[simp] theorem State.pmc_cycle (s : State) (k e n x : Nat) : (s.pmc k e n x).cycle = s.cycle := rfl
@[simp] theorem State.pmc_seq (s : State) (k e n x : Nat) : (s.pmc k e n x).seq = s.seq := rfl
@[simp] theorem State.pmc_free (s : State) (k e n x : Nat) : (s.pmc k e n x).free = s.free := rfl
@[simp] theorem State.pmc_focus (s : State) (k e n x : Nat) : (s.pmc k e n x).focus = s.focus := rfl
@[simp] theorem State.pmc_agenda (s : State) (k e n x : Nat) : (s.pmc k e n x).agenda = s.agenda := rfl
@[simp] theorem State.pmc_pending (s : State) (k e n x : Nat) : (s.pmc k e n x).pending = s.pending := rfl
@[simp] theorem State.pmc_turn (s : State) (k e n x : Nat) : (s.pmc k e n x).turn = s.turn := rfl
@[simp] theorem State.pmc_mem (s : State) (k e n x : Nat) : (s.pmc k e n x).mem = s.mem := rfl
@[simp] theorem State.pmc_stamps (s : State) (k e n x : Nat) : (s.pmc k e n x).stamps = s.stamps := rfl
@[simp] theorem State.pmc_floors (s : State) (k e n x : Nat) : (s.pmc k e n x).floors = s.floors := rfl
@[simp] theorem State.pmc_dir (s : State) (k e n x : Nat) : (s.pmc k e n x).dir = s.dir := rfl
@[simp] theorem State.pmc_watch (s : State) (k e n x : Nat) : (s.pmc k e n x).watch = s.watch := rfl
@[simp] theorem State.pmc_held (s : State) (k e n x : Nat) : (s.pmc k e n x).held = s.held := rfl
@[simp] theorem State.pmc_objs (s : State) (k e n x : Nat) : (s.pmc k e n x).objs = s.objs := rfl
@[simp] theorem State.pmc_revokes (s : State) (k e n x : Nat) : (s.pmc k e n x).revokes = s.revokes := rfl
@[simp] theorem State.pmc_dies (s : State) (k e n x : Nat) : (s.pmc k e n x).dies = s.dies := rfl
@[simp] theorem State.pmc_clus (s : State) (k e n x : Nat) : (s.pmc k e n x).clus = s.clus := rfl
@[simp] theorem State.pmc_teams (s : State) (k e n x : Nat) : (s.pmc k e n x).teams = s.teams := rfl
@[simp] theorem State.pmc_sweeps (s : State) (k e n x : Nat) : (s.pmc k e n x).sweeps = s.sweeps := rfl
@[simp] theorem State.pmc_ctxs (s : State) (k e n x : Nat) : (s.pmc k e n x).ctxs = s.ctxs := rfl
@[simp] theorem State.pmc_forming (s : State) (k e n x : Nat) : (s.pmc k e n x).forming = s.forming := rfl
@[simp] theorem State.pmc_tasks (s : State) (k e n x : Nat) : (s.pmc k e n x).tasks = s.tasks := rfl
@[simp] theorem State.pmc_tstores (s : State) (k e n x : Nat) : (s.pmc k e n x).tstores = s.tstores := rfl
@[simp] theorem State.pmc_cards (s : State) (k e n x : Nat) : (s.pmc k e n x).cards = s.cards := rfl
@[simp] theorem State.pmc_images (s : State) (k e n x : Nat) : (s.pmc k e n x).images = s.images := rfl
@[simp] theorem State.pmc_openWrites (s : State) (k e n x : Nat) : (s.pmc k e n x).openWrites = s.openWrites := rfl
@[simp] theorem State.pmc_mgmt (s : State) (k e n x : Nat) : (s.pmc k e n x).mgmt = s.mgmt := rfl
@[simp] theorem State.pmc_at_die (s : State) (k e n x : Nat) (j : Nat) : (s.pmc k e n x).die j = s.die j := rfl
@[simp] theorem State.pmc_at_clu (s : State) (k e n x : Nat) (j : Nat) : (s.pmc k e n x).clu j = s.clu j := rfl
@[simp] theorem State.pmc_at_ctx (s : State) (k e n x : Nat) (j : Nat) : (s.pmc k e n x).ctx j = s.ctx j := rfl
@[simp] theorem State.pmc_at_team_get (s : State) (k e n x : Nat) (j : Nat) : (s.pmc k e n x).team? j = s.team? j := rfl
@[simp] theorem State.pmc_at_dirOf (s : State) (k e n x : Nat) (j : Nat) : (s.pmc k e n x).dirOf j = s.dirOf j := rfl
@[simp] theorem State.pmc_at_heldOn (s : State) (k e n x : Nat) (j : Nat) : (s.pmc k e n x).heldOn j = s.heldOn j := rfl

/-! ## dpmc -/

@[simp] theorem State.dpmc_cycle (s : State) (d e n : Nat) (cs : List Nat) : (s.dpmc d e n cs).cycle = s.cycle := rfl
@[simp] theorem State.dpmc_seq (s : State) (d e n : Nat) (cs : List Nat) : (s.dpmc d e n cs).seq = s.seq := rfl
@[simp] theorem State.dpmc_free (s : State) (d e n : Nat) (cs : List Nat) : (s.dpmc d e n cs).free = s.free := rfl
@[simp] theorem State.dpmc_focus (s : State) (d e n : Nat) (cs : List Nat) : (s.dpmc d e n cs).focus = s.focus := rfl
@[simp] theorem State.dpmc_agenda (s : State) (d e n : Nat) (cs : List Nat) : (s.dpmc d e n cs).agenda = s.agenda := rfl
@[simp] theorem State.dpmc_pending (s : State) (d e n : Nat) (cs : List Nat) : (s.dpmc d e n cs).pending = s.pending := rfl
@[simp] theorem State.dpmc_turn (s : State) (d e n : Nat) (cs : List Nat) : (s.dpmc d e n cs).turn = s.turn := rfl
@[simp] theorem State.dpmc_mem (s : State) (d e n : Nat) (cs : List Nat) : (s.dpmc d e n cs).mem = s.mem := rfl
@[simp] theorem State.dpmc_stamps (s : State) (d e n : Nat) (cs : List Nat) : (s.dpmc d e n cs).stamps = s.stamps := rfl
@[simp] theorem State.dpmc_floors (s : State) (d e n : Nat) (cs : List Nat) : (s.dpmc d e n cs).floors = s.floors := rfl
@[simp] theorem State.dpmc_dir (s : State) (d e n : Nat) (cs : List Nat) : (s.dpmc d e n cs).dir = s.dir := rfl
@[simp] theorem State.dpmc_watch (s : State) (d e n : Nat) (cs : List Nat) : (s.dpmc d e n cs).watch = s.watch := rfl
@[simp] theorem State.dpmc_held (s : State) (d e n : Nat) (cs : List Nat) : (s.dpmc d e n cs).held = s.held := rfl
@[simp] theorem State.dpmc_objs (s : State) (d e n : Nat) (cs : List Nat) : (s.dpmc d e n cs).objs = s.objs := rfl
@[simp] theorem State.dpmc_revokes (s : State) (d e n : Nat) (cs : List Nat) : (s.dpmc d e n cs).revokes = s.revokes := rfl
@[simp] theorem State.dpmc_clus (s : State) (d e n : Nat) (cs : List Nat) : (s.dpmc d e n cs).clus = s.clus := rfl
@[simp] theorem State.dpmc_cores (s : State) (d e n : Nat) (cs : List Nat) : (s.dpmc d e n cs).cores = s.cores := rfl
@[simp] theorem State.dpmc_teams (s : State) (d e n : Nat) (cs : List Nat) : (s.dpmc d e n cs).teams = s.teams := rfl
@[simp] theorem State.dpmc_sweeps (s : State) (d e n : Nat) (cs : List Nat) : (s.dpmc d e n cs).sweeps = s.sweeps := rfl
@[simp] theorem State.dpmc_ctxs (s : State) (d e n : Nat) (cs : List Nat) : (s.dpmc d e n cs).ctxs = s.ctxs := rfl
@[simp] theorem State.dpmc_forming (s : State) (d e n : Nat) (cs : List Nat) : (s.dpmc d e n cs).forming = s.forming := rfl
@[simp] theorem State.dpmc_tasks (s : State) (d e n : Nat) (cs : List Nat) : (s.dpmc d e n cs).tasks = s.tasks := rfl
@[simp] theorem State.dpmc_tstores (s : State) (d e n : Nat) (cs : List Nat) : (s.dpmc d e n cs).tstores = s.tstores := rfl
@[simp] theorem State.dpmc_cards (s : State) (d e n : Nat) (cs : List Nat) : (s.dpmc d e n cs).cards = s.cards := rfl
@[simp] theorem State.dpmc_images (s : State) (d e n : Nat) (cs : List Nat) : (s.dpmc d e n cs).images = s.images := rfl
@[simp] theorem State.dpmc_openWrites (s : State) (d e n : Nat) (cs : List Nat) : (s.dpmc d e n cs).openWrites = s.openWrites := rfl
@[simp] theorem State.dpmc_mgmt (s : State) (d e n : Nat) (cs : List Nat) : (s.dpmc d e n cs).mgmt = s.mgmt := rfl
@[simp] theorem State.dpmc_at_core (s : State) (d e n : Nat) (cs : List Nat) (k : Nat) : (s.dpmc d e n cs).core k = s.core k := rfl
@[simp] theorem State.dpmc_at_clu (s : State) (d e n : Nat) (cs : List Nat) (k : Nat) : (s.dpmc d e n cs).clu k = s.clu k := rfl
@[simp] theorem State.dpmc_at_ctx (s : State) (d e n : Nat) (cs : List Nat) (k : Nat) : (s.dpmc d e n cs).ctx k = s.ctx k := rfl
@[simp] theorem State.dpmc_at_team_get (s : State) (d e n : Nat) (cs : List Nat) (k : Nat) : (s.dpmc d e n cs).team? k = s.team? k := rfl
@[simp] theorem State.dpmc_at_dirOf (s : State) (d e n : Nat) (cs : List Nat) (k : Nat) : (s.dpmc d e n cs).dirOf k = s.dirOf k := rfl
@[simp] theorem State.dpmc_at_heldOn (s : State) (d e n : Nat) (cs : List Nat) (k : Nat) : (s.dpmc d e n cs).heldOn k = s.heldOn k := rfl

/-! ## The component that an update changes -/

theorem State.core_modCore (s : State) (n k : Nat) (f : Core → Core) : (s.modCore n f).core k = if n = k then f (s.core n) else s.core k :=
  Tab.getD_put s.cores n k _ _
theorem State.die_modDie (s : State) (n k : Nat) (f : Die → Die) : (s.modDie n f).die k = if n = k then f (s.die n) else s.die k :=
  Tab.getD_put s.dies n k _ _
theorem State.clu_modClu (s : State) (n k : Nat) (f : Cluster → Cluster) :
    (s.modClu n f).clu k = if n = k then f (s.clu n) else s.clu k := Tab.getD_put s.clus n k _ _
theorem State.ctx_modCtx (s : State) (n k : Nat) (f : Context → Context) :
    (s.modCtx n f).ctx k = if n = k then f (s.ctx n) else s.ctx k := Tab.getD_put s.ctxs n k _ _
theorem State.ctx_setCtx (s : State) (n k : Nat) (x : Context) : (s.setCtx n x).ctx k = if n = k then x else s.ctx k :=
  Tab.getD_put s.ctxs n k _ _
theorem State.team_modTeam (s : State) (n k : Nat) (f : Team → Team) :
    (s.modTeam n f).team? k = if n = k then (s.team? k).map f else s.team? k := Tab.get?_modify s.teams n k f
theorem State.team_setTeam (s : State) (n k : Nat) (x : Team) : (s.setTeam n x).team? k = if n = k then some x else s.team? k :=
  Tab.get?_put s.teams n k x
theorem State.team_modPath (s : State) (n p k : Nat) (f : Path → Path) :
    (s.modPath n p f).team? k = if n = k then (s.team? k).map fun t => { t with paths := t.paths.modify p f } else s.team? k :=
  Tab.get?_modify s.teams n k _
theorem State.dirOf_setDir (s : State) (l k : Nat) (e : DirEntry) : (s.setDir l e).dirOf k = if l = k then e else s.dirOf k :=
  Tab.getD_put s.dir l k _ _
@[simp] theorem State.core_modCore_self (s : State) (n : Nat) (f : Core → Core) : (s.modCore n f).core n = f (s.core n) := by
  simp [State.core_modCore]
@[simp] theorem State.die_modDie_self (s : State) (n : Nat) (f : Die → Die) : (s.modDie n f).die n = f (s.die n) := by
  simp [State.die_modDie]
@[simp] theorem State.clu_modClu_self (s : State) (n : Nat) (f : Cluster → Cluster) : (s.modClu n f).clu n = f (s.clu n) := by
  simp [State.clu_modClu]
@[simp] theorem State.ctx_modCtx_self (s : State) (n : Nat) (f : Context → Context) : (s.modCtx n f).ctx n = f (s.ctx n) := by
  simp [State.ctx_modCtx]
@[simp] theorem State.ctx_setCtx_self (s : State) (n : Nat) (x : Context) : (s.setCtx n x).ctx n = x := by simp [State.ctx_setCtx]
@[simp] theorem State.dirOf_setDir_self (s : State) (l : Nat) (e : DirEntry) : (s.setDir l e).dirOf l = e := by simp [State.dirOf_setDir]

/-! ## Serial numbers, free values, events posted once -/

@[simp] theorem State.serial_fst (s : State) : s.serial.1 = s.seq := rfl
@[simp] theorem State.serial_snd (s : State) : s.serial.2 = { s with seq := s.seq + 1 } := rfl
@[simp] theorem State.draw_fst (s : State) : s.draw.1 = s.free := rfl
@[simp] theorem State.draw_snd (s : State) : s.draw.2 = { s with free := s.free + 1 } := rfl
/-- Posting an event once changes nothing but the events in flight. -/
theorem State.postOnce_eq (s : State) (e : Instr) : s.postOnce e = { s with pending := (s.postOnce e).pending } := by
  unfold State.postOnce; split <;> rfl
theorem State.mem_postOnce (s : State) (e : Instr) : e ∈ (s.postOnce e).pending := by
  unfold State.postOnce; split <;> simp_all
@[simp] theorem State.postOnce_cycle (s : State) (e : Instr) : (s.postOnce e).cycle = s.cycle := by rw [State.postOnce_eq]
@[simp] theorem State.postOnce_seq (s : State) (e : Instr) : (s.postOnce e).seq = s.seq := by rw [State.postOnce_eq]
@[simp] theorem State.postOnce_free (s : State) (e : Instr) : (s.postOnce e).free = s.free := by rw [State.postOnce_eq]
@[simp] theorem State.postOnce_focus (s : State) (e : Instr) : (s.postOnce e).focus = s.focus := by rw [State.postOnce_eq]
@[simp] theorem State.postOnce_agenda (s : State) (e : Instr) : (s.postOnce e).agenda = s.agenda := by rw [State.postOnce_eq]
@[simp] theorem State.postOnce_turn (s : State) (e : Instr) : (s.postOnce e).turn = s.turn := by rw [State.postOnce_eq]
@[simp] theorem State.postOnce_mem (s : State) (e : Instr) : (s.postOnce e).mem = s.mem := by rw [State.postOnce_eq]
@[simp] theorem State.postOnce_stamps (s : State) (e : Instr) : (s.postOnce e).stamps = s.stamps := by rw [State.postOnce_eq]
@[simp] theorem State.postOnce_floors (s : State) (e : Instr) : (s.postOnce e).floors = s.floors := by rw [State.postOnce_eq]
@[simp] theorem State.postOnce_dir (s : State) (e : Instr) : (s.postOnce e).dir = s.dir := by rw [State.postOnce_eq]
@[simp] theorem State.postOnce_watch (s : State) (e : Instr) : (s.postOnce e).watch = s.watch := by rw [State.postOnce_eq]
@[simp] theorem State.postOnce_held (s : State) (e : Instr) : (s.postOnce e).held = s.held := by rw [State.postOnce_eq]
@[simp] theorem State.postOnce_objs (s : State) (e : Instr) : (s.postOnce e).objs = s.objs := by rw [State.postOnce_eq]
@[simp] theorem State.postOnce_revokes (s : State) (e : Instr) : (s.postOnce e).revokes = s.revokes := by rw [State.postOnce_eq]
@[simp] theorem State.postOnce_dies (s : State) (e : Instr) : (s.postOnce e).dies = s.dies := by rw [State.postOnce_eq]
@[simp] theorem State.postOnce_clus (s : State) (e : Instr) : (s.postOnce e).clus = s.clus := by rw [State.postOnce_eq]
@[simp] theorem State.postOnce_cores (s : State) (e : Instr) : (s.postOnce e).cores = s.cores := by rw [State.postOnce_eq]
@[simp] theorem State.postOnce_teams (s : State) (e : Instr) : (s.postOnce e).teams = s.teams := by rw [State.postOnce_eq]
@[simp] theorem State.postOnce_sweeps (s : State) (e : Instr) : (s.postOnce e).sweeps = s.sweeps := by rw [State.postOnce_eq]
@[simp] theorem State.postOnce_ctxs (s : State) (e : Instr) : (s.postOnce e).ctxs = s.ctxs := by rw [State.postOnce_eq]
@[simp] theorem State.postOnce_forming (s : State) (e : Instr) : (s.postOnce e).forming = s.forming := by rw [State.postOnce_eq]
@[simp] theorem State.postOnce_tasks (s : State) (e : Instr) : (s.postOnce e).tasks = s.tasks := by rw [State.postOnce_eq]
@[simp] theorem State.postOnce_tstores (s : State) (e : Instr) : (s.postOnce e).tstores = s.tstores := by rw [State.postOnce_eq]
@[simp] theorem State.postOnce_cards (s : State) (e : Instr) : (s.postOnce e).cards = s.cards := by rw [State.postOnce_eq]
@[simp] theorem State.postOnce_images (s : State) (e : Instr) : (s.postOnce e).images = s.images := by rw [State.postOnce_eq]
@[simp] theorem State.postOnce_openWrites (s : State) (e : Instr) : (s.postOnce e).openWrites = s.openWrites := by rw [State.postOnce_eq]
@[simp] theorem State.postOnce_mgmt (s : State) (e : Instr) : (s.postOnce e).mgmt = s.mgmt := by rw [State.postOnce_eq]
@[simp] theorem State.postOnce_at_core (s : State) (e : Instr) (k : Nat) : (s.postOnce e).core k = s.core k := by rw [State.postOnce_eq]; rfl
@[simp] theorem State.postOnce_at_die (s : State) (e : Instr) (k : Nat) : (s.postOnce e).die k = s.die k := by rw [State.postOnce_eq]; rfl
@[simp] theorem State.postOnce_at_clu (s : State) (e : Instr) (k : Nat) : (s.postOnce e).clu k = s.clu k := by rw [State.postOnce_eq]; rfl
@[simp] theorem State.postOnce_at_ctx (s : State) (e : Instr) (k : Nat) : (s.postOnce e).ctx k = s.ctx k := by rw [State.postOnce_eq]; rfl
@[simp] theorem State.postOnce_at_team_get (s : State) (e : Instr) (k : Nat) : (s.postOnce e).team? k = s.team? k := by rw [State.postOnce_eq]; rfl
@[simp] theorem State.postOnce_at_dirOf (s : State) (e : Instr) (k : Nat) : (s.postOnce e).dirOf k = s.dirOf k := by rw [State.postOnce_eq]; rfl
@[simp] theorem State.postOnce_at_heldOn (s : State) (e : Instr) (k : Nat) : (s.postOnce e).heldOn k = s.heldOn k := by rw [State.postOnce_eq]; rfl

end Sys2Proof.Machine
end

