-- ==== Sys2Proof/Laws/Issue.lean ====
section
/-!
SUPPORT. Sys2Proof/Laws/Issue.lean: what the shared checks, the issue of an instruction and its completion can do, said once for
every meaning that goes through them.
-/
namespace Sys2Proof.Machine

/-! ## Issue -/

/-- Past the shared checks an instruction's own part is run and concluded. -/
theorem issue_of_ok {i : Instr} {body : Ctx → State → Res} {s s' : State} {c : Ctx} (h : admission i s = .ok c s') :
    issue i body s = .next (c.conclude (body c s')) := by
  cases hf : s.focus with
  | none => simp [admission, hf] at h
  | some f => simp [issue, h, hf]

/-- A cause that the shared checks give is taken as a precise trap. -/
theorem issue_of_trap {i : Instr} {body : Ctx → State → Res} {s : State} {f : Focus} {cause : Byte} {h1 : Word}
    (h : admission i s = .trap cause h1) (hf : s.focus = some f) :
    issue i body s = .next (s.trapFocus f ⟨cause, h1, 0, none, f.addr⟩) := by simp [issue, h, hf]

/-- So is an uncorrectable error of a source. -/
theorem issue_of_ecc {i : Instr} {body : Ctx → State → Res} {s : State} {f : Focus} {cause : Byte} {h1 : Word} {addr : Nat}
    (h : admission i s = .ecc cause h1 addr) (hf : s.focus = some f) :
    issue i body s = .next (s.trapFocus f ⟨cause, h1, addr, none, f.addr⟩) := by simp [issue, h, hf]

/-- A push to a CLOSED queue traps, with QUEUE_KIND where the value breaks a kind rule (R149). -/
theorem issue_of_closed {i : Instr} {body : Ctx → State → Res} {s : State} {f : Focus} {port : Nat} {probe : Option (Ctx × State)}
    (h : admission i s = .closed port probe) (hf : s.focus = some f) :
    issue i body s = .next (s.trapFocus f
      ((kindTrap body probe).getD ⟨Cause.queueClosedPush, BitVec.ofNat 32 port, 0, none, f.addr⟩)) := by simp [issue, h, hf]

/-- A queue that holds an instruction back parks its path, unless the value that it would push breaks a kind rule (R149). -/
theorem issue_of_park {i : Instr} {body : Ctx → State → Res} {s : State} {f : Focus} {w : Wait} {probe : Option (Ctx × State)}
    (h : admission i s = .park w probe) (hf : s.focus = some f) :
    issue i body s = .next (match kindTrap body probe with | some r => s.trapFocus f r | none => s.parkFocus f w) := by
  unfold issue; rewrite [h, hf]; rfl

/-- Parking the path in focus changes the path, the focus and the counters of its core. -/
theorem parkFocus_frame (s : State) (f : Focus) (w : Wait) : ∃ s1 : State, s1 = { s with cores := s1.cores } ∧
    s.parkFocus f w = { s1.modPath f.team f.path fun p => p.park w s.cycle with focus := none } := by
  unfold State.parkFocus
  cases s.team? f.team with
  | none => exact ⟨s, rfl, rfl⟩
  | some t => exact ⟨s.pmc t.core 0x10 1 t.ctx, rfl, rfl⟩

/-- An instruction that begins has been checked so; one that goes on needs only the room for its pushes. -/
theorem admission_ok {i : Instr} {s s' : State} {c : Ctx} (h : admission i s = .ok c s') :
    ∃ (f : Focus) (t : Team) (p : Path), s.focus = some f ∧ s.team? f.team = some t ∧ t.paths.get? f.path = some p ∧
      let n := t.info i
      let c0 : Ctx := ⟨f, s, t, p, n, .nothing, .nothing, .nothing⟩
      (((t.rests.get? f.path).isSome || p.begun) = true ∧ c0.shortPush = none ∧ c = c0 ∧ s' = s) ∨
      (((t.rests.get? f.path).isSome || p.begun) = false ∧ n.privFault t p (wordOf i) = none ∧
        (n.xonly && !t.xfront) = false ∧ n.codes (decide (p.win ≠ .closed)) = none ∧ c0.portIllegal = false ∧
        n.budget t.vcount t.scount = none ∧ (!t.guard.isEmpty && (n.ban || !n.ports.isEmpty)) = false ∧ c0.badReg = none ∧
        ((n.ports = [] ∧ c = c0 ∧ s' = s) ∨
          (n.ports ≠ [] ∧ c0.unbound = none ∧ c0.kindFault = none ∧ c0.closedPush = none ∧ c0.shortQueue = none ∧
            c0.badPop = none ∧ (c, s') = c0.takePops))) := by
  unfold admission at h
  split at h
  · cases h
  rename_i f hf
  split at h
  · cases h
  rename_i t ht
  split at h
  · cases h
  rename_i p hp
  refine ⟨f, t, p, hf, ht, hp, ?_⟩
  dsimp only at h ⊢
  split at h
  · rename_i hr
    split at h
    · cases h
    · rename_i hq
      injection h with h1 h2
      exact .inl ⟨hr, hq, h1.symm, h2.symm⟩
  rename_i hr
  split at h
  · cases h
  rename_i h3
  split at h
  · cases h
  rename_i h4
  split at h
  · cases h
  rename_i h5
  split at h
  · cases h
  rename_i hi
  split at h
  · cases h
  rename_i h6
  split at h
  · cases h
  rename_i h7
  split at h
  · cases h
  rename_i hb
  refine .inr ⟨by simpa using hr, by simpa using h3, by simpa using h4, h5, by simpa using hi, h6, by simpa using h7, hb, ?_⟩
  split at h
  · rename_i h8
    injection h with h1 h2
    exact .inl ⟨by simpa using h8, h1.symm, h2.symm⟩
  rename_i h8
  split at h
  · cases h
  rename_i hu
  split at h
  · cases h
  rename_i hk
  split at h
  · cases h
  rename_i hc
  split at h
  · cases h
  rename_i hs
  split at h
  · cases h
  rename_i hp'
  injection h with h1 h2
  exact .inr ⟨by simpa using h8, hu, hk, hc, hs, hp', by rw [← h1, ← h2]⟩

/-- One queue pop of an instruction (R146). -/
theorem takePops_eq (c : Ctx) : ∃ (g : Ctx × State → Opnd → Ctx × State) (s : State), c.takePops = c.n.pops.foldl g (c, s) ∧
    ∀ acc o, (g acc o).1.f = acc.1.f ∧ (g acc o).1.s = acc.1.s ∧ (g acc o).1.t = acc.1.t ∧ (g acc o).1.p = acc.1.p ∧
      (g acc o).1.n = acc.1.n := by
  refine ⟨_, _, rfl, ?_⟩
  intro acc o
  dsimp only
  split
  · exact ⟨rfl, rfl, rfl, rfl, rfl⟩
  · dsimp only
    split
    · exact ⟨rfl, rfl, rfl, rfl, rfl⟩
    · split <;> exact ⟨rfl, rfl, rfl, rfl, rfl⟩

/-- The pops change nothing of the context but what the q codes delivered. -/
theorem takePops_ctx (c : Ctx) : c.takePops.1.f = c.f ∧ c.takePops.1.s = c.s ∧ c.takePops.1.t = c.t ∧ c.takePops.1.p = c.p ∧
    c.takePops.1.n = c.n := by
  obtain ⟨g, s, h, hg⟩ := takePops_eq c
  rw [h]
  have step : ∀ (os : List Opnd) (acc : Ctx × State), (os.foldl g acc).1.f = acc.1.f ∧ (os.foldl g acc).1.s = acc.1.s ∧
      (os.foldl g acc).1.t = acc.1.t ∧ (os.foldl g acc).1.p = acc.1.p ∧ (os.foldl g acc).1.n = acc.1.n := by
    intro os
    induction os with
    | nil => exact fun acc => ⟨rfl, rfl, rfl, rfl, rfl⟩
    | cons o os ih =>
      intro acc
      obtain ⟨h1, h2, h3, h4, h5⟩ := ih (g acc o)
      obtain ⟨i1, i2, i3, i4, i5⟩ := hg acc o
      exact ⟨h1.trans i1, h2.trans i2, h3.trans i3, h4.trans i4, h5.trans i5⟩
  exact step _ _

/-- The context of an accepted instruction is that of the path in focus, in the state it met. -/
theorem admission_ctx {i : Instr} {s s' : State} {c : Ctx} (h : admission i s = .ok c s') :
    s.focus = some c.f ∧ s.team? c.f.team = some c.t ∧ c.t.paths.get? c.f.path = some c.p ∧ c.s = s ∧ c.n = c.t.info i := by
  obtain ⟨f, t, p, hf, ht, hp, h⟩ := admission_ok h
  rcases h with ⟨-, -, rfl, -⟩ | ⟨-, -, -, -, -, -, -, -, ⟨-, rfl, -⟩ | ⟨-, -, -, -, -, -, e⟩⟩
  · exact ⟨hf, ht, hp, rfl, rfl⟩
  · exact ⟨hf, ht, hp, rfl, rfl⟩
  · have e1 : c = _ := congrArg Prod.fst e
    obtain ⟨h1, h2, h3, h4, h5⟩ := takePops_ctx ⟨f, s, t, p, t.info i, .nothing, .nothing, .nothing⟩
    rw [← e1] at h1 h2 h3 h4 h5
    rw [h1, h2, h3, h4, h5]
    exact ⟨hf, ht, hp, rfl, rfl⟩

/-- Without a queue port the shared checks change nothing. -/
theorem admission_plain {i : Instr} {s s' : State} {c : Ctx} (h : admission i s = .ok c s') (hp : c.n.ports = []) : s' = s := by
  obtain ⟨f, t, p, -, -, -, h⟩ := admission_ok h
  rcases h with ⟨-, -, -, h⟩ | ⟨-, -, -, -, -, -, -, -, ⟨-, -, h⟩ | ⟨hn, -, -, -, -, -, e⟩⟩
  · exact h
  · exact h
  · have e1 : c = _ := congrArg Prod.fst e
    have h5 := (takePops_ctx ⟨f, s, t, p, t.info i, .nothing, .nothing, .nothing⟩).2.2.2.2
    rw [← e1] at h5
    rw [h5] at hp
    exact absurd hp hn

/-! ## Results -/

/-- A result that goes to no queue is a change of the team's registers. -/
theorem put_plain (c : Ctx) (s : State) (d : Code) (w : Bool) (f : Nat → DWord) (h : Code.isQ d = false) :
    c.put s d w f = .done (c.modTeam s fun t => t.putReg c.lanes d w f) := by simp [Ctx.put, h]

end Sys2Proof.Machine
end

