-- ==== Sys2Proof/Laws/Memory.lean ====
section
/-!
SUPPORT. Sys2Proof/Laws/Memory.lean: what the shared operations of the memory instructions do once their accesses reach memory, their
bytes are there, and their release and acquire halves hold: one lemma for each, in the terms of Safety.lean.
-/
namespace Sys2Proof.Machine

open Sys2Proof.Safety

/-- With no active lane there is no lane that acts. -/
theorem lanes_nil (c : Ctx) (h : c.active = 0) : c.lanes = [] := by unfold Ctx.lanes; rw [h]; unfold lanesOf; simp

/-- Aligned and canonical addresses pass the tests that come before translation (R80). -/
theorem addrTest_none (c : Ctx) (as : List (Nat × Nat)) (n : Nat) (h : ∀ a ∈ as, a.2 % n = 0 ∧ a.2 < 2 ^ 56) : c.addrTest as n = none := by
  have h1 : as.filter (fun a => a.2 % n ≠ 0) = [] := by simp only [List.filter_eq_nil_iff]; intro a ha; simp [(h a ha).1]
  have h2 : as.filter (fun a => decide (a.2 ≥ 2 ^ 56)) = [] := by
    simp only [List.filter_eq_nil_iff]; intro a ha; have := (h a ha).2; simp; omega
  unfold Ctx.addrTest; dsimp only; rw [h1, h2]

theorem findSome_none {α β : Type} (f : α → Option β) (l : List α) (h : ∀ a ∈ l, f a = none) : l.findSome? f = none := by
  induction l with
  | nil => rfl
  | cons a l ih => simp [h a (by simp), ih fun b hb => h b (by simp [hb])]

/-- An access that reaches memory goes on with its translated lanes. -/
theorem reach_ok {c : Ctx} {s t : State} {as : List (Nat × Nat)} {n : Nat} {rd wr sync watched : Bool} {ok : List LaneAcc}
    (k : State → List LaneAcc → Res) (h : Accesses c s as n rd wr sync watched ok t) : c.reach s as n rd wr sync watched k = k t ok := by
  have hw : (if watched then c.watchHit as n rd wr else none) = none := by
    split
    · rename_i hw; exact h.unwatched hw
    · rfl
  unfold Ctx.reach
  rw [addrTest_none c as n h.aligned]
  simp only [hw, h.translated]
  split
  · rename_i a l hd
    have hin : a ∈ a :: l := by simp
    rw [← hd] at hin
    obtain ⟨hm, hp⟩ := List.mem_filter.mp hin
    cases sync with
    | false => split at hp <;> simp at hp
    | true => rcases h.linked rfl a hm with e | ⟨l, e⟩ <;> simp [e] at hp
  · split
    · rename_i l hr
      obtain ⟨a, hm, hp⟩ := List.exists_of_findSome?_eq_some hr
      cases sync with
      | false => rfl
      | true => rcases h.linked rfl a hm with e | ⟨l, e⟩ <;> simp [e] at hp
    · have hf : (if sync then c.meetsFail t ok n wr else none) = none := by
        split
        · rename_i hs; exact h.answered hs
        · rfl
      rw [hf]

/-- Loads whose bytes are there go on with their values and those values' stamps. -/
theorem load_ok {c : Ctx} {s t : State} {as : List LaneAcc} {n : Nat} {vals : Tab Nat} {st : Clock} (k : State → Tab Nat → Clock → Res)
    (h : Loads c s as n t vals st) : c.load s as n k = k t vals st := by
  obtain ⟨t0, h1, rfl⟩ := h
  unfold Ctx.load; rw [h1]

/-- An acquire whose stamps are dominated goes on. -/
theorem acquire_ok {c : Ctx} {s t : State} {st : Clock} (k : State → Res) (h : Acquires c s st t) : c.acquire s st k = k t := by
  obtain ⟨rfl, h⟩ := h
  unfold Ctx.acquire; simp [h]

/-- A release that finds its writes where it needs them goes on. -/
theorem release_ok {c : Ctx} {s t : State} {scope : Nat} (k : State → Res) (h : Releases c s scope t) : c.release s scope k = k t := by
  unfold Ctx.release
  rcases h with ⟨h, rfl⟩ | ⟨h, h1, rfl⟩
  · simp [h]
  · simp [h, h1]

end Sys2Proof.Machine
end

