-- ==== Sys2Proof/Laws/Outcome.lean ====
section
/-!
SUPPORT. Sys2Proof/Laws/Outcome.lean: from what an instruction's own part answers to what exec does with it, in the terms of
Safety.lean: one lemma for each answer. `e` is true by rfl, the meaning of an instruction being `issue` of its own part.
-/
namespace Sys2Proof.Machine

open Sys2Proof.Safety

variable {i : Instr} {body : Ctx → State → Res} {s s' t : State} {c : Ctx}

theorem exec_of_ok (h : admission i s = .ok c s') (e : exec i s = issue i body s) : exec i s = .next (c.conclude (body c s')) :=
  e.trans (issue_of_ok h)
theorem completes_of_done (h : admission i s = .ok c s') (e : exec i s = issue i body s) (hb : body c s' = .done t) : Completes i s c t := by
  rw [Completes, exec_of_ok h e, hb]; rfl
theorem completesWhen_of_later {k : Cond} (h : admission i s = .ok c s') (e : exec i s = issue i body s) (hb : body c s' = .later t k) :
    CompletesWhen i s c t k := by rw [CompletesWhen, exec_of_ok h e, hb]; rfl
theorem places_of_jump (h : admission i s = .ok c s') (e : exec i s = issue i body s) (hb : body c s' = .jump t) : Places i s c t := by
  rw [Places, exec_of_ok h e, hb]; rfl
theorem parks_of_park {w : Wait} (h : admission i s = .ok c s') (e : exec i s = issue i body s) (hb : body c s' = .park t w) : Parks i s c t w := by
  rw [Parks, exec_of_ok h e, hb]; rfl
theorem trapsWith_of_trap {r : TrapReq} (h : admission i s = .ok c s') (e : exec i s = issue i body s) (hb : body c s' = .trap r) :
    TrapsWith i s c r := by
  rw [TrapsWith, exec_of_ok h e, hb, ← (admission_ctx h).2.2.2.1]; rfl

end Sys2Proof.Machine
end

