-- ==== Sys2Proof/Tests/Slice0.lean ====
section
/-!
SUPPORT. Sys2Proof/Tests/Slice0.lean: words written out from the spec's encodings, terms that WellFormed refuses, values written out
from the spec's tables and rules, and for every statement with hypotheses a state and operands that meet them. The expected values
are the spec's or calculated by hand from its rules.
-/
open Sys2Proof Sys2Proof.Machine Sys2Proof.Safety
namespace Sys2Proof.Tests
set_option Elab.async false

/-! ## Small states -/

/-- Slot 1 of the bundle at 0x10000, of path 0 of team 0. -/
def focus0 : Focus := ⟨0, 0, 0x10004, 12, false, true⟩
/-- A team of 32 lanes on the X-front of core 0, in group 1, with mode register m. -/
def team0 (m : BitVec 16) : Team := { placedTeam 0 with group := 1, mode := m }
def group0 : Group :=
  { ctx := 0, teams := [0], ranges := [(0, 0)], len := 4096, windows := [(0, 0x1000, 64)], tiles := 64, counts := [], gens := [], blocks := [],
    claims := [], crew := false, pool := 0, whole := false, srcs := [], saved := false }
/-- That team about to issue the word of slot 1, memory listing nothing. -/
def lab (m : BitVec 16) : State :=
  { State.reset with teams := [(0, team0 m)], seq := 1, focus := some focus0, clus := [(0, { Cluster.reset with groups := [(1, group0)] })] }
/-- The same with the page tables that map addresses to themselves. -/
def labMem (m : BitVec 16) : State :=
  { (State.reset.withFetchWord 32 0) with
    teams := [(0, team0 m)], seq := 1, focus := some focus0, agenda := [],
    clus := [(0, { Cluster.reset with groups := [(1, group0)] })] }
/-- The same team, changed. -/
def withTeam (f : Team → Team) (s : State) : State := s.modTeam 0 f
def withPath (f : Path → Path) (s : State) : State := s.modPath 0 0 f
/-- The same team as the agent of a firmware slot. -/
def asFw (s : State) : State := withTeam (fun t => { t with fw := true, xfront := false }) s
/-- Queue 3 of the cluster on port 0 of the team: U32, four entries deep, with n entries. -/
def queue3 (n : Nat) : Queue := ⟨kindU32, false, 0, 0, 4, 0, n % 4, n, false, 1⟩
def withQueue (q : Queue) (s : State) : State :=
  (withTeam (fun t => { t with ports := [(0, 3)] }) s).modClu 0 fun k => { k with queues := [(3, q)] }

/-- The instruction passes the shared checks, and its context and the state after its pops have a property. -/
def met (s : State) (i : Instr) (P : Ctx → State → Bool) : Bool :=
  match admission i s with
  | .ok c s' => P c s'
  | _ => false
theorem met_spec {s : State} {i : Instr} {P : Ctx → State → Bool} (h : met s i P = true) :
    ∃ c s', admission i s = .ok c s' ∧ P c s' = true := by
  unfold met at h
  split at h
  · exact ⟨_, _, by assumption, h⟩
  · cases h
/-- The instructions pass the shared checks. -/
def pass (s : State) (l : List Instr) : Bool := l.all fun i => met s i fun _ _ => true

/-! ## Encodings: words from the tables of chapters 11 to 13 -/

/-- A word and the instruction it stands for agree, both ways. -/
def agree (l : List (Word × Instr)) : Bool := l.all fun p => decide (decode p.1 = some p.2 ∧ encode p.2 = some p.1)
theorem test_words_control : agree [(0x00000000, .nop), (0x01003C96, .mode 0x3c96), (0x02B62D4E, .bra 6 0x2d4e), (0x03B62D4E, .bran 6 0x2d4e),
  (0x04B64E00, .brx 6 0x4e), (0x05A53C96, .call 0xa53c96), (0x06964E00, .callx 0x96 0x4e), (0x07009600, .ret 0x96),
  (0x08000006, .join 6), (0x09000000, .exit), (0x0A000000, .yield), (0x0B003C96, .sleep 0x3c96), (0x0C962D4E, .loop 0x16 0x2d4e),
  (0x0D000006, .bar 6), (0x0E000006, .bara 6), (0x0F000006, .barw 6), (0x10009600, .waitf 0x96), (0x11000006, .give 6),
  (0x12000006, .claim 6), (0x13001600, .spawn 0x16), (0x14000096, .svc 0x96), (0x15000006, .trap 6), (0x16000000, .rft),
  (0x17003C96, .brk 0x3c96), (0x18000006, .pmark 6)] = true := by decide
theorem test_words_integer_a : agree [(0x20962D4E, .ldi 0x96 0x2d4e), (0x21962D4E, .ldih 0x96 0x2d4e), (0x22964E00, .mov 0x96 0x4e), (0x23964EB1, .sel 0x96 0x4e 1),
  (0x24964EF1, .add 0x96 0x4e 0xf1), (0x25964EF1, .sub 0x96 0x4e 0xf1), (0x26964EF1, .mul 0x96 0x4e 0xf1),
  (0x27964EF1, .mulh 0x96 0x4e 0xf1), (0x28964EF1, .mad 0x96 0x4e 0xf1), (0x29964EF1, .div 0x96 0x4e 0xf1),
  (0x2A964EF1, .rem 0x96 0x4e 0xf1), (0x2B964EF1, .min 0x96 0x4e 0xf1), (0x2C964EF1, .max 0x96 0x4e 0xf1),
  (0x2D964E00, .abs 0x96 0x4e), (0x2E964E00, .neg 0x96 0x4e), (0x2F964EF1, .and 0x96 0x4e 0xf1)] = true := by decide
theorem test_words_integer_b : agree [(0x30964EF1, .or 0x96 0x4e 0xf1), (0x31964EF1, .xor 0x96 0x4e 0xf1), (0x32964E00, .not 0x96 0x4e),
  (0x33964EF1, .shl 0x96 0x4e 0xf1), (0x34964EF1, .shr 0x96 0x4e 0xf1), (0x35964EF1, .rot 0x96 0x4e 0xf1),
  (0x36964EF1, .bfx 0x96 0x4e 0xf1), (0x37964EF1, .bfi 0x96 0x4e 0xf1), (0x38964E00, .clz 0x96 0x4e),
  (0x39964E00, .popc 0x96 0x4e), (0x3A964E00, .brev 0x96 0x4e), (0x3B964EF1, .addi 0x96 0x4e 0xf1),
  (0x3C964EF1, .shli 0x96 0x4e 0xf1), (0x3D964EF1, .shri 0x96 0x4e 0xf1), (0x3E964EF1, .andi 0x96 0x4e 0xf1),
  (0x3F964EF1, .lea 0x96 0x4e 0xf1)] = true := by decide
theorem test_words_compare_predicate : agree [(0x40B64EF1, .ceq 6 0x4e 0xf1), (0x41B64EF1, .cne 6 0x4e 0xf1), (0x42B64EF1, .clt 6 0x4e 0xf1), (0x43B64EF1, .cle 6 0x4e 0xf1),
  (0x44B64EF1, .cgt 6 0x4e 0xf1), (0x45B64EF1, .cge 6 0x4e 0xf1), (0x48B6BEB1, .pand 6 0xe 1), (0x49B6BEB1, .por 6 0xe 1),
  (0x4AB6BEB1, .pxor 6 0xe 1), (0x4BB6BE00, .pnot 6 0xe), (0x4CB64E00, .pfrom 6 0x4e), (0x4DB60001, .pset 6 1)] = true := by decide
theorem test_words_float_a : agree [(0x50964EF1, .fadd 0x96 0x4e 0xf1), (0x51964EF1, .fsub 0x96 0x4e 0xf1), (0x52964EF1, .fmul 0x96 0x4e 0xf1),
  (0x53964EF1, .fma 0x96 0x4e 0xf1), (0x54964EF1, .fms 0x96 0x4e 0xf1), (0x55964EF1, .fnma 0x96 0x4e 0xf1),
  (0x56964EF1, .fmin 0x96 0x4e 0xf1), (0x57964EF1, .fmax 0x96 0x4e 0xf1), (0x58964E00, .fabs 0x96 0x4e),
  (0x59964E00, .fneg 0x96 0x4e), (0x5A964EF1, .fdiv 0x96 0x4e 0xf1), (0x5B964E00, .fsqrt 0x96 0x4e),
  (0x5C964E00, .frcp 0x96 0x4e), (0x5D964E00, .frsq 0x96 0x4e), (0x5E964E00, .fexp2 0x96 0x4e), (0x5F964E00, .flog2 0x96 0x4e)] = true := by decide
theorem test_words_float_b : agree [(0x60964E00, .fsin 0x96 0x4e), (0x61964E00, .fcos 0x96 0x4e), (0x62964E00, .ftanh 0x96 0x4e), (0x63B64EF1, .fceq 6 0x4e 0xf1),
  (0x64B64EF1, .fclt 6 0x4e 0xf1), (0x65B64EF1, .fcle 6 0x4e 0xf1), (0x66B64EF1, .fcun 6 0x4e 0xf1),
  (0x67964E00, .fclass 0x96 0x4e), (0x68964E00, .frnd 0x96 0x4e), (0x69964EF1, .fcps 0x96 0x4e 0xf1),
  (0x6A964EF1, .fscale 0x96 0x4e 0xf1)] = true := by decide
theorem test_words_convert : agree [(0x70964E01, .cvt 0x96 0x4e 1), (0x71964E01, .cvts 0x96 0x4e 1), (0x72964EF1, .pack 0x96 0x4e 0xf1),
  (0x73964EF1, .unpk 0x96 0x4e 0xf1), (0x74164E01, .qnt 0x16 0x4e 1), (0x75164E01, .dqnt 0x16 0x4e 1), (0x76960000, .rand 0x96)] = true := by decide
theorem test_words_cross_lane : agree [(0x80964EF1, .shfl 0x96 0x4e 0xf1), (0x81964EF1, .shfx 0x96 0x4e 0xf1), (0x82964E11, .shup 0x96 0x4e 0x11),
  (0x83964E11, .shdn 0x96 0x4e 0x11), (0x84B6BE01, .vota 6 0xe 1), (0x85B6BE01, .voty 6 0xe 1),
  (0x8696BE11, .ballot 0x96 0xe 0x11), (0x87964E1A, .redu 0x96 0x4e 1 0xa), (0x88964E31, .scan 0x96 0x4e 1 1 1),
  (0x89964EF1, .bcast 0x96 0x4e 0xf1), (0x8A964E00, .matchLanes 0x96 0x4e), (0x8B96BE03, .acnt 0x96 0xe 1 1)] = true := by decide
theorem test_words_memory_a : agree [(0x90964E5A, .ld 0x96 0x4e 1 0x1a), (0x91964E5A, .st 0x96 0x4e 1 0x1a), (0x92964E5A, .ldu 0x96 0x4e 1 0x1a),
  (0x93964E5A, .stu 0x96 0x4e 1 0x1a), (0x94964E5A, .ldl 0x96 0x4e 1 0x1a), (0x95964E5A, .stl 0x96 0x4e 1 0x1a),
  (0x96964E06, .ldp 0x96 0x4e 1 2), (0x97064E01, .lda 6 0x4e 1), (0x98160006, .commit 0x16 6)] = true := by decide
theorem test_words_memory_b : agree [(0x99964E5A, .ldq 0x96 0x4e 1 0x1a), (0x9A964E5A, .str 0x96 0x4e 1 0x1a), (0x9B000002, .fence 2),
  (0x9C964E31, .atom 0x96 0x4e 1 1 1), (0x9D964E31, .atomr 0x96 0x4e 1 1 1), (0x9E964E30, .cas 0x96 0x4e 1 1),
  (0x9F964E01, .red 0x96 0x4e 1), (0xA000964E, .pref 0x96 0x4e), (0xA1964EF1, .arma 0x96 0x4e 0xf1),
  (0xA200964E, .waita 0x96 0x4e), (0xA3B64EF1, .polla 6 0x4e 0xf1)] = true := by decide
theorem test_words_queue : agree [(0xB0964EF1, .qcfg 0x16 0x4e 0xf1), (0xB100964E, .qfree 0x96 0x4e), (0xB200964E, .qdrain 0x96 0x4e),
  (0xB3964EF1, .qcnt 0x96 0x4e 0xf1), (0xB496BE2A, .qtry 0x96 0xe 1 0xa), (0xB5B64E01, .qoffr 6 0x4e 1),
  (0xB600964E, .qclose 0x96 0x4e), (0xB700960E, .qlink 0x96 0xe)] = true := by decide
theorem test_words_tile : agree [(0xC0960006, .talloc 0x16 6), (0xC1968E91, .tload 0x16 0xe 0x11), (0xC2968E91, .tstore 0x16 0xe 0x11),
  (0xC3968E91, .ttask 0x16 0xe 0x11), (0xC4168E91, .tget 0x16 0xe 0x11), (0xC5968EF1, .tdef 0x16 0xe 0xf1),
  (0xC6009600, .tkill 0x16), (0xC7009600, .twait 0x16), (0xC8968E00, .tstat 0x96 0xe), (0xC9009671, .thint 0x16 0xe 1),
  (0xCA00960E, .tdesc 0x16 0xe), (0xCB96000E, .tdescr 0x16 0xe)] = true := by decide
theorem test_words_engine : agree [(0xD0009600, .card 0x16), (0xD1968E00, .cardw 0x16 0xe), (0xD2009620, .garm 0x16 1), (0xD3009600, .gdone 0x16),
  (0xD400964E, .subm 0x16 0x4e), (0xD5968E01, .sigw 0x16 0xe 1), (0xD6968E22, .siga 0x16 0xe 1 2)] = true := by decide
theorem test_words_system : agree [(0xE0968E01, .areg 0x96 0xe 1), (0xE196004E, .aenter 0x96 0x4e), (0xE2000000, .aexit), (0xE3009600, .adrop 0x96),
  (0xE4B64E00, .atest 6 0x4e), (0xE5009600, .arevk 0x96), (0xE8960D4E, .csrr 0x96 0xd4e), (0xE9960D4E, .csrw 0x96 0xd4e),
  (0xEA960D4E, .csrs 0x96 0xd4e), (0xEB960D4E, .csrc 0x96 0xd4e), (0xEC00964E, .fwcall 0x96 0x4e),
  (0xEC964E00, .fwcallReg 0x16 0x4e), (0xED00964E, .tinv 0x16 0x4e), (0xEE964E00, .svcr 0x16 0x4e),
  (0xEF964E00, .ctxs 0x16 0x4e), (0xF0964E00, .ctxl 0x16 0x4e), (0xF196000E, .ticketClaim 0x16 0xe),
  (0xF196008E, .ticketDone 0x16 0xe), (0xF2000001, .xtrig), (0xF3009600, .tron 0x96), (0xF4009600, .expd 0x16)] = true := by decide

/-- Words that no row of the table has: an opcode byte without a row, and a fixed field that is not as the row says (R245, R247). -/
theorem test_words_refused : [(0x19000000 : Word), 0xFE000000, 0x02000002, 0x08000008, 0x10000001, 0x22010203, 0x16000001].all
    (fun w => decode w == none) = true := by decide

/-! ## WellFormed refuses ill-formed terms, one for each check -/

theorem test_wf_accepts : [Instr.add 1 2 3, .ld 1 2 0 0, .fadd 1 2 3, .doorbell 255 0, .pageWalk 47 63 0 false false].all WellFormed = true := by decide
/-- A reserved operand code, an odd pair under every type that needs one, a reserved sub-field (R236, R247 step 5). -/
theorem test_wf_words : [Instr.add 0xC0 2 3, .callx 1 3, .redu 1 2 0 15].all (fun i => !WellFormed i) = true := by decide
theorem test_wf_objects : [Instr.cqHeadWrite (17 * 256) 0, .doorbell 256 0, .recordDistribute 64 0, .recordDistribute 0 64,
    .contextDestruction 64, .stopRequest 64, .edfPeriodStart 0 8, .tileDefinitionFail 0 4096 0, .ngrant 99999 0,
    .overlayLoadComplete 0 256].all (fun i => !WellFormed i) = true := by decide
theorem test_wf_requests : [Instr.gets ⟨0, 0, 31, 2, 0⟩, .gets ⟨99999, 0, 0, 1, 0⟩,
    .writeThroughStore ⟨0, .core 0, 0, 0, 1, [(0, 0)], false, Clock.zero, none⟩,
    .bankAluOperation ⟨0, .core 0, 0, 0, 12, 0, [], false, Clock.zero, none, none⟩, .fabricRequest 16 (.read 0 0 0), .fabricRequest 0 (.read 64 0 0),
    .fabricRequest 0 (.atomic 0 ⟨0, .core 0, 0, 0, 12, 0, [], false, Clock.zero, none, none⟩)].all (fun i => !WellFormed i) = true := by decide
theorem test_wf_ranges : [Instr.releaseMarker 4 0 0 Clock.zero 0, .releaseMarker 0 4 0 Clock.zero 0, .applyEntry 4, .jobWatchdog 0 16 0,
    .linkRetrain 16, .ldaLanded 0 8, .sleepExpiry 0 9, .completionTimeout (some 0) 9, .hostWindowRead 17 0 0, .latchingRead 0 4096, .registerWrite (.bar0 17 0) 0,
    .registerWrite (.csr 0 4096) 0, .pageWalk 0 64 0 false false].all (fun i => !WellFormed i) = true := by decide

/-! ## Values of R297, under i32 without and with SAT -/

theorem test_values_saturation :
    let i32 : IntTy := ⟨32, true, 1⟩
    addElem i32 false 0x7FFFFFFF 1 = 0x80000000 ∧ addElem i32 true 0x7FFFFFFF 1 = 0x7FFFFFFF ∧
    subElem i32 false 0x80000000 1 = 0x7FFFFFFF ∧ subElem i32 true 0x80000000 1 = 0x80000000 ∧
    negElem i32 false 0x80000000 = 0x80000000 ∧ negElem i32 true 0x80000000 = 0x7FFFFFFF ∧
    absElem i32 false 0x80000000 = 0x80000000 ∧ absElem i32 true 0x80000000 = 0x7FFFFFFF ∧
    mulElem i32 false 0x10000 0x10000 = 0 ∧ mulElem i32 true 0x10000 0x10000 = 0x7FFFFFFF := by decide
theorem test_values_division_and_shifts :
    let i32 : IntTy := ⟨32, true, 1⟩
    divElem i32 false 0x80000000 0xFFFFFFFF = 0x80000000 ∧ divElem i32 true 0x80000000 0xFFFFFFFF = 0x7FFFFFFF ∧
    divElem i32 false 7 0 = 0xFFFFFFFF ∧ remElem i32 7 0 = 0xFFFFFFFF ∧ remElem i32 0xFFFFFFF9 2 = 0xFFFFFFFF ∧
    shrElem i32 0xFFFFFFF8 1 = 0xFFFFFFFC ∧ shrElem ⟨32, false, 1⟩ 0xFFFFFFF8 1 = 0x7FFFFFFC ∧ shlElem i32 1 (33 % 32) = 2 ∧
    bfxElem i32 0xF0 (4 + 4 * 256) = 0xFFFFFFFF ∧ clzElem 32 0 = 32 := by decide

/-! ## One step on small states -/

/-- The team after an instruction that leads to a next state. -/
def after (s : State) (i : Instr) (P : Team → Bool) : Bool :=
  match exec i s with
  | .next t => match t.team? 0 with
    | some u => P u
    | none => false
  | _ => false
/-- v registers of lane 0 at the start. -/
def withV (l : List (Nat × Word)) (s : State) : State := withTeam (fun t => { t with v := l.map fun p => (1024 * p.1, p.2) }) s

theorem test_add_wraps : after (withV [(2, 0xFFFFFFFF), (3, 2)] (lab 0)) (.add 1 2 3) (fun u => u.vreg 1 0 == 1 && u.vreg 2 0 == 0xFFFFFFFF) = true := by decide +kernel
theorem test_add_saturates : after (withV [(2, 0x7FFFFFFF), (3, 2)] (lab 0x1000)) (.add 1 2 3) (fun u => u.vreg 1 0 == 0x7FFFFFFF) = true := by decide +kernel
theorem test_sub_order : after (withV [(2, 5), (3, 7)] (lab 0)) (.sub 1 2 3) (fun u => u.vreg 1 0 == 0xFFFFFFFE) = true := by decide +kernel
theorem test_ldi_extends : after (lab 0) (.ldi 7 0xFFFF) (fun u => u.vreg 7 31 == 0xFFFFFFFF && u.vreg 7 32 == 0) = true := by decide +kernel
theorem test_mul_wide : after (withV [(2, 0xFFFFFFFF), (4, 2)] (lab 0x60)) (.mul 6 2 4) (fun u => u.vreg 6 0 == 0xFFFFFFFE && u.vreg 7 0 == 1) = true := by decide +kernel
theorem test_source_is_destination : after (withV [(1, 3)] (lab 0)) (.mad 1 1 1) (fun u => u.vreg 1 0 == 12) = true := by decide +kernel
theorem test_clt_signed : after (withV [(2, 0x80000000), (3, 1)] (lab 0)) (.clt 1 2 3) (fun u => u.preg 1 == 1) = true := by decide +kernel
theorem test_clt_unsigned : after (withV [(2, 0x80000000), (3, 1)] (lab 0x20)) (.clt 1 2 3) (fun u => (u.preg 1).getLsbD 0 == false) = true := by decide +kernel
theorem test_fadd_one_one : after (withV [(2, 0x3F800000), (3, 0x3F800000)] (lab 0x80)) (.fadd 1 2 3) (fun u => u.vreg 1 0 == 0x40000000) = true := by decide +kernel
theorem test_fdiv_by_zero : after (withV [(2, 0x3F800000)] (lab 0x80)) (.fdiv 1 2 3) (fun u => u.vreg 1 0 == 0x7F800000 && u.landing.any fun p => p.2 == 0x18) = true := by decide +kernel
theorem test_shup_zero_stays : after (withV [(2, 9)] (lab 0)) (.shup 1 2 1) (fun u => u.vreg 1 0 == 9 && u.vreg 1 1 == 9 && u.vreg 1 2 == 0) = true := by decide +kernel
theorem test_p0_is_not_written : after (lab 0) (.pset 0 0) (fun u => u.preg 0 == (team0 0).preg 0) = true := by decide +kernel
theorem test_mode_writes : after (lab 0) (.mode 0x80) (fun u => u.mode == 0x80) = true := by decide +kernel
theorem test_atom_of_zero : bankNew 1 1 0xFFFFFFFF 1 0 = 0 ∧ bankNew 10 1 4 4 0 = 0 ∧ bankNew 10 1 3 4 0 = 4 ∧ bankNew 5 0 0x80000000 1 0 = 0x80000000 := by decide

/-! ## Witnesses: states and operands that meet the hypotheses of the statements, in their order -/

theorem test_witness_DecodeOfEncode : encode (.add 1 2 3) = some 0x24010203 := by decide
theorem test_witness_EncodeOfDecode : decode 0x24010203 = some (.add 1 2 3) ∧ Instr.add 1 2 3 ≠ .ill := by decide
/-- One state for each answer of the shared checks. -/
theorem test_witness_ChecksComeInOrder :
    admission (.add 1 2 3) (lab 0) = .ok (plainCtx (.add 1 2 3) (lab 0) focus0 (team0 0) (Path.start 0x10000 (firstLanes 32) 0)) (lab 0) ∧
    admission (.tinv 1 2) (lab 0) = .trap Cause.priv (wordOf (.tinv 1 2)) ∧
    admission (.qnt 2 4 0) (withTeam (fun t => { t with xfront := false }) (lab 0x80)) = .trap Cause.wrongFront (wordOf (.qnt 2 4 0)) ∧
    admission (.add 0xC0 2 3) (lab 0) = .trap Cause.illegalDest (wordOf (.add 0xC0 2 3)) ∧
    admission (.add 1 2 3) (withTeam (fun t => { t with vcount := 2 }) (lab 0)) = .trap Cause.regBudget 2 ∧
    admission (.exit) (withTeam (fun t => { t with guard := [⟨0, 0, 0, [], 0, 0, 0, []⟩] }) (lab 0)) = .trap Cause.guardNest 1 := by
  decide +kernel
theorem test_witness_EveryWordObeysTheChecks : (encode (.add 0xC0 2 3)).isSome = true ∧ (lab 0).focus = some focus0 ∧
    admission (.add 0xC0 2 3) (lab 0) = .trap Cause.illegalDest (wordOf (.add 0xC0 2 3)) ∧
    admission (.mov 1 0xA0) (withQueue (queue3 0) (lab 0)) = .park (.queue 0 3 0) none := by decide +kernel
theorem test_witness_StepKeepsMemoryCanonical : Inv State.reset ∧ ∃ t, step State.reset = .next t := by
  refine ⟨rfl, ?_⟩
  have h : (match step State.reset with | .next _ => true | _ => false) = true := by decide +kernel
  revert h; cases step State.reset <;> simp
theorem test_witness_MemoryReadsBack : Memory.wf [] = true ∧ Memory.wf ([] : Memory) = true := by decide
theorem test_witness_TrapsEnterTheHandler :
    let s := (lab 0).modDie 0 fun d => { d with ctxCsr := [(0x876, 0x10000)] }
    (lab 0).handler (team0 0) = 0 ∧ s.handler (team0 0) ≠ 0 ∧ s.team? 0 = some (team0 0) ∧ (team0 0).fw = false ∧
    (team0 0).paths.get? 0 = some (Path.start 0x10000 (firstLanes 32) 0) ∧ (Path.start 0x10000 (firstLanes 32) 0).win ≠ .trap := by decide +kernel
/-- A placed word: its bundle's slot 1 meets the conditions of the first clause, and the front end picks it as the second says. -/
def placed : State := State.reset.withFetchWord 32 0x24010203
def placedBundle : BitVec 128 := BitVec.ofNat 128 (0x3CF3C000 + 0x24010203 * 2 ^ 32)
theorem test_witness_StepRunsTheDecodedInstruction_slot : bundleBad placedBundle = false ∧ bundleWord placedBundle 1 = 0x24010203 ∧
    placed.chargingTrial (placedTeam 0) = none ∧ (placedTeam 0).flags 0 &&& (bundleWord placedBundle 0).extractLsb' 0 12 = 0 ∧
    distOf (bundleWord placedBundle 0) 1 = 0 ∧ setfOf (bundleWord placedBundle 0) 1 = 15 ∧
    (infoOf 0 (.add 1 2 3)).touches 0 &&& (placedTeam 0).pendingWrites 0 = 0 ∧ decode (bundleWord placedBundle 1) = some (.add 1 2 3) := by
  decide +kernel
theorem test_witness_StepRunsTheDecodedInstruction_pick : placed.agenda = [.front 0 true] ∧ placed.mgmt.alarm = false ∧
    (let r := ({ placed.markBusy with agenda := [] } : State).candidates 0 true
     match r.2.pick r.1 with
     | some c => (match c.turn with | .issue i f => decide (i = .add 1 2 3 ∧ f.addr = 0x10004) | _ => false) &&
        (match (r.1.foldl (fun (s : State) (d : Cand) => s.modPath d.tid d.pid fun p => { p with yielded := false }) r.2).team? c.tid with
         | some t => t.deferred.isEmpty && (t.paths.get? c.pid).isSome | none => false)
     | none => false) = true := by decide +kernel
/-- RFT outside a handler, and inside one with each answer of its checks. -/
def inHandler (h : List (Nat × Word)) (s : State) : State := withPath (fun p => { p with win := .trap }) (withTeam (fun t => { t with h := h }) s)
theorem test_witness_ReturnFromTrapResumes : met (lab 0) .rft (fun c _ => decide (c.p.win ≠ .trap)) = true ∧
    [[(2, (0x10002 : Word))], [(2, 0x10000)]].all (fun h => met (inHandler h (lab 0)) .rft fun c _ => decide (c.p.win = .trap) &&
      (let a := (c.t.hreg 2).toNat; decide (a % 4 ≠ 0 ∨ a % 16 = 0))) = true ∧
    met (inHandler [(2, 0x10004), (6, 0x8000)] (lab 0)) .rft (fun c _ => decide ((c.t.hreg 2).toNat % 4 = 0 ∧ (c.t.hreg 2).toNat % 16 ≠ 0 ∧
      modeValid ((c.t.hreg 6).extractLsb' 0 16) = false)) = true ∧
    met (inHandler [(2, 0x1000C), (3, 0xFFFFFF), (6, 0x80)] (lab 0)) .rft (fun c _ => decide ((c.t.hreg 2).toNat % 4 = 0 ∧
      (c.t.hreg 2).toNat % 16 ≠ 0 ∧ modeValid ((c.t.hreg 6).extractLsb' 0 16) = true)) = true := by decide +kernel
/-- Mode 0x10 (p0, sense 1) selects no lane. -/
theorem test_witness_SoftwareTrapsAndEmptySlots :
    [(0 : BitVec 16), 0x10].all (fun m => met (lab m) (.trap 15) (fun c _ => decide (c.active = 0) == decide (m = 0x10)) &&
      met (lab m) (.brk 0xFFFF) (fun c _ => decide (c.active = 0) == decide (m = 0x10)) && pass (lab m) [.ill]) = true := by decide +kernel
theorem test_witness_ResultsGoToTheirPlaces : (∀ l ∈ [0, 1023], l < 1024) ∧ (15 : Nat) ≠ 0 := by decide
theorem test_witness_ElementsAreNarrowedInPlace : 0 < (intTy 8).w ∧ 1 < (intTy 8).elems ∧ intMin 16 true ≤ -5 ∧ (-5 : Int) ≤ intMax 16 true := by decide
theorem test_witness_CompletionChangesNothingElse :
    met (lab 0) (.add 1 2 3) (fun c s => decide (s.team? c.tid = some c.t ∧ c.t.paths.get? c.pid = some c.p)) = true := by decide +kernel
/-- With no queue port, and with one that pops or pushes. -/
theorem test_witness_ComputingTouchesOnlyItsTeam : met (lab 0) (.add 1 2 3) (fun c _ => c.n.ports.isEmpty) = true ∧
    met (withQueue (queue3 2) (lab 0)) (.mov 1 0xA0) (fun c _ => !c.n.ports.isEmpty && c.queues.all fun q => !q.2.feed) = true ∧
    met (withQueue (queue3 1) (lab 0)) (.ldi 0xA0 7) (fun c s => !c.n.ports.isEmpty &&
      (match c.push s 0 fun _ => 7 with | .done _ => true | _ => false)) = true := by decide +kernel
/-- SEL to a register and to a queue; i32, i64 with SAT, i16x2. -/
theorem test_witness_IntegerArithmeticAndSelect :
    [(0 : BitVec 16), 0x1040, 0x100].all (fun m => pass (lab m) [.mov 6 2, .add 6 2 4, .sub 6 2 4, .addi 6 2 0x80, .neg 6 2, .abs 6 2, .mul 6 2 4,
      .mulh 6 2 4, .mad 6 2 4, .sel 6 2 1]) = true ∧ pass (lab 0) [.ldi 0xFF 1, .ldih 0x81 2, .mov 1 0xFF] = true ∧
    met (withQueue ⟨kindL32, false, 0, 0, 4, 0, 0, 0, false, 1⟩ (lab 0)) (.sel 0xA0 2 1) (fun _ _ => Code.isQ 0xA0) = true := by decide +kernel
/-- A zero divisor in some lanes, with and without TRAPEN, and no zero divisor. -/
theorem test_witness_Division :
    [(0 : Word), 1].all (fun e => [Instr.div 1 2 3, .rem 1 2 3].all fun i => met (withTeam (fun t => { t with trapen := e }) (lab 0)) i fun c _ =>
      decide (c.t.trapen.getLsbD 0 = decide (e = 1)) && c.lanes.any fun l => elemOf c.ity (Y c 3 l) 0 = 0) = true ∧
    [Instr.div 1 2 0x83, .rem 1 2 0x83].all (fun i => met (withTeam (fun t => { t with trapen := 1, s := [(3, 5)] }) (lab 0)) i fun c _ =>
      c.lanes.all fun l => elemOf c.ity (Y c 0x83 l) 0 ≠ 0) = true := by decide +kernel
theorem test_witness_MinimumMaximumAndLogic : [(0 : BitVec 16), 0x60, 0x100].all (fun m => pass (lab m) [.min 6 2 4, .max 6 2 4, .and 6 2 4, .or 6 2 4,
    .xor 6 2 4, .not 6 2, .andi 6 2 0xFF]) = true := by decide +kernel
theorem test_witness_Shifts : [(0 : BitVec 16), 0x20, 0x60].all (fun m => pass (lab m) [.shl 6 2 4, .shr 6 2 4, .rot 6 2 4, .shli 6 2 31, .shri 6 2 31]) = true ∧
    pass (lab 0x100) [.shl 1 2 3, .shli 1 2 15] = true := by decide +kernel
theorem test_witness_BitFieldsAndAddresses : [(0 : BitVec 16), 0x40].all (fun m => pass (lab m) [.bfx 6 2 4, .bfi 6 2 4, .clz 6 2, .popc 6 2, .brev 6 2,
    .lea 6 2 4]) = true := by decide +kernel
theorem test_witness_ComparisonsAndPredicates : pass (lab 0x40) [.ceq 1 2 4, .cne 1 2 4, .clt 0 2 4, .cle 1 2 4, .cgt 1 2 4, .cge 15 2 4, .pand 1 2 3,
    .por 0 2 3, .pxor 15 0 3, .pnot 1 2, .pfrom 1 2, .pset 1 1] = true := by decide +kernel

/-- No flag is raised on zeros. -/
def quiet (s : State) (i : Instr) (f : Ctx → Nat → List Elem) (d : Code) : Bool :=
  met s i fun c _ => (c.laneOuts (c.uniformResult d) (f c)).all fun r => decide (r.2.2.1 &&& c.fpTraps = 0)
theorem test_witness_FloatResults : [(0x80 : BitVec 16), 0xA0, 0xC0, 0xE0, 0x120, 0x140].all (fun m => pass (lab m) [.fadd 6 2 4, .fsub 6 2 4,
    .fmul 6 2 4, .fma 6 2 4, .fms 6 2 4, .fnma 6 2 4, .fdiv 6 2 4, .fsqrt 6 2, .frcp 6 2, .frsq 6 2, .frnd 6 2, .fscale 6 2 4, .fmin 6 2 4,
    .fmax 6 2 4, .fabs 6 2, .fneg 6 2, .fcps 6 2 4] &&
    met (lab m) (.fadd 6 2 4) fun c _ => decide (c.fpTraps = 0)) = true ∧
    [(0x80 : BitVec 16), 0xC0, 0x140].all (fun m => pass (lab m) [.fexp2 6 2, .flog2 6 2, .fsin 6 2, .fcos 6 2, .ftanh 6 2]) = true := by decide +kernel
theorem test_witness_FloatComparisons : pass (lab 0x80) [.fceq 1 2 3, .fclt 1 2 3, .fcle 1 2 3, .fcun 1 2 3, .fclass 1 2] = true ∧
    met (lab 0x80) (.fceq 1 2 3) (fun c _ => decide (c.fpTraps = 0)) = true := by decide +kernel
theorem test_witness_Conversions : [(0 : BitVec 16), 0x80, 0xA0].all (fun m => pass (lab m) [.cvt 6 2 5, .cvts 6 2 0]) = true ∧
    pass (lab 0x120) [.pack 1 2 1, .unpk 1 2 1] = true ∧ pass (lab 0x100) [.pack 1 2 1, .unpk 1 2 0] = true := by decide +kernel
/-- Some computed lane raises an enabled flag: under TRAPEN 0x7F, 0 divided by 0, a signalling NaN, ∞ less ∞, 0 times ∞ and the root of
−1 are invalid; the logarithm of 0, and its reciprocals, divide by zero; a conversion of 1e10 is out of range. To lanes, and (s6) once. -/
def labTraps (m : BitVec 16) (x y : Word) : State :=
  withTeam (fun t => { t with trapen := 0x7F, v := [(2048, x), (4096, y), (6144, 0x7F800000)], s := [(2, x), (4, y)] }) (lab m)
def trapsFloat (s : State) (i : Instr) (f : Ctx → Nat → List Elem) (d : Code) (uni : Bool) : Bool :=
  met s i fun c _ => decide (c.uniformResult d = uni) && (c.laneOuts (c.uniformResult d) (f c)).any fun r => decide (r.2.2.1 &&& c.fpTraps ≠ 0)
theorem test_witness_EnabledFlagsTrap :
    (let inf : Word := 0x7F800000
     let snan : Word := 0x7F800001
     [(Instr.fadd 1 2 4, ofTwo (fun m e a b => faddPre m e false a b) 2 4, inf, 0xFF800000), (.fsub 1 2 4, ofTwo (fun m e a b => faddPre m e true a b) 2 4, inf, inf),
      (.fmul 1 2 4, ofTwo fmulPre 2 4, 0, inf), (.fdiv 1 2 4, ofTwo fdivPre 2 4, 0, 0), (.fsqrt 1 2, ofOne (fun m e a => fsqrtPre m e false a) 2, 0xBF800000, 0),
      (.frcp 1 2, ofOne frcpPre 2, 0, 0), (.frsq 1 2, ofOne (fun m e a => fsqrtPre m e true a) 2, 0, 0), (.fmin 1 2 4, ofPick false 2 4, snan, 0),
      (.fmax 1 2 4, ofPick true 2 4, snan, 0), (.frnd 1 2, ofRound 2, snan, 0), (.fscale 1 2 4, ofScale 2 4, snan, 0)].all fun p =>
        trapsFloat (labTraps 0x80 p.2.2.1 p.2.2.2) p.1 p.2.1 1 false) = true ∧
    trapsFloat (labTraps 0x80 0 0) (.fdiv 0x86 0x82 0x84) (ofTwo fdivPre 0x82 0x84) 0x86 true = true := by decide +kernel
theorem test_witness_EnabledFlagsTrap_fused :
    [(Instr.fma 6 2 4, ofThree false false 6 2 4), (.fms 6 2 4, ofThree false true 6 2 4), (.fnma 6 2 4, ofThree true false 6 2 4)].all (fun p =>
      trapsFloat (labTraps 0x80 0 0x7F800000) p.1 p.2 6 false) = true := by decide +kernel
theorem test_witness_EnabledFlagsTrap_special :
    [(Instr.fexp2 1 2, ofSpecial 0 2, (0x7F800001 : Word)), (.flog2 1 2, ofSpecial 1 2, 0), (.fsin 1 2, ofSpecial 2 2, 0x7F800000),
     (.fcos 1 2, ofSpecial 3 2, 0x7F800000), (.ftanh 1 2, ofSpecial 4 2, 0x7F800001)].all (fun p =>
      trapsFloat (labTraps 0x80 p.2.2 0) p.1 p.2.1 1 false) = true := by decide +kernel
theorem test_witness_EnabledFlagsTrap_conversions :
    trapsFloat (labTraps 0 0x7F800000 0) (.cvt 1 2 4) (ofConvert (fun c => c.env) 2 4) 1 false = true ∧
    trapsFloat (labTraps 0 0x7F800001 0) (.cvts 1 2 4) (ofConvert (fun c => { c.env with sat := true }) 2 4) 1 false = true ∧
    trapsFloat (labTraps 0x120 0x7F800001 0) (.pack 1 2 1) (ofPack 1 2 1) 1 false = true ∧
    trapsFloat (labTraps 0x120 0x7D7D 0) (.unpk 1 2 0) (ofUnpack 2 0) 1 false = true := by decide +kernel
theorem test_witness_BlockFormatsAndRandomBits : [Instr.qnt 2 8 0, .qnt 2 8 1, .dqnt 8 2 0, .dqnt 8 2 1].all (fun i => met (lab 0x80) i fun c _ =>
    decide (c.fpTraps = 0)) = true ∧ met (lab 0) (.rand 1) (fun c s => decide (s.team? c.tid = some c.t)) = true := by decide +kernel
theorem test_witness_ShufflesVotesAndBallots : pass (lab 0) [.shfl 1 2 3, .shfx 1 2 3, .shup 1 2 31, .shdn 1 2 0, .bcast 1 2 0x83, .vota 1 2 0, .voty 0 2 1,
    .acnt 1 2 1 1, .matchLanes 1 2] = true ∧ met (lab 0) (.ballot 1 2 0) (fun c _ => c.uniformResult 1 = false) = true ∧
    met (withQueue ⟨kindL32, false, 0, 0, 4, 0, 0, 0, false, 1⟩ (lab 0)) (.ballot 0xA0 2 0) (fun c _ => c.uniformResult 0xA0 = false) = true ∧
    met (lab 0) (.ballot 0x81 2 31) (fun c _ => c.uniformResult 0x81) = true ∧
    admission (.ballot 0xA0 2 31) (withQueue ⟨kindL32, false, 0, 0, 4, 0, 0, 0, false, 1⟩ (lab 0)) =
      .trap Cause.illegalOperand (wordOf (.ballot 0xA0 2 31)) ∧
    admission (.ballot 1 2 31) (lab 0) = .trap Cause.illegalOperand (wordOf (.ballot 1 2 31)) := by decide +kernel
theorem test_witness_ReductionsAndScansAreExact : [(0 : BitVec 4), 5].all (fun o => pass (lab 0) [.redu 1 2 0 o, .redu 1 2 1 o, .scan 1 2 1 1 o, .scan 1 2 0 0 o]) = true ∧
    pass (lab 0x80) [.redu 1 2 0 0, .scan 1 2 0 1 2] = true := by decide +kernel
/-- Floating ones with no enabled flag raised, and with one (∞ plus −∞); a sequence of three lanes. -/
theorem test_witness_ReductionsAndScansAreExact_float :
    [(6 : BitVec 4), 7, 8].all (fun o => [Instr.redu 1 2 0 o, .redu 1 2 1 o, .scan 1 2 0 1 o, .scan 1 2 1 0 o].all fun i => met (lab 0x80) i fun c _ =>
      [false, true].all fun own => (c.fpSequences 2 o.toNat own).all fun q => decide (q.flags &&& c.fpTraps = 0)) = true ∧
    (let s := withTeam (fun t => { t with trapen := 0x7F, v := [(2048, 0x7F800000), (2049, 0xFF800000)] }) (lab 0x80)
     [Instr.redu 1 2 0 6, .scan 1 2 0 0 6].all fun i => met s i fun c _ => (c.fpSequences 2 6 false).any fun q => decide (q.flags &&& c.fpTraps ≠ 0)) = true ∧
    met (lab 0x80) (.redu 1 2 0 6) (fun c _ => let l := c.fpSequence 2 6 none [0, 1, 2]
      l.length == 3 && (l.headD ⟨9, [], [], 0, 0⟩).lane == 0) = true := by decide +kernel

/-- What `Accesses` asks, as a test. -/
def reaches (c : Ctx) (s : State) (as : List (Nat × Nat)) (size : Nat) (rd wr sync watched : Bool) : Bool :=
  let r := c.translateLanes wr as s
  (as.all fun a => decide (a.2 % size = 0 ∧ a.2 < 2 ^ 56)) && (!watched || (c.watchHit as size rd wr).isNone) && decide (r.2.1 = []) &&
  (!sync || (c.meetsFail r.2.2 r.1 size wr).isNone) && r.1.all fun a => match r.2.2.linkAt a.pa with | none => true | some (_, .up) => true | _ => false
theorem reaches_spec {c : Ctx} {s : State} {as : List (Nat × Nat)} {size : Nat} {rd wr sync watched : Bool}
    (h : reaches c s as size rd wr sync watched = true) :
    Accesses c s as size rd wr sync watched (c.translateLanes wr as s).1 (c.translateLanes wr as s).2.2 := by
  simp only [reaches, Bool.and_eq_true, List.all_eq_true, decide_eq_true_eq] at h
  obtain ⟨⟨⟨⟨h1, h2⟩, h3⟩, h5⟩, h4⟩ := h
  refine ⟨h1, by rw [← h3], fun hw => by simpa [hw] using h2, fun _ a ha => ?_, fun hs => by simpa [hs] using h5⟩
  have := h4 a ha
  split at this
  · exact .inl (by assumption)
  · exact .inr ⟨_, by assumption⟩
  · cases this
/-- What `Loads` asks, as a test on what follows. -/
def loads (c : Ctx) (s : State) (as : List LaneAcc) (n : Nat) (P : State → Tab Nat → Clock → Bool) : Bool :=
  match c.loadLanes n as s [] Clock.zero with
  | .got t vals st => P (c.modTeam t fun u => { u with loaded := u.loaded.max st }) vals st
  | _ => false
theorem loads_spec {c : Ctx} {s : State} {as : List LaneAcc} {n : Nat} {P : State → Tab Nat → Clock → Bool} (h : loads c s as n P = true) :
    ∃ t vals st, Loads c s as n t vals st ∧ P t vals st = true := by
  unfold loads at h
  split at h
  · exact ⟨_, _, _, ⟨_, by assumption, rfl⟩, h⟩
  · cases h
/-- What `Releases` asks, as a test on what follows; the same for `Acquires`. -/
def releases (c : Ctx) (s : State) (scope : Nat) (P : State → Bool) : Bool :=
  if c.inRegion then P s
  else !(s.flushWrites c.tid).releaseHeld c.tid scope && P ((s.flushWrites c.tid).releaseNow c.tid c.pid)
theorem releases_spec {c : Ctx} {s : State} {scope : Nat} {P : State → Bool} (h : releases c s scope P = true) :
    ∃ t, Releases c s scope t ∧ P t = true := by
  unfold releases at h
  split at h
  · exact ⟨_, .inl ⟨by assumption, rfl⟩, h⟩
  · simp only [Bool.and_eq_true, Bool.not_eq_true'] at h
    exact ⟨_, .inr ⟨Bool.eq_false_iff.mpr (by assumption), h.1, rfl⟩, h.2⟩
def acquires (c : Ctx) (s : State) (st : Clock) : Bool := ((s.applyDie c.die).die c.die).clock.dominates c.die st
theorem acquires_spec {c : Ctx} {s : State} {st : Clock} (h : acquires c s st = true) : Acquires c s st (s.applyDie c.die) := ⟨rfl, h⟩

/-- The accesses of an instruction reach memory, and a property holds of what they lead to. -/
def metAccess (s : State) (i : Instr) (as : Ctx → List (Nat × Nat)) (n : Nat) (rd wr sync watched : Bool) (P : Ctx → State → List LaneAcc → Bool) : Bool :=
  met s i fun c s' => reaches c s' (as c) n rd wr sync watched && P c (c.translateLanes wr (as c) s').2.2 (c.translateLanes wr (as c) s').1
/-- A path of two lanes, whose v3:v2 are 0x1000 and 0x1008; s3:s2 is 0x1004. -/
def labAt (m : BitVec 16) : State :=
  withPath (fun p => { p with mask := 3 }) (withTeam (fun t => { t with v := [(2048, 0x1000), (2049, 0x1008)], s := [(2, 0x1004)] }) (labMem m))
/-- The same inside a guarded region. -/
def labGuarded (m : BitVec 16) : State := withTeam (fun t => { t with guard := [⟨0, 0, 0, [], 0, 0, 0, []⟩] }) (labAt m)

/-- LD and LDQ by lanes, LDU once, SZ 3, offset −1; and LDQ with no lane. -/
theorem test_witness_LoadsComplete :
    [(Instr.ld 6 2 3 0x3F, 2), (.ldu 6 0x82 3 0x3F, 1), (.ldq 6 2 3 0x3F, 2)].all (fun (p : Instr × Nat) =>
      metAccess (labAt 0) p.1 (fun c => (c.addrs (if p.2 = 1 then 0x82 else 2) (-4)).take p.2) 4 true false true true fun c t ok => decide (c.active ≠ 0) &&
        loads c t ok 4 fun t1 _ st => p.2 = 1 || acquires c t1 st) = true ∧
    met (lab 0x10) (.ldq 6 2 1 0) (fun c _ => decide (c.active = 0)) = true := by decide +kernel
/-- What a store sends: zeros of four bytes for each lane. -/
def zeros (ok : List LaneAcc) : List LaneStore := ok.map fun a => ⟨a.lane, a.va, a.pa, a.scope, natLe 4 0⟩
/-- A posted-store entry; 256 of them fill a core's table. -/
def posted0 : Posted := ⟨0, 0, 0, 0, 0, 0, 0, 0, 0, 0, 0, none⟩
def fullTable : Tab Posted := (List.range 256).map fun k => (k, posted0)
def labStores : List (Instr × Code × Nat) := [(.st 6 2 3 0, 2, 2), (.stu 0x86 0x82 3 0, 0x82, 1), (.str 6 2 3 0, 2, 2)]
theorem test_witness_StoresComplete :
    labStores.all (fun p => metAccess (labAt 0) p.1 (fun c => (c.addrs p.2.1 0).take p.2.2) 4 false true false true fun c t ok => decide (c.inRegion = false ∧ c.active ≠ 0 ∧ c.rest? = none) &&
      releases c t (widerScope c.t.pscope (ok.map fun a => (a.pa, a.scope))) fun t0 =>
        decide ((c.storeLanes (zeros ok) t []).2.1 = [] ∧ (c.storeLanes (zeros ok) t0 []).2.1 = [])) = true := by decide +kernel
/-- A store to the host with a full table keeps its lanes; one that has begun goes on with them. -/
theorem test_witness_StoresComplete_full :
    let host : LaneStore := ⟨1, 0x1000, 0x1000000000000, Scope.host, [1]⟩
    let begun := withTeam (fun t => { t with rests := [(0, ⟨[host], [7], 0, [], Clock.zero, 0, []⟩)] }) (lab 0)
    labStores.all (fun p => met begun p.1 fun c s => decide (c.rest? = some ⟨[host], [7], 0, [], Clock.zero, 0, []⟩) && decide ((c.storeLanes [host] s []).2.1 = []) &&
      decide ((c.storeLanes [host] (s.modCore 0 fun k => { k with posted := fullTable }) []).2.1 = [host])) = true := by decide +kernel
theorem test_witness_StoresComplete_region :
    labStores.all (fun p => metAccess (labGuarded 0) p.1 (fun c => (c.addrs p.2.1 0).take p.2.2) 4 false true false true fun c t ok => c.inRegion &&
      match t.team? c.tid with
      | some u => (u.guardWrites (zeros ok)).isSome && ({ u with gscopes := (List.range 64).map fun k => (0x1000 + k, (0, 0)) }.guardWrites (zeros ok)).isNone
      | none => false) = true ∧ met (lab 0x10) (.str 6 2 3 0) (fun c _ => decide (c.inRegion = false ∧ c.active = 0)) = true := by decide +kernel
theorem test_witness_StoresTravelToTheirHomes :
    met (labAt 0) (.st 6 2 3 0) (fun c s => (c.storeLanes [⟨0, 0x1000, 0x107C, Scope.die, natLe 4 7⟩] s []).1.length == 1 && s.pending.isEmpty &&
      (s.core 0).waiting.isEmpty && (s.takeLine 0 0x20 Scope.die 0).isSome) = true ∧
    (let r : StoreReq := ⟨0, .core 0, 0, Scope.die, 0x20, [(0x107E, 7), (0x107F, 0)], true, Clock.zero, none⟩
     goodStore r = true ∧ (r.bytes.map (·.1)).Nodup ∧ isHbm (128 * 0x20) = true ∧
     State.reset.heldOn 0x20 = none ∧ State.reset.watchHits [0x107E, 0x107F] = [] ∧ (State.reset.dirOf 0x20).st ≠ DirSt.n) := by decide +kernel
/-- Offsets of two lanes: misaligned in one; aligned, one at the last word of the range and one beyond it. -/
def labOff (a b : Word) (m : BitVec 16) : State := withPath (fun p => { p with mask := 3 }) (withTeam (fun t => { t with v := [(2048, a), (2049, b)] }) (lab m))
theorem test_witness_LocalStoreAccesses : [Instr.ldl 6 2 3 0, .stl 6 2 3 0].all (fun i =>
    met (labOff 2 4 0) i (fun c _ => c.lanes.any fun l => (c.b false 2 l).toNat % 4 ≠ 0) &&
    met (labOff 4092 4096 0) i fun c _ => (c.lanes.all fun l => (c.b false 2 l).toNat % 4 = 0) &&
      decide (c.localRange = (0, 4096) ∧ c.lanes = [0, 1]) && decide ((c.s.core c.core).badLocal 4092 4 = none)) = true := by decide +kernel
/-- LDP with no window, misaligned, and with one lane inside and one lane past the window's end. -/
theorem test_witness_ParameterWindowsAndLandings_ldp :
    met (lab 0) (.ldp 6 2 3 1) (fun c s => decide (((s.group? c.clu c.t.group).bind fun g => g.windows.get? 1) = none)) = true ∧
    met (labOff 2 4 0) (.ldp 6 2 3 0) (fun c s => decide (((s.group? c.clu c.t.group).bind fun g => g.windows.get? 0) = some (0x1000, 64)) &&
      c.lanes.any fun l => (c.b false 2 l).toNat % 4 ≠ 0) = true ∧
    metAccess (withTeam (fun t => { t with v := [(2048, 60), (2049, 64)] }) (labAt 0)) (.ldp 6 2 3 0)
      (fun c => (c.lanes.filter fun l => decide ((c.b false 2 l).toNat < 64)).map fun l => (l, 0x1000 + (c.b false 2 l).toNat)) 1 true false true false
      (fun c t ok => decide (c.active ≠ 0 ∧ ok.length = 1) && ok.all fun a => (List.range 4).all fun i => !(t.badWords (lineOf (a.pa + i))).getLsbD (((a.pa + i) % 128) / 4)) = true := by decide +kernel
def withTag (g : LandTag) (s : State) : State := withTeam (fun t => { t with tags := [(0, g)] }) s
/-- LDA turned away for each of its reasons (on the firmware slot, a tag that is taken, one lane's words too many),
at the limit, with no lane, and landing two words of two lanes. -/
theorem test_witness_ParameterWindowsAndLandings_lda :
    met (withTag ⟨false, 1, 0, [], []⟩ (lab 0)) (.lda 0 2 0) (fun c _ => (c.t.tags.get? 0).isSome) = true ∧
    met (withTag ⟨false, 8, firstLanes 97, [], []⟩ (lab 0)) (.lda 1 2 7) (fun c _ => decide (c.t.landed + 32 * c.lanes.length = 4128)) = true ∧
    met (withTag ⟨false, 8, firstLanes 96, [], []⟩ (lab 0)) (.lda 1 2 7) (fun c _ => decide (c.t.landed + 32 * c.lanes.length = 4096)) = true ∧
    met (asFw (lab 0)) (.lda 0 2 7) (fun c _ => c.t.fw) = true ∧
    met (lab 0x10) (.lda 7 2 7) (fun c _ => decide (c.t.fw = false ∧ c.t.tags.get? 7 = none ∧ c.active = 0 ∧ c.t.landed = 0)) = true ∧
    met (labAt 0) (.lda 0 2 1) (fun c s =>
      let words := (c.addrs 2 0).flatMap fun a => (List.range 2).map fun i => (8 * a.1 + i, a.2 + 4 * i)
      let r := c.translateLanes false words s
      decide ((c.addrs 2 0).all (fun a => decide (a.2 % 4 = 0 ∧ a.2 + 8 ≤ 2 ^ 56)) = true ∧ r.2.1 = []) &&
      (c.watchHit (words.map fun w => (w.1 / 8, w.2)) 4 true false).isNone && (r.1.all fun a => (r.2.2.linkAt a.pa).isNone && !c.badRead r.2.2 a 4) &&
      (c.meetsFail r.2.2 r.1 4 false).isNone && match c.ldaWords r.1 r.2.2 [] Clock.zero with
      | some p => (p.1.team? c.tid).isSome
      | none => false) = true := by decide +kernel
theorem test_witness_ParameterWindowsAndLandings_commit : met (lab 0) (.commit 6 0) (fun c _ => decide (c.t.tags.get? 0 = none)) = true ∧
    met (withTag ⟨false, 2, 1, [], []⟩ (lab 0)) (.commit 6 0) (fun c _ => decide (c.t.tags.get? 0 = some ⟨false, 2, 1, [], []⟩)) = true ∧
    met (withTag ⟨true, 2, 1, [], []⟩ (withTeam (fun t => { t with vcount := 7 }) (lab 0))) (.commit 6 0) (fun c _ => decide (c.t.vcount ≤ 6 + 2 - 1)) = true ∧
    [([], false), ([1], true), ([9], false)].all (fun (p : List Nat × Bool) => met (withTag ⟨true, 2, 1, [], p.1⟩ (withTeam (fun t => { t with vcount := 8 }) (lab 0)))
      (.commit 6 0) fun c _ => decide (6 + 2 - 1 < c.t.vcount) && (p.1.any fun w => (c.active &&& 1).getLsbD (w / 8)) == p.2) = true := by
  decide +kernel
/-- ATOM and RED, and ATOMR and CAS, without and with their release and acquire halves, on two lanes. -/
theorem test_witness_AtomicsAndBanks :
    [(0 : BitVec 1), 1].all (fun b => [Instr.atom 6 2 b b 1, .red 6 2 1, .atomr 6 2 b b 0, .cas 6 2 b b].all fun i =>
      metAccess (labAt 0) i (fun c => c.addrs 2 0) 4 true true true true fun c t ok =>
        decide (c.inRegion = false ∧ c.active ≠ 0 ∧ c.once 6 2 = false ∧ c.rest? = none) &&
        releases c t (widerScope c.t.pscope (ok.map fun a => (a.pa, a.scope))) fun t1 =>
          let shown := ok.foldl (fun s a => s.publish (lineOf a.pa) false) (c.surrender t1 ok 4)
          acquires c shown (shown.stampsOf ok) && decide ((c.sendBank 1 c.T [ok.map fun a => (a, 1)] (c.surrender t1 ok 4) []).1.length = 1) &&
          match ((ok.foldl (c.askBank 1 c.T (fun _ => 1) fun _ => 0) (c.setRest (c.sent (shown.applyDie c.die) ok []) ⟨[], [], ok.length, [], Clock.zero, 0, c.lockable⟩)).team?
              c.tid).bind fun u => u.rests.get? c.pid with
          | some k => decide (k.left = 0 ∧ k.bad = 0 ∧ k.olds.length = 2) && ok.all fun a => !t.badAt a.pa 4
          | none => false) = true := by decide +kernel
/-- In a region; with no lane; on a bad burst; and one that has begun, with a lane still held, with none, and with one that could not be read. -/
theorem test_witness_AtomicsAndBanks_others :
    [Instr.atom 6 2 0 1 1, .red 6 2 1, .atomr 6 2 1 1 0, .cas 6 2 1 1].all (fun i =>
      metAccess (labGuarded 0) i (fun c => c.addrs 2 0) 4 true true true true (fun c t ok => c.inRegion && acquires c t Clock.zero &&
        match c.regionAtomic c.T 1 (fun _ => 1) (fun _ => 0) ok t [] Clock.zero with | .inl r => decide (r.2.1.length = 2) | .inr _ => false) &&
      met (lab 0x10) i (fun c _ => decide (c.active = 0 ∧ c.rest? = none)) &&
      metAccess { labAt 0 with mgmt := { Mgmt.reset with badBursts := [0x1000] } } i (fun c => c.addrs 2 0) 4 true true true true (fun c t ok =>
        decide (c.active ≠ 0 ∧ c.inRegion = false) && ok.any fun a => t.badAt a.pa 4) &&
      [(0, (0 : LaneMask)), (1, 0), (0, 1)].all fun (p : Nat × LaneMask) => met (withTeam (fun t => { t with rests := [(0, ⟨[], [], p.1, [(0, 5)], Clock.zero, p.2, []⟩)] }) (labAt 0)) i
        fun c s => (match c.rest? with | some k => decide (k.left = p.1 ∧ k.bad = p.2) | none => false) && acquires c s Clock.zero) = true := by decide +kernel
theorem test_witness_FencesAndArrivalWords_fence :
    pass (lab 0) [.pref 2 0x80, .pref 2 0x7F] = true ∧
    met (lab 0) (.fence 1) (fun c s => acquires c (s.drainOwn c.core none) c.t.loaded) = true ∧
    met (lab 0) (.fence 2) (fun c s => releases c (s.flushWrites c.tid) c.t.pscope fun _ => true) = true ∧
    met (lab 0) (.fence 3) (fun c s => c.inRegion = false &&
      let s1 := (List.range Config.dies).foldl State.applyDie (s.flushWrites c.tid)
      !s1.unapplied c.die && !s1.writesOpen c.tid && releases c s1 c.t.pscope fun t => acquires c (t.drainOwn c.core none) c.t.loaded &&
        (match (t.drainOwn c.core none).team? c.tid with | some u => !(t.drainOwn c.core none).atomicsOpen u | none => false)) = true := by decide +kernel
/-- The word's offset in s2, the generation in s3: misaligned, the last word of the range, beyond it; generations at the limits. -/
def labWord (off g : Word) : State :=
  { withTeam (fun t => { t with s := [(2, off), (3, g)] }) (lab 0) with
    cores := [(0, { Core.reset with lstore := (List.range 8).map fun k => (4088 + k, 0) })] }
theorem test_witness_FencesAndArrivalWords_word :
    [Instr.arma 6 0x82 0x83, .waita 0x82 0x83, .polla 1 0x82 0x83].all (fun i =>
      met (labWord 4 0) i (fun c _ => decide (c.active ≠ 0 ∧ (c.ub 0x82).toNat % 8 ≠ 0)) &&
      met (labWord 4096 0) i (fun c _ => decide ((c.ub 0x82).toNat % 8 = 0 ∧ c.localRange.2 < (c.ub 0x82).toNat + 8)) &&
      [(0 : Word), 0x101].all fun g => met (labWord 4088 g) i fun c s => decide ((c.ub 0x82).toNat % 8 = 0 ∧ (c.ub 0x82).toNat + 8 ≤ c.localRange.2) &&
        decide ((s.arrival c.core (c.localRange.1 + 4088)).gen = (c.uc 0x83).toNat % 256) == decide (g = 0) &&
        acquires c s ((s.core c.core).astamps.getD (c.localRange.1 + 4088) Clock.zero)) = true ∧
    [(0xFFFFFF : Word), 0x1000000].all (fun g => met (labWord 4088 g) (.arma 6 0x82 0x83) fun c _ => decide (c.uc 0x83 = g)) = true := by decide +kernel
/-- One lane misaligned and one beyond bit 55. -/
theorem test_witness_MisalignedAccessesTrap :
    (let s := withTeam (fun t => { t with v := [(2048, 0x1001), (2049, 0x1000), (3073, 0x01000000)], s := [(2, 0x1002)] }) (labAt 0)
     let u := withTeam (fun t => { t with v := [(2048, 0x1000), (3073, 0x01000000)], s := [(3, 0x01000000)] }) (labAt 0)
     [Instr.ld 6 2 3 0, .st 6 2 3 0, .ldq 6 2 3 0, .str 6 2 3 0].all (fun i =>
       met s i (fun c _ => (c.addrs 2 0).any fun a => a.2 % 4 ≠ 0) &&
       met u i fun c _ => ((c.addrs 2 0).all fun a => a.2 % 4 = 0) && (c.addrs 2 0).any fun a => a.2 ≥ 2 ^ 56) &&
     [Instr.ldu 6 0x82 3 0, .stu 0x86 0x82 3 0].all fun i =>
       met s i (fun c _ => ((c.addrs 0x82 0).take 1).any fun a => a.2 % 4 ≠ 0) &&
       met u i fun c _ => (((c.addrs 0x82 0).take 1).all fun a => a.2 % 4 = 0) && ((c.addrs 0x82 0).take 1).any fun a => a.2 ≥ 2 ^ 56) = true := by
  decide +kernel
/-- Mode 0x10 selects no lane. -/
theorem test_witness_NoActiveLaneChangesNothing : ([Instr.qcfg 2 0x82 0x83, .qfree 0 0, .qdrain 0x82 0x1F, .qclose 0 15, .qlink 0x82 1, .talloc 2 0, .tload 2 3 4,
    .tstore 2 3 4, .ttask 2 3 4, .tget 2 3 4, .tdef 2 3 0x84, .tkill 2, .twait 2, .thint 2 0 0, .tdesc 4 63, .tdescr 4 0, .card 2, .cardw 4 2, .garm 2 0,
    .gdone 2, .subm 2 0x84, .sigw 4 2 1, .siga 4 2 0 0, .adrop 0x82, .atest 1 0x82, .arevk 0x82, .csrw 0x82 0, .csrs 0x82 0, .csrc 0x82 0,
    .xtrig, .tron 0x82, .expd 2].all fun i => actsOnce i && met (lab 0x10) i fun c _ => decide (c.active = 0)) = true ∧
    ([Instr.fwcall 0x82 0, .fwcallReg 2 0x83, .tinv 2 0x83, .svcr 2 0x83, .ctxs 2 0x83, .ctxl 2 0x83, .ticketClaim 4 0, .ticketDone 4 0].all fun i =>
      actsOnce i && met (asFw (lab 0x10)) i fun c _ => decide (c.active = 0)) = true := by decide +kernel
/-- The instructions of chapter 13 with a value destination, to a register and to a queue, with no lane. -/
theorem test_witness_NoActiveLaneChangesNothing_values :
    ([Instr.qcnt 6 0x82 0x1F, .tstat 6 2, .areg 6 16 0, .csrr 6 0].all fun i => met (lab 0x10) i fun c _ => decide (c.active = 0 ∧ c.p.prog = 0)) = true ∧
    ([Instr.qcnt 0xA0 0x82 0x1F, .tstat 0xA0 2, .areg 0xA0 16 0, .csrr 0xA0 0].all fun i => met (withQueue (queue3 0) (lab 0x10)) i fun c _ =>
      decide (c.active = 0 ∧ c.p.prog = 0 ∧ Code.isQ 0xA0 = true)) = true := by decide +kernel
/-- An empty queue, a full one and one whose head is its last entry; entries of four bytes. -/
theorem test_witness_QueueEntriesMoveInOrder_ring : [queue3 0, queue3 4, { queue3 2 with head := 3, tail := 1 }].all (fun q =>
    decide (((withQueue q (lab 0)).clu 0).queues.get? 3 = some q ∧ (natLe 4 7).length = entryBytes q.kind ∧ 0 < q.depth)) = true ∧
    (queue3 0).head = (queue3 0).tail := by decide +kernel
/-- QTRY with the entry it needs, without it, and without it on a closed queue, under both senses, and QTRY of an L32 queue to one place;
QOFFR on a full queue, with one place left, on a closed one, and with a value that is no name; a port without a queue. -/
theorem test_witness_QueueEntriesMoveInOrder_try :
    [(0 : BitVec 1), 1].all (fun e => [queue3 1, queue3 0, { queue3 0 with closed := true }].all fun q =>
      met (withQueue q (lab 0)) (.qtry 6 1 e 0) fun c _ => decide (c.queue 0 = some (3, q) ∧ q.kind ≠ kindL32 ∧ occEntries q c.words = 1 ∧ c.s.queueLocked c.clu 3 = false)) = true ∧
    met (withQueue ⟨kindL32, false, 0, 0, 4, 0, 0, 0, false, 1⟩ (lab 0)) (.qtry 0x86 1 0 0) (fun _ _ => Code.uniformDst 0x86) = true ∧
    [Instr.qtry 6 1 0 1, .qoffr 1 0x82 1].all (fun i => met (withQueue (queue3 0) (lab 0)) i fun c _ => decide (c.queue 1 = none)) = true ∧
    met (withQueue { queue3 0 with closed := true } (lab 0)) (.qoffr 1 0x82 0) (fun c s => s.queueLocked c.clu 3 = false) = true ∧
    met (withQueue (queue3 0) (lab 0)) (.qoffr 1 2 0) (fun _ _ => Code.perLane 2) = true ∧
    met (withQueue { queue3 0 with kind := kindTname } (withTeam (fun t => { t with s := [(2, 0x10000)] }) (lab 0))) (.qoffr 1 0x82 0) (fun c _ =>
      decide (2 ^ 16 ≤ ((c.b false 0x82 c.lane0).setWidth 32 : Word).toNat)) = true ∧
    [queue3 4, queue3 3].all (fun q => met (withQueue q (lab 0)) (.qoffr 1 0x82 0) fun c s =>
      decide (c.queue 0 = some (3, q) ∧ Code.perLane 0x82 = false ∧ q.closed = false ∧ occEntries q c.words = 1 ∧ s.queueLocked c.clu 3 = false) &&
      (decide (q.count = 4) || match c.push s 0 fun l => c.b false 0x82 l with | .done _ => true | _ => false)) = true := by decide +kernel
/-- Operands of QCFG: offset in s2, configuration in s3. -/
def labCfg (off cfg : Word) : State := withTeam (fun t => { t with s := [(2, off), (3, cfg)] }) (lab 0)
theorem test_witness_QueueConfigurationAndTransitions_qcfg :
    [((0 : Word), (0 : Word)), (4, 4), (0, 0x3004), (0, 0x80004), (4088, 4), (0, 0x400F), (0, 0x8004)].all (fun p =>
      met (labCfg p.1 p.2) (.qcfg 5 0x82 0x83) fun c s => decide (c.active ≠ 0 ∧ s.group? c.clu c.t.group = some group0)) = true ∧
    met (labCfg 4080 4) (.qcfg 5 0x82 0x83) (fun c s => decide ((s.clu c.clu).queues.get? 0 = none ∧ group0.teams[0]? = some 0 ∧
      (s.team? 0).isSome = true)) = true ∧
    met ((labCfg 4080 4).modClu 0 fun k => { k with queues := (List.range 64).map fun n => (n, queue3 0) }) (.qcfg 5 0x82 0x83) (fun c s =>
      (List.range 64).all fun n => ((s.clu c.clu).queues.get? n).isSome) = true := by decide +kernel
/-- A queue named by a port and by its number; QLINK with each kind of operand, and of a FREE queue; selectors of a number past 63, of another
group's queue, of a FREE one and of a port without a queue. -/
theorem test_witness_QueueConfigurationAndTransitions_selectors :
    [((0 : Code), (0 : Code)), (0x82, 0x1F)].all (fun p => [Instr.qfree p.1 p.2, .qdrain p.1 p.2, .qclose p.1 p.2, .qcnt 6 p.1 p.2].all fun i =>
      met (withQueue (queue3 2) (labCfg 3 0)) i fun c s => decide (c.active ≠ 0 ∧ c.selector s p.1 p.2 = .inl 3 ∧ (s.clu c.clu).queues.get? 3 = some (queue3 2))) = true ∧
    [(0x80000000 : Word), 3, 64].all (fun w => met (withQueue (queue3 2) (labCfg w 0)) (.qlink 0x82 15) fun c s => decide (c.ub 0x82 = w ∧
      ((s.clu c.clu).queues.get? 3).map (·.owner) = some c.t.group)) = true ∧
    met (withQueue { queue3 2 with owner := 2 } (labCfg 3 0)) (.qlink 0x82 15) (fun c s => ((s.clu c.clu).queues.get? 3).map (·.owner) == some 2) = true ∧
    met (labCfg 5 0) (.qlink 0x82 15) (fun c s => ((s.clu c.clu).queues.get? 5).isNone) = true ∧
    [Instr.qfree 0x82 0x1F, .qdrain 0x82 0x1F, .qclose 0x82 0x1F, .qcnt 6 0x82 0x1F].all (fun i =>
      met (labCfg 64 0) i (fun c s => match c.selector s 0x82 0x1F with | .inr r => r.1 == Cause.queueConfig | _ => false) &&
      met (withQueue { queue3 2 with owner := 2 } (labCfg 3 0)) i (fun c s => match c.selector s 0x82 0x1F with | .inr r => r.1 == Cause.queueConfig | _ => false) &&
      met (labCfg 5 0) i fun c s => match c.selector s 0x82 0x1F with | .inl n => n == 5 && ((s.clu c.clu).queues.get? n).isNone | _ => false) = true ∧
    [Instr.qfree 0 7, .qdrain 0 7, .qclose 0 7, .qcnt 6 0 7].all (fun i => met (labCfg 5 0) i fun c s =>
      match c.selector s 0 7 with | .inr r => r.1 == Cause.queueUnbound | _ => false) = true := by decide +kernel
/-- A handle names a live name of the team's group. -/
def live (c : Ctx) (s : State) (w : Word) (P : Nat → Name → Bool) : Bool :=
  let n := s.name c.clu (handleName w.toNat)
  decide (w.toNat < 2 ^ 16 ∧ n.st ≠ .free ∧ n.owner = c.t.group ∧ n.gen = handleGen w.toNat) && P (handleName w.toNat) n
theorem live_spec {c : Ctx} {s : State} {w : Word} {P : Nat → Name → Bool} (h : live c s w P = true) :
    ∃ name n, LiveName c s w name n ∧ P name n = true := by
  simp only [live, Bool.and_eq_true, decide_eq_true_eq] at h
  exact ⟨_, _, ⟨h.1.1, rfl, rfl, h.1.2.1, h.1.2.2.1, h.1.2.2.2⟩, h.2⟩
/-- A footprint that passes (R355). -/
def footprint (c : Ctx) (s : State) (va : Nat) (d : Desc) (write : Bool) (P : State → Bool) : Bool :=
  decide (va % d.align = 0 ∧ (d.runs.all fun r => va + r.1 + r.2 ≤ 2 ^ 56) = true ∧ va ≤ 2 ^ 56) &&
  (match s.enginePages c.clu c.t.ctx write (pagesOf va d.runs) with | (none, t) => P t | _ => false)
theorem footprint_spec {c : Ctx} {s : State} {va : Nat} {d : Desc} {write : Bool} {P : State → Bool} (h : footprint c s va d write P = true) :
    ∃ t, FootprintOk c s va d write t ∧ P t = true := by
  simp only [footprint, Bool.and_eq_true, decide_eq_true_eq, List.all_eq_true] at h
  obtain ⟨⟨h1, h2, h3⟩, h4⟩ := h
  split at h4
  · exact ⟨_, ⟨h1, h2, h3, by assumption⟩, h4⟩
  · cases h4
/-- Names 1 (PENDING), 2 and 4 (DEFINED) and 3 (DYING) of group 1, each a single FP32 element; descriptor 0 is one of that shape;
s8 to s11 hold the four handles, s12 two of them, s13 a control word of K = 32, s14 descriptor 0 and s17:s16 an address. -/
def aName (st : NameSt) : Name := { Name.fresh with st := st, owner := 1, shape := ⟨0, false, 1, 1, 127⟩, value := natLe 4 0 }
def desc0 : BitVec 128 := BitVec.ofNat 128 (0x10 + 127 * 2 ^ 64)
def labTiles : State :=
  (withTeam (fun t => { t with s := [(8, 1), (9, 2), (10, 3), (11, 4), (12, 0x00040002), (13, 0x4020), (16, 0x2000)] }) (labMem 0)).modClu 0 fun k =>
    { k with names := [(1, aName .pending), (2, aName .defined), (3, aName .dying), (4, aName .defined)], tdesc := [(0, desc0)] }
/-- The die's slices have room for a value, whichever tier the device then chooses. -/
def roomy (s : State) (clu owner : Nat) (h : Shape) : Bool :=
  (s.group? clu owner).isSome && decide (s.tileL2 (dieOfClu clu) + h.bytes ≤ Config.slicesPerDie * Config.sliceLines * 128)
theorem roomy_spec {s : State} {clu owner : Nat} {h : Shape} (hr : roomy s clu owner h = true) : s.tileRoom clu owner h = true := by
  simp only [roomy, Bool.and_eq_true, decide_eq_true_eq, Option.isSome_iff_exists] at hr
  obtain ⟨⟨g, hg⟩, hl⟩ := hr
  simp [State.tileRoom, State.tilePlaces, hg, hl]
def withS (r : Nat) (w : Word) (s : State) : State := withTeam (fun t => { t with s := t.s.put r w }) s
/-- Path 0 of the team is a reader that a definition has woken. -/
def woken (s : State) : State := withPath (fun p => { p with prog := 1 }) s
def dead (c : Ctx) (s : State) (w : Word) : Bool :=
  decide (w.toNat < 2 ^ 16) && !(live c s w fun _ _ => true)
/-- Names left: within the budget, past a budget of 11, six free on the cluster, and another path in turn before this one. -/
theorem test_witness_TileNamesAndDescriptors :
    met labTiles (.talloc 2 7) (fun c s => decide (c.active ≠ 0 ∧ s.namesOf c.clu c.t.group + 8 ≤ group0.tiles ∧ s.group? c.clu c.t.group = some group0 ∧
      (s.clu c.clu).tallocs = [] ∧ 8 ≤ (s.clu c.clu).freeCount)) = true ∧
    met (labTiles.modGroup 0 1 fun g => { g with tiles := 11 }) (.talloc 2 7) (fun c s => decide (11 < s.namesOf c.clu c.t.group + 8)) = true ∧
    met (labTiles.modClu 0 fun k => { k with fresh := 4090 }) (.talloc 2 7) (fun c s => decide ((s.clu c.clu).freeCount = 6)) = true ∧
    met ((labTiles.setTeam 7 (team0 0)).modClu 0 fun k => { k with tallocs := [(7, 0), (0, 0)] }) (.talloc 2 7) (fun c s =>
      decide (((s.clu c.clu).tallocs.takeWhile (· ≠ (c.tid, c.pid))) = [(7, 0)] ∧ (s.team? 7).map (·.place) = some .resident)) = true ∧
    [Instr.tdesc 4 63, .tdescr 28 0].all (fun i => met labTiles i fun c _ => decide (c.active ≠ 0)) = true ∧
    met labTiles (.tstat 6 10) (fun c s => live c s (c.s1 10) fun _ _ => true) = true ∧
    met labTiles (.thint 9 11 4) (fun c s => live c s (c.s1 9) fun _ n => decide (n.st = .defined)) = true ∧
    met labTiles (.thint 8 11 4) (fun c s => live c s (c.s1 8) fun _ n => decide (n.st ≠ .defined)) = true ∧
    [Instr.tstat 6 10, .thint 10 11 4].all (fun i => met (withS 10 0x10000 labTiles) i fun c _ => decide (2 ^ 16 ≤ (c.s1 10).toNat)) = true := by decide +kernel
/-- The handle checks of the instructions on names: a register past 16 bits, a handle of a FREE name, and a live one that is not to be
defined again; a woken reader. -/
theorem test_witness_handles :
    ([Instr.tload 9 14 16, .tdef 9 14 0x92, .tget 2 9 14, .tstore 9 14 16, .tkill 9, .twait 9].all fun i =>
      met (withS 9 0x10000 labTiles) i (fun c _ => decide (2 ^ 16 ≤ (c.s1 9).toNat)) && met (withS 9 5 labTiles) i (fun c s => dead c s (c.s1 9)) &&
      met labTiles i fun c s => live c s (c.s1 9) fun _ n => decide (n.st ≠ .pending)) = true ∧
    ([Instr.tget 2 9 14, .tstore 9 14 16, .twait 9].all fun i => met (woken labTiles) i fun c s =>
      decide (c.p.prog = 1) && match s.tileData c.clu 2 (s.name c.clu 2) with | .ok _ => true | .bad .. => false) = true := by decide +kernel
/-- A footprint that passes, with its writes published and room in a tier; reserved bits; a descriptor that is not valid; a conversion to
another element format, to another shape, and by a target that is not valid; a misaligned footprint; writes that are open; no room. -/
theorem test_witness_TileDefinitionsAndTasks_tload :
    met labTiles (.tload 8 14 16) (fun c s => decide ((c.s1 14).toNat < 64) &&
      (let md := Desc.ofNat (s.descriptor c.clu c.t.ctx 0)
       md.ok && (live c s (c.s1 8) fun _ n => decide (n.st = .pending ∧ n.defp = false)) &&
       footprint c s (c.s2 16).toNat md false fun t => !(t.flushWrites c.tid).writesOpen c.tid &&
         roomy (t.flushWrites c.tid) c.clu c.t.group md.shape)) = true ∧
    [(0x40 : Word), 0x8000].all (fun w => met (withS 14 w labTiles) (.tload 8 14 16) fun c _ =>
      !decide ((c.s1 14).toNat / 2 ^ 6 % 4 = 0 ∧ (c.s1 14).toNat < 2 ^ 15)) = true ∧
    met (withS 14 1 labTiles) (.tload 8 14 16) (fun c s => (Desc.ofNat (s.descriptor c.clu c.t.ctx 1)).ok = false) = true ∧
    met (withS 14 0x4000 labTiles) (.tload 8 14 16) (fun c s => let md := Desc.ofNat (s.descriptor c.clu c.t.ctx 0); md.ok && (md.converted md).ok) = true ∧
    met (withS 14 0x4100 labTiles) (.tload 8 14 16) (fun c s => (Desc.ofNat (s.descriptor c.clu c.t.ctx 1)).ok = false) = true ∧
    met (withS 14 0x4200 (labTiles.modClu 0 fun k => { k with tdesc := k.tdesc.put 2 (BitVec.ofNat 128 (0x10 + 2 ^ 16 + 127 * 2 ^ 64)) })) (.tload 8 14 16) (fun c s =>
      let td := Desc.ofNat (s.descriptor c.clu c.t.ctx 2)
      td.ok && !decide (td.rows = 1 ∧ td.cols = 1)) = true ∧
    met (withS 16 0x2001 labTiles) (.tload 8 14 16) (fun c s => decide ((c.s2 16).toNat % (Desc.ofNat (s.descriptor c.clu c.t.ctx 0)).align ≠ 0)) = true ∧
    met (withTeam (fun t => { t with writes := [5] }) { labTiles with openWrites := [(5, ⟨0, false⟩)] }) (.tload 8 14 16) (fun c s =>
      (s.flushWrites c.tid).writesOpen c.tid) = true ∧
    [Instr.tload 8 14 16, .tdef 8 14 0x92].all (fun i => met (labTiles.modClu 0 fun k => { k with groups := [] }) i fun c s =>
      s.tileRoom c.clu c.t.group ⟨0, false, 1, 1, 127⟩ = false) = true := by decide +kernel
/-- An image in range, misaligned, and past the range; a descriptor number past 63, and one that is not valid. -/
theorem test_witness_TileDefinitionsAndTasks_tdef :
    [(0 : Word), 4092, 4096].all (fun w => met (withS 18 w labTiles) (.tdef 8 14 0x92) fun c s => decide ((c.uc 0x92) = w ∧ c.localRange = (0, 4096)) &&
      (let md : Desc := { Desc.ofNat (s.descriptor c.clu c.t.ctx 0) with stride := 0 }
       md.ok && decide (md.shape.bytes = 4) && roomy s c.clu c.t.group md.shape) && decide ((s.core c.core).badLocal 0 4 = none)) = true ∧
    met (withS 14 64 labTiles) (.tdef 8 14 0x92) (fun c _ => decide (64 ≤ (c.s1 14).toNat)) = true ∧
    met (withS 14 1 labTiles) (.tdef 8 14 0x92) (fun c s => ({ Desc.ofNat (s.descriptor c.clu c.t.ctx 1) with stride := 0 } : Desc).ok = false) = true := by
  decide +kernel
/-- A good task; K = 2048, the largest; K = 0, 33 and 2080 and a reserved bit; a destination among the operands; an operand that has failed
or is dying; a full task queue. -/
theorem test_witness_TileDefinitionsAndTasks_ttask :
    [(0x4020 : Word), 0x4800].all (fun w => met (withS 13 w labTiles) (.ttask 8 12 13) fun c s =>
      let k := (c.s1 13).toNat % 2 ^ 12
      decide (k % 32 = 0 ∧ 32 ≤ k ∧ k ≤ 2048 ∧ (c.s1 13).toNat < 2 ^ 15 ∧ (c.s1 13).getLsbD 14 = true ∧ (s.taskQueue c.clu).length < 256) &&
      live c s (c.s1 8) (fun a n => decide (n.st = .pending ∧ n.defp = false ∧ a = 1)) && live c s 2 (fun _ n => decide (n.st = .defined)) &&
      live c s 4 fun _ n => decide (n.st = .defined)) = true ∧
    [(0x4000 : Word), 0x4021, 0x4820, 0xC020].all (fun w => met (withS 13 w labTiles) (.ttask 8 12 13) fun c _ =>
      let k := (c.s1 13).toNat % 2 ^ 12
      !decide (k % 32 = 0 ∧ 32 ≤ k ∧ k ≤ 2048 ∧ (c.s1 13).toNat < 2 ^ 15)) = true ∧
    met (withS 12 0x40001 labTiles) (.ttask 8 12 13) (fun c s =>
      live c s (c.s1 8) (fun a n => decide (n.st = .pending ∧ n.defp = false ∧ n.fcause = 0 ∧ a = 1)) &&
      live c s 1 (fun a _ => decide (a = 1)) && live c s 4 fun _ n => decide (n.st = .defined)) = true ∧
    met (withS 12 0x40003 labTiles) (.ttask 8 12 13) (fun c s => live c s 3 (fun _ n => decide (n.st = .dying)) && live c s 4 fun _ _ => true) = true ∧
    met (withS 8 0x40001 (withS 13 0x20 labTiles)) (.ttask 8 12 13) (fun c s => decide ((c.s1 13).getLsbD 14 = false) && live c s 4 fun _ n => decide (n.st = .defined)) = true ∧
    (let k : Task := ⟨0, 0, 0, 0, 0, 0, 0, 0, 0, 0, 0, 0, 0, .waiting, 0, 0, false, false, [], []⟩
     met { labTiles with tasks := (List.range 256).map fun n => (n, k) } (.ttask 8 12 13) fun c s => decide (256 ≤ (s.taskQueue c.clu).length)) = true := by
  decide +kernel
/-- TGET's reserved bits and an FP64 value in an odd register, an even one and past the count; TSTORE's descriptor number, a descriptor that is not valid,
a misaligned footprint and another shape; a read that a failed definition, a dying name or the team's own region answers, and a value with an error. -/
theorem test_witness_TileReads_checks :
    (let fp64 := labTiles.setName 0 2 { aName .defined with shape := ⟨1, false, 1, 1, 127⟩, value := natLe 8 0 }
     [(0x1000 : Word), 0x10000000].all (fun w => met (withS 14 w labTiles) (.tget 2 9 14) fun c _ =>
       !decide ((c.s1 14).toNat / 2 ^ 12 % 16 = 0 ∧ (c.s1 14).toNat < 2 ^ 28)) &&
     [(3 : BitVec 7), 2].all (fun v => met fp64 (.tget v 9 14) fun c s => live c s (c.s1 9) fun _ n => decide (n.st = .defined ∧ n.shape.fmt = 1)) &&
     met (withTeam (fun t => { t with vcount := 3 }) fp64) (.tget 2 9 14) fun c _ => decide (c.t.vcount ≤ 2 + 1)) = true ∧
    met (withS 14 64 labTiles) (.tstore 9 14 16) (fun c _ => decide (64 ≤ (c.s1 14).toNat)) = true ∧
    met (withS 14 1 labTiles) (.tstore 9 14 16) (fun c s => (Desc.ofNat (s.descriptor c.clu c.t.ctx 1)).ok = false) = true ∧
    met (withS 16 0x2002 labTiles) (.tstore 9 14 16) (fun c s => decide ((c.s2 16).toNat % (Desc.ofNat (s.descriptor c.clu c.t.ctx 0)).align ≠ 0)) = true ∧
    met (labTiles.setName 0 2 { aName .defined with shape := ⟨0, false, 2, 1, 127⟩, value := natLe 8 0 }) (.tstore 9 14 16) (fun c s =>
      live c s (c.s1 9) fun _ n => decide (n.shape.rows = 2)) = true ∧
    ([{ aName .pending with fcause := Cause.tileSpace }, aName .dying, { aName .pending with defn := some (.held ⟨0, false, 1, 1, 127⟩ (natLe 4 0)), definer := 0 }].all fun (n : Name) =>
      met ((withTeam (fun t => { t with guard := [⟨0, 0, 0, [], 0, 0, 0, []⟩] }) labTiles).setName 0 2 n) (.twait 9) fun c s => live c s (c.s1 9) fun _ m => decide (m = n ∧ c.inRegion = true)) = true ∧
    (match ((labTiles.setName 0 2 { aName .defined with tier := 2 }).modCore 0 fun k => { k with garnet := [⟨2, ⟨0, false, 1, 1, 127⟩, natLe 4 0, true⟩] }).tileData 0 2
        { aName .defined with tier := 2 } with | .bad cause _ => cause == Cause.sramParityTile | .ok _ => false) = true := by decide +kernel
theorem test_witness_TileReads :
    [(8 : BitVec 5), 9, 10].all (fun x => met labTiles (.twait x) fun c s => decide (c.active ≠ 0 ∧ c.p.prog ≠ 1) && live c s (c.s1 x) fun _ n =>
      decide (n.st = .defined) == decide (x = 9) && decide (n.st = .pending ∧ n.fcause = 0 ∧ n.defn = none) == decide (x = 8)) = true ∧
    met labTiles (.tget 2 9 14) (fun c s => live c s (c.s1 9) (fun _ n => decide (n.st = .defined ∧ n.shape.fmt ≠ 1)) &&
      decide ((c.s1 14).toNat / 2 ^ 12 % 16 = 0 ∧ (c.s1 14).toNat / 2 ^ 28 = 0)) = true ∧
    met labTiles (.tstore 9 14 16) (fun c s => live c s (c.s1 9) (fun _ n => decide (n.st = .defined ∧ n.shape.rows = 1 ∧ n.shape.cols = 1)) &&
      footprint c s (c.s2 16).toNat (Desc.ofNat (s.descriptor c.clu c.t.ctx 0)) true fun _ => true) = true ∧
    [(8 : BitVec 5), 9].all (fun x => met labTiles (.tkill x) fun c s => live c s (c.s1 x) fun a n => decide (n.st ≠ .dying) && decide (s.tileReaders c.clu a = [])) = true := by
  decide +kernel
theorem test_witness_Branches_words : [(0 : BitVec 16), 0x10].all (fun m => [Instr.bra 0 0x8000, .bran 1 0x7FFF, .brx 0 4, .call 0x800000, .callx 6 4, .ret 4, .loop 4 0].all
    fun i => met (lab m) i fun c _ => decide (c.active = 0) == decide (m = 0x10)) = true := by decide +kernel
/-- A path with no open record, with seven and with eight; some, all and no lanes taking; targets at and past the limits. -/
theorem test_witness_Branches_paths :
    [0, 7, 8].all (fun n => met (withTeam (fun t => { t with recs := (List.range n).map fun k => (k, ⟨0, 0⟩) }) (lab 0)) (.bra 0 0) fun c s => match s.team? c.tid with
      | some u => decide (u.paths.get? c.pid = some c.p ∧ u.recs = c.t.recs ∧ u.place = .resident ∧ c.t.recs.length = n ∧ c.p.win ≠ .trap ∧
          u.paths.get? c.t.freshPath = none ∧ c.p.mask &&& ~~~(1 : LaneMask) ≠ 0 ∧ c.p.mask &&& ~~~c.p.mask = 0)
      | none => false) = true ∧ (2 ^ 56 - 16) % 16 = 0 ∧ 2 ^ 56 - 16 < 2 ^ 56 ∧ 2 ^ 56 % 16 = 0 ∧ (2 ^ 56 + 8) % 16 ≠ 0 := by decide +kernel
/-- A path below one split, alone at its JOIN; and one whose other side is still away. -/
def labSplit (m2 : List (Nat × Path)) : State :=
  withTeam (fun t => { t with recs := [(5, ⟨0, 0⟩)], paths := (0, { Path.start 0x10000 1 0 with chain := [5] }) :: m2 }) (lab 0)
theorem test_witness_ModesAndPaths_join : met (lab 0) (.join 7) (fun c _ => decide (c.p.chain.reverse[7]? = none)) = true ∧
    [[], [(1, { Path.start 0x20000 2 0 with chain := [5] })]].all (fun l => met (labSplit l) (.join 0) fun c s => decide (c.p.chain.reverse[0]? = some 5) &&
      (let t := c.modPath (c.waitHere { s with seq := s.seq + 1 }) fun p => { p with st := .parked (.join 5), prog := s.seq }
       match (t.joinPaths c.tid (some c.pid)).team? c.tid with
       | some u => (u.recs.get? 5).isSome == !l.isEmpty
       | none => false)) = true := by decide +kernel
theorem test_witness_ModesAndPaths :
    [(0x7B9F : BitVec 16), 0x1A0].all (fun n => met (lab 0) (.mode n) fun _ _ => modeValid n == decide (n = 0x7B9F)) = true ∧
    met (lab 0x10) .exit (fun c _ => decide (c.active = 0)) = true ∧ met (lab 0) .exit (fun c _ => decide (c.active = c.p.mask ∧ c.active ≠ 0)) = true ∧
    met (withTeam (fun t => { t with p := [(1, 3)] }) (lab 1)) .exit (fun c _ => decide (c.active ≠ c.p.mask ∧ c.active ≠ 0)) = true ∧
    met (lab 0) .yield (fun c s => !(s.modPath c.tid c.pid fun p => p).stopPending c.t) = true ∧
    [(0 : Nat), 1].all (fun n => met (withPath (fun p => { p with prog := n }) { lab 0 with cycle := 100 }) (.sleep 0xFFFF) fun c s => decide (c.p.prog = n ∧ c.p.prog ≤ s.ns)) = true ∧
    pass (lab 0) [.sleep 0, .pmark 15] = true ∧ met (lab 0) (.waitf 0x82) (fun c s => decide (c.t.flags s.cycle &&& (c.ub 0x82).extractLsb' 0 12 = 0)) = true ∧
    met (withTeam (fun t => { t with s := [(2, 1)], outst := [⟨0, 0, 0, .atCycle 9⟩] }) (lab 0)) (.waitf 0x82) (fun c s =>
      decide (c.t.flags s.cycle &&& (c.ub 0x82).extractLsb' 0 12 ≠ 0)) = true := by decide +kernel
theorem test_witness_Barriers : met (asFw (lab 0)) (.bar 7) (fun c _ => c.t.fw) = true ∧
    [1, 2].all (fun n => met ((lab 0).modGroup 0 1 fun g => { g with teams := List.range n }) (.bar 7) fun c s => decide (c.t.fw = false ∧ c.p.prog = 0 ∧ c.t.arrived.getLsbD 7 = false ∧
      (s.group? c.clu c.t.group).isSome = true) && releases c s c.t.pscope fun _ => true) = true ∧ pass (lab 0) [.bara 0, .barw 0] = true ∧
    [Instr.bar 7, .bara 7, .barw 7].all (fun i => met (withTeam (fun t => { t with arrived := 0x80 }) (lab 0)) i fun c s =>
      decide (c.t.fw = false ∧ c.p.prog = 0 ∧ c.t.arrived.getLsbD 7 = true) && (s.group? c.clu c.t.group).isSome) = true ∧
    [Instr.bar 7, .barw 7].all (fun i => [1, 2].all fun n => met (withPath (fun p => { p with prog := n }) (lab 0)) i fun c s => decide (c.p.prog = n) &&
      match s.group? c.clu c.t.group with | some g => decide (g.gens.getD 7 0 = n - 1) == decide (n = 1) | none => false) = true := by decide +kernel
theorem test_witness_BlocksRecordsAndCalls_blocks :
    [false, true].all (fun f => met ((if f then asFw else id) (lab 0)) (.give 15) fun c _ => c.t.fw == f) = true ∧
    [15, 16].all (fun n => met (withTeam (fun t => { t with vcount := n }) (lab 0)) (.give 1) fun c _ => decide (c.t.vcount < 8 * 1 + 8) == decide (n = 15)) = true ∧
    met (lab 0) (.give 15) (fun c _ => decide (c.t.fw = false ∧ 8 * 15 + 8 ≤ c.t.vcount ∧ c.t.outst = [])) = true ∧
    met (lab 0) (.claim 1) (fun c _ => decide (128 < c.t.vcount + 8 * 1)) = true ∧
    [7, 8].all (fun n => met ((withTeam (fun t => { t with vcount := 64 }) (lab 0)).modGroup 0 1 fun g => { g with blocks := [(0, n)] }) (.claim 8) fun c s =>
      decide (c.t.fw = false ∧ c.t.vcount + 8 * 8 ≤ 128) && match s.group? c.clu c.t.group with
        | some g => decide (s.claimsOn g c.core = [] ∧ g.blocks.getD c.core 0 = n ∧ 8 * (c.t.lanes / 32) = 8 ∧ c.p.st ≠ .parked .claim)
        | none => false) = true ∧
    [7, 8].all (fun n => met (withPath (fun p => { p with st := .parked .claim }) ((withTeam (fun t => { t with vcount := 64 }) (lab 0)).modGroup 0 1 fun g =>
        { g with blocks := [(0, n)], claims := [(0, 0, 8)] })) (.claim 8) fun c s => decide (c.p.st = .parked .claim) && match s.group? c.clu c.t.group with
        | some g => decide ((s.claimsOn g c.core).head? = some (c.tid, c.pid, 8) ∧ g.blocks.getD c.core 0 = n)
        | none => false) = true := by decide +kernel
/-- A pool of context 0 at 0x30000 (VALID, ring of 64 at 0x40000, tail as given) and a header before the bundle at 0x10000: one team of 32
lanes, eight v registers, field 0 of the identifiers five bits wide (R168, R170). -/
def withPool (e : Nat) (s : State) : State :=
  (s.hwrite (atAddr 0x30000 (natLe 64 e) ++ [(0xFF98, 5)])).modCtx 0 fun c => { c with entry := BitVec.ofNat 512 (0x20001 + 0x30000 * 2 ^ 160) }
def pool0 (tail : Nat) : Nat := 1 + 0x40000 * 2 ^ 32 + tail * 2 ^ 352
/-- One lane with a record in v2 to v17 that names the bundle. -/
def labSpawn (tail : Nat) (entry : Word) : State :=
  withPool (pool0 tail) (withPath (fun p => { p with mask := 1 }) (withTeam (fun t => { t with v := [(2048, entry)] }) (labMem 0)))
theorem test_witness_BlocksRecordsAndCalls_spawn :
    met (asFw (lab 0)) (.spawn 2) (fun c _ => c.t.fw) = true ∧
    [63, 64].all (fun n => met (labSpawn n 0x10000) (.spawn 2) fun c s => match s.badRecord c.t.ctx (c.lanes.map fun l => (l, c.laneRecord 2 l)) with
      | (none, t) => t.ringsFit c.t.ctx (c.lanes.map fun l => c.laneRecord 2 l) == decide (n = 63)
      | _ => false) = true ∧
    met (labSpawn 0 0x10001) (.spawn 2) (fun c s => match s.badRecord c.t.ctx (c.lanes.map fun l => (l, c.laneRecord 2 l)) with
      | (some l, _) => decide (l = 0)
      | _ => false) = true ∧
    [(0 : BitVec 16), 0x10].all (fun m => met (lab m) (.svc 255) fun c _ => decide (c.active = 0) == decide (m = 0x10)) = true := by decide +kernel
/-- A copy card of four bytes (R192): footprint 0 at 0x6000, read, and footprint 1 at 0x7000, written. -/
def card0 : Nat := 1 + 2 ^ 776 + (0x6000 + 2 ^ 57 + 4 * 2 ^ 64) * 2 ^ 256 + (0x7000 + 2 ^ 56 + 2 ^ 57 + 4 * 2 ^ 64) * 2 ^ 384
/-- That card's block at 0x8000, which s17:s16 names; s18 and s19:s18 are 3; command queue 3 is ACTIVE, of context 0, a ring of 64 at 0x9000. -/
def labBlock (bs : List Byte) : State :=
  { (withTeam (fun t => { t with s := [(16, 0x8000), (18, 3)] }) (labMem 0)).hwrite (atAddr 0x8000 bs) with
    mgmt := { Mgmt.reset with cmdq := [(3, ⟨0x9000, 0, 0, 0, 1, 0, 5, 4, [], []⟩)] } }
def labCard : State := labBlock (natLe 128 card0)
def cardDone (st : CardSt) : Card := ⟨.team 0, 0, 0, 0, 0, 4096, 0, 0x8000, BitVec.ofNat 1024 card0, 0, st, 4, [], [], 0, [], none⟩
/-- One access of n bytes at s17:s16, its value, and what follows. -/
def metBlock (s : State) (i : Instr) (n : Nat) (wr : Bool) (P : Ctx → State → LaneAcc → Nat → Bool) : Bool :=
  metAccess s i (fun c => [(c.lane0, (c.s2 16).toNat)]) n true wr true false fun c t ok => decide (c.active ≠ 0 ∧ (c.s2 16).toNat % n = 0) && match ok with
    | [a] => if wr then P c t a 0 else loads c t ok n fun t1 vals _ => P c t1 a (vals.headD (0, 0)).2
    | _ => false
theorem test_witness_EnginesAndSignals_cards :
    ([Instr.card 16, .cardw 4 16, .garm 16 0, .sigw 18 16 1, .siga 18 16 0 0].all fun i => met (withTeam (fun t => { t with s := [(16, 0x8004)] }) labCard) i fun c _ =>
      decide ((c.s2 16).toNat % 8 ≠ 0 ∧ c.p.prog = 0)) = true ∧
    ([Instr.card 16, .cardw 4 16].all fun i => metBlock labCard i 128 false fun c t1 _ img => decide (img = card0 ∧ c.p.prog = 0) && cardOk img 1 4096 &&
      !t1.trackerFull (.team c.tid) && !(t1.flushWrites c.tid).writesOpen c.tid) = true ∧
    metBlock (labBlock (natLe 128 (card0 + 3))) (.card 16) 128 false (fun _ _ _ img => !cardOk img 1 4096) = true ∧
    met { labCard with cards := (List.range 32).map fun n => (n, cardDone .waiting) } (.card 16) (fun c s => s.trackerFull (.team c.tid)) = true ∧
    [CardSt.done 0x40, .running].all (fun st => met (withPath (fun p => { p with prog := 8 }) { labCard with cards := [(7, cardDone st)] }) (.cardw 4 16) fun c s =>
      decide (c.p.prog = 7 + 1) && match s.cards.get? 7 with | some q => decide (q.st = st) && q.open == decide (st = .running) | none => false) = true := by
  decide +kernel
theorem test_witness_EnginesAndSignals_nodes :
    [(0 : BitVec 1), 1].all (fun r => metBlock labCard (.garm 16 r) 4 true fun c t a _ => decide ((c.s2 16).toNat % 64 = 0 ∧ c.inRegion = false) &&
      releases c t (widerScope c.t.pscope [(a.pa, a.scope)]) fun _ => true) = true ∧
    [[], [(1, (⟨0x8000, false, 0, true, 0, 0, none⟩ : Node))]].all (fun ns => met (labCard.modCtx 0 fun k => { k with nodes := ns }) (.gdone 16) fun c s =>
      releases c s c.t.pscope fun t => ((t.ctx c.t.ctx).nodes.find? fun p => p.2.addr = (c.s2 16).toNat && p.2.gdone && !p.2.due).isSome == !ns.isEmpty) = true ∧
    [true, false].all (fun b => met { labCard with openWrites := if b then [] else [(5, ⟨1, false⟩)] } (.gdone 16) fun c s =>
      releases c s c.t.pscope fun t => t.settleAll.allVisible == b) = true := by decide +kernel
/-- A bad queue; room in the ring, after the fence and before it; a full ring, the same. -/
theorem test_witness_EnginesAndSignals_subm :
    [(255 : Word), 256].all (fun q => met (withTeam (fun t => { t with s := [(16, 0x8000), (18, q)] }) labCard) (.subm 16 0x92) fun c s =>
      decide ((c.uc 0x92).toNat = q.toNat ∧ (q = 256 ∨ (s.mgmt.cmd 255).st ≠ 1))) = true ∧
    [0, 1].all (fun n => metBlock (withPath (fun p => { p with prog := n }) labCard) (.subm 16 0x92) 64 false fun c t1 _ _ => let m := t1.mgmt.cmd 3
      decide (c.p.prog = n ∧ m.st = 1 ∧ m.ctx = c.t.ctx) && !m.full && releases c t1 c.t.pscope (fun _ => true) &&
      match (t1.frontXlat m.ctx (m.slot m.next.toNat) true).1 with | .ok _ _ => true | _ => false) = true ∧
    [0, 1].all (fun n => metBlock (withPath (fun p => { p with prog := n }) (labCard.modCmdq 3 fun m => { m with wridx := 68 })) (.subm 16 0x92) 64 false
      fun c t1 _ _ => decide (c.p.prog = n) && (t1.mgmt.cmd 3).full && releases c t1 c.t.pscope fun _ => true) = true := by decide +kernel
/-- A signal of 3, or of −1, awaited with conditions that it meets and does not meet. -/
theorem test_witness_EnginesAndSignals_signals :
    [(1 : BitVec 3), 4].all (fun k => metBlock (labBlock (natLe 8 3)) (.sigw 18 16 k) 8 true fun _ _ _ _ => true) = true ∧
    [(natLe 8 3, true), (natLe 8 2, false), (natLe 8 (2 ^ 64 - 1), true)].all (fun (p : List Byte × Bool) => metAccess (labBlock p.1) (.sigw 18 16 1)
      (fun c => [(c.lane0, (c.s2 16).toNat)]) 8 true false true false fun c t ok => match ok with
      | [a] => decide (a.scope = Scope.package ∨ a.scope = Scope.host) && (let r := t.engineRead c.t.ctx a.pa 8
          signalEnds 1 (BitVec.ofNat 64 (leNat r.1)) (c.s2 18) == p.2 && acquires c r.2 (r.2.stampOf (lineOf a.pa)))
      | _ => false) = true ∧
    [false, true].all (fun b => metBlock { labBlock (natLe 8 3) with mgmt := { Mgmt.reset with badBursts := if b then [0x8000] else [] } } (.sigw 18 16 1) 8 true
      fun _ t a _ => t.badAt a.pa 8 == b) = true ∧
    [(0 : BitVec 2), 1, 2].all (fun o => metBlock (labBlock (natLe 8 3)) (.siga 18 16 1 o) 8 true fun c t a _ => c.inRegion = false &&
      releases c t (widerScope c.t.pscope [(a.pa, a.scope)]) fun _ => true) = true := by decide +kernel
/-- AREG's operands in s16 to s23: a region at 0x5000 of four or eight bytes, and a second at 0x6000. -/
def labAreg (n : Word) (ws : List WatchEntry) : State :=
  { withTeam (fun t => { t with s := [(16, 0x5000), (18, n), (20, 0x6000), (22, 4)] }) (labMem 0) with watch := ws }
def areg (k : Nat) (P : Bool → Bool) (c : Ctx) (s : State) : Bool :=
  decide ((c.s2 16).toNat % 4 = 0 ∧ (c.s2 18).toNat ≤ 2 ^ 40) &&
  match c.regionPieces (regionOf (c.s2 16).toNat (c.s2 18).toNat) s [] with
  | (.inl p1, t) => (match c.regionPieces (if k = 1 then regionOf (c.s2 20).toNat (c.s2 22).toNat else []) t [] with
    | (.inl p2, t1) => P (c.register t1 k (c.s2 16).toNat (c.s2 18).toNat (c.s2 22).toNat (c.s2 20) p1 p2).isSome
    | _ => false)
  | _ => false
theorem test_witness_AssumptionsAndRegions_areg :
    met (labAreg 4 []) (.areg 6 16 0) (areg 0 id) = true ∧ met (labAreg 4 []) (.areg 6 16 1) (areg 1 id) = true ∧
    met (labAreg 8 []) (.areg 6 16 2) (areg 2 id) = true ∧
    met (labAreg 4 ((List.range 64).map fun k => ⟨((lab 0).slicesOf (0x5000, 4)).headD 0, false, k, 0, 0⟩)) (.areg 6 16 0) (areg 0 not) = true := by decide +kernel
/-- A length that is not a multiple of 4, one of 0, and a base whose region ends past bit 55, first and second; and one that has registered. -/
theorem test_witness_AssumptionsAndRegions_areg_checks :
    [(2 : Word), 0].all (fun w => met (labAreg w []) (.areg 6 16 0) fun c _ => decide (c.active ≠ 0 ∧ c.p.prog = 0 ∧ c.s2 18 = w.setWidth 64)) = true ∧
    met (withS 17 0x01000000 (labAreg 4 [])) (.areg 6 16 0) (fun c _ => decide (2 ^ 56 < (c.s2 16).toNat + (c.s2 18).toNat)) = true ∧
    met (withS 21 0x01000000 (labAreg 4 [])) (.areg 6 16 1) (fun c _ => decide (2 ^ 56 < (c.s2 20).toNat + (c.s2 22).toNat)) = true ∧
    met (withPath (fun p => { p with prog := 1024 }) (labAreg 4 [])) (.areg 6 16 0) (fun c _ => decide (c.p.prog = 1023 + 1)) = true := by decide +kernel
def obj0 (armed : Bool) : Obj := ⟨armed, 0, 0, 0x5000, 4, 0, 0⟩
def labObj (armed : Bool) : State := { withTeam (fun t => { t with s := [(16, 7)] }) (labMem 0) with objs := [(7, obj0 armed)] }
def entry0 : GuardEntry := ⟨7, 0, 0, [], 0, 0, 0, []⟩
theorem test_witness_AssumptionsAndRegions_regions :
    [(true, 0), (false, 4)].all (fun (p : Bool × Nat) => met (withTeam (fun t => { t with guard := List.replicate p.2 entry0 })
      (withTeam (fun t => { t with paths := if p.1 then [(0, Path.start 0 1 0), (1, Path.start 0 2 0)] else t.paths }) (labObj true))) (.aenter 0x90 0x80) fun c _ =>
        decide (1 < c.t.paths.length ∨ 4 ≤ c.t.guard.length)) = true ∧
    [0, 3].all (fun n => met (withTeam (fun t => { t with guard := List.replicate n entry0 }) (labObj true)) (.aenter 0x90 0x80) fun c s =>
      decide (c.t.paths.length ≤ 1 ∧ c.t.guard.length = n ∧ c.object s (c.ua 0x90).toNat = some (obj0 true)) && (s.team? c.tid).isSome) = true ∧
    met (lab 0) (.aenter 0x90 0) (fun c s => decide (c.object s (c.ua 0x90).toNat = none)) = true ∧
    [0, 1, 2].all (fun n => met (withTeam (fun t => { t with guard := List.replicate n entry0 }) (labObj true)) .aexit fun c s =>
      decide (c.p.prog ≠ 2 ∧ c.t.guard.length = n ∧ c.t.paths.length ≤ 1) && !(s.flushWrites c.tid).releaseHeld c.tid c.t.pscope) = true ∧
    met (withPath (fun p => { p with prog := 2 }) (labObj true)) .aexit (fun c s => decide (c.p.prog = 2) && releases c s c.t.pscope fun _ => true) = true := by
  decide +kernel
theorem test_witness_AssumptionsAndRegions_objects : ([Instr.atest 15 0x90, .arevk 0x90, .adrop 0x90].all fun i =>
      met (lab 0) i (fun c s => decide (c.object s (c.ub 0x90).toNat = none ∧ c.active ≠ 0 ∧ c.p.prog = 0)) &&
      [true, false].all fun a => met (labObj a) i fun c s => decide (c.active ≠ 0 ∧ c.p.prog = 0 ∧ (c.ub 0x90).toNat = 7 ∧ c.object s 7 = some (obj0 a) ∧
        s.revokes.get? 7 = none)) = true ∧
    [Instr.arevk 0x90, .adrop 0x90].all (fun i => met (withPath (fun p => { p with prog := 1 }) (labObj false)) i fun c _ => decide (c.active ≠ 0 ∧ c.p.prog = 1)) = true ∧
    met { labObj false with revokes := [(7, ⟨0, [], false, true⟩)] } (.adrop 0x90) (fun _ s => (s.revokes.get? 7).isSome) = true := by decide +kernel
/-- In a team, in a handler and in the firmware slot; numbers at the limits of the views; a register of each access. -/
theorem test_witness_ControlRegisters :
    ([0, 0x008, 0x00A, 0x3FF, 0x400, 0x500, 0x7FF, 0x800, 0x8B2, 0xFFF].all fun n => let k := BitVec.ofNat 12 n
      [lab 0, asFw (lab 0), inHandler [] (lab 0)].all (fun s => pass s [.csrr 6 k]) && [Instr.csrw 0x82 k, .csrs 0x82 k, .csrc 0x82 k].all fun i =>
        pass (asFw (lab 0)) [i] && pass (lab 0) [i] == decide (n < 0x400) && pass (inHandler [] (lab 0)) [i] == decide (n < 0x800)) = true ∧
    met (lab 0) (.csrr 6 0x3FF) (fun c _ => decide (c.active ≠ 0 ∧ c.t.fw = false ∧ c.p.win ≠ .trap)) = true ∧
    csrMask 0x00A ≠ 0 ∧ csrMask 0x008 = 0 ∧ csrW1C 0x008 ≠ 0 ∧ csrMask 0 = 0 ∧ csrW1C 0 = 0 ∧
    ((lab 0).csrValue ⟨0, 0, 0⟩ 0x800).toNat < 8 ∧ ((lab 0).team? 0).isSome = true := by decide +kernel
/-- A team's path outside a handler, which writes a CSR past the view of its code. -/
theorem test_witness_ControlRegisters_outside : let p := Path.start 0x10000 (firstLanes 32) 0
    (lab 0).focus = some focus0 ∧ (lab 0).team? 0 = some (team0 0) ∧ (team0 0).paths.get? 0 = some p ∧ (team0 0).rests.get? 0 = none ∧ p.begun = false ∧
    ¬ ((team0 0).fw = true ∨ (0x400#12).toNat < 0x400 ∨ (p.win = .trap ∧ (0x400#12).toNat < 0x800)) := by decide +kernel
def job0 (claimed : Bool) : Job := ⟨0, 1, 2, 3, claimed, 0, false, 0, 0, none⟩
/-- A firmware agent with overlay 5 in the image; the target in s2, the overlay number in s4. -/
def labFw (target : Word) (loaded : Option Nat) : State :=
  { asFw (withTeam (fun t => { t with s := [(2, target), (4, 5)] }) (lab 0)) with
    cores := [(0, { Core.reset with overlay := loaded })], mgmt := { Mgmt.reset with overlays := [(5, [])] } }
theorem test_witness_FirmwareInstructions_fwcall : [(0x20 : Word), 0x24, 0x10000].all (fun w => [Instr.fwcall 0x82 5, .fwcallReg 4 0x82].all fun i =>
      [none, some 5].all fun o => met (labFw w o) i fun c s => decide (c.active ≠ 0 ∧ c.t.fw = true ∧ c.p.prog = 0 ∧ (c.s1 4).toNat = 5 ∧
        c.ub 0x82 = w ∧ (s.core c.core).overlay = o) && (s.mgmt.overlays.get? 5).isSome) = true ∧
    [0, 1, 2].all (fun n => [[], List.replicate 256 (job0 false)].all fun js =>
      met (withPath (fun p => { p with prog := n }) ((inHandler [] (lab 0)).modDie 0 fun d => { d with jobs := [(7, js)] })) (.fwcall 0x82 5) fun c s =>
        decide (c.t.fw = false ∧ c.p.prog = n) && s.jobRoom c.die 7 == js.isEmpty) = true ∧
    met (withTeam (fun t => { t with s := t.s.put 4 256 }) (labFw 0x20 none)) (.fwcallReg 4 0x82) (fun c _ => decide ((c.s1 4).toNat = 256)) = true := by
  decide +kernel
theorem test_witness_FirmwareInstructions_tinv :
    [(63 : Word), 255, 256].all (fun w => met (withTeam (fun t => { t with s := [(3, w)] }) (asFw (lab 0))) (.tinv 16 0x83) fun c s =>
      decide ((c.uc 0x83).toNat = w.toNat ∧ c.p.begun = false ∧ s.aliasObjects (w.toNat % 64) (tinvRange (w.toNat / 64) (c.s2 16).toNat).1 (tinvRange (w.toNat / 64) (c.s2 16).toNat).2 = [])) = true ∧
    met { asFw (lab 0) with objs := [(7, ⟨true, 1, 0, 0, 4, 0x1000, 4⟩)] } (.tinv 16 0x83) (fun c s =>
      decide (s.aliasObjects 0 (tinvRange 0 (c.s2 16).toNat).1 (tinvRange 0 (c.s2 16).toNat).2 ≠ [])) = true ∧
    [[], [(7, (⟨0, [1], false, false⟩ : Revoke))]].all (fun rs => met (withPath (fun p => { p with prog := 1, st := .parked (.translations 0 0 (2 ^ 56)) })
      { asFw (lab 0) with objs := [(7, ⟨true, 1, 0, 0, 4, 0x1000, 4⟩)], revokes := rs }) (.tinv 16 0x83) fun c s =>
        decide (c.p.prog ≠ 0 ∧ c.p.st = .parked (.translations 0 0 (2 ^ 56))) && (s.aliasObjects 0 0 (2 ^ 56)).any (· = 7) && (s.aliasObjects 0 0 (2 ^ 56)).all fun o =>
          (s.revokes.get? o).isNone == rs.isEmpty) = true := by decide +kernel
theorem test_witness_FirmwareInstructions_tickets :
    [none, some false, some true].all (fun j => met ((asFw (lab 0)).modDie 0 fun d => { d with jobs := [(2, (j.map job0).toList)] }) (.ticketClaim 4 2) (fun c s =>
        s.openJob c.die 2 == if j = some false then some (job0 false) else none) &&
      met ((asFw (lab 0)).modDie 0 fun d => { d with jobs := [(2, (j.map job0).toList)] }) (.ticketDone 4 2) fun c s =>
        (((s.die c.die).jobs.getD 2 []).find? fun j => j.idx = (c.s1 4).toNat && j.claimed) == if j = some true then some (job0 true) else none) = true := by decide +kernel
/-- A team that SVC took off core 1, its call complete or not; its context running on the cluster or not. -/
def called (complete running : Bool) : State :=
  { lab 0 with
    teams := [(0, { team0 0 with fw := true, xfront := false, s := [(2, 64)] }), (1, { team0 0 with place := .savedBySvc 64, core := 1 })],
    ctxs := [(0, { Context.reset with calls := [(64, ⟨1, 0, 0, [], complete, [], false⟩)] })],
    clus := [(0, { Cluster.reset with edf := [(0, ⟨0, true, 0, 0, 0, 0, 0, 0, []⟩)], running := if running then some 0 else none })] }
theorem test_witness_FirmwareInstructions_svcr : met (asFw (lab 0)) (.svcr 4 0x82) (fun c s => decide (((s.ctx 0).calls.get? (c.ub 0x82).toNat) = none)) = true ∧
    [(true, true), (true, false), (false, true)].all (fun (p : Bool × Bool) => met (called p.1 p.2) (.svcr 4 0x82) fun c s =>
      match (s.ctx ((c.ub 0x82).toNat % 64)).calls.get? (c.ub 0x82).toNat with
      | some q => q.complete == p.1 && (match s.team? q.team with | some u => s.canReturn u == p.2 | none => false)
      | none => false) = true := by decide +kernel
/-- A team of context 0 beside the firmware agent, with instructions outstanding. -/
def labSave (l : List Outst) : State :=
  (({ asFw (lab 0) with openWrites := [(9, ⟨0, false⟩)] } : State).setTeam 1 { team0 0 with slot := 1, outst := l }).modCtx 0 fun k => { k with entry := 1 }
theorem test_witness_FirmwareInstructions_contexts : [Instr.ctxs 4 0x82, .ctxl 4 0x82].all (fun i =>
      met (withTeam (fun t => { t with s := [(2, 4096)] }) (asFw (lab 0))) i (fun c s => decide (c.saveTarget s (c.ub 0x82) = none)) &&
      met ((asFw (lab 0)).modCtx 0 fun k => { k with entry := 1 }) i fun c s => decide (c.saveTarget s (c.ub 0x82) = some (0, 0) ∧ s.image? 0 0 = none)) = true ∧
    [false, true].all (fun r => met (((asFw (lab 0)).modCtx 0 fun k => { k with entry := 1 }).modClu 0 fun k => { k with groups := if r then k.groups else [] }) (.ctxs 4 0x82) fun c s =>
      s.residentState 0 0 == r && decide (c.p.prog = 0)) = true ∧
    [1, 2].all (fun n => met (withPath (fun p => { p with prog := n }) (({ labSave [] with cycle := 150000 } : State).modClu 0 fun k => { k with saving := [0] }))
      (.ctxs 4 0x82) fun c s => decide (0 ∈ (s.clu 0).saving) && decide (0 < c.p.prog ∧ c.p.prog - 1 + 50000 ≤ s.ns) == decide (n = 1)) = true ∧
    [[], [(0, (⟨[], [], [], [], [], [], [], [], (0, [])⟩ : Image))]].all (fun is => met (withPath (fun p => { p with prog := 1 }) { labSave [] with images := is })
      (.ctxs 4 0x82) fun c s => decide (0 < c.p.prog ∧ 0 ∉ (s.clu 0).saving) && (s.image? 0 0).isSome == !is.isEmpty) = true ∧
    [[], [(⟨0, 0, 0, .stores [9]⟩ : Outst)]].all (fun l => met (labSave l) (.ctxs 4 0x82) fun c s => s.residentState 0 0 && decide (c.p.prog = 0) &&
      (s.settleContext 0 0).1 == l.isEmpty) = true ∧
    [[], [(3, queue3 0)]].all (fun qs => met { (((asFw (lab 0)).modCtx 0 fun k => { k with entry := 1 }).modClu 0 fun k => { k with queues := [(3, queue3 1)] }) with
      images := [(0, ⟨[], qs, [], [], [], [], [], [], (0, [])⟩)] } (.ctxl 4 0x82) fun _ s => match s.image? 0 0 with
        | some i => s.restorable 0 0 i == qs.isEmpty
        | none => false) = true := by decide +kernel
/-- A trial's block (R388): from 0x10000 to 0x10010, its remaining fields 1, 0, 1 and 0. -/
def trial0 (start : Nat) : Nat := start + 0x10010 * 2 ^ 64 + 2 ^ 128 + 2 ^ 144
def trialNow : Trial := ⟨0, 0, 16, 1, 0, 1, 0, false, 0, 0, 0, 0, 0⟩
theorem test_witness_DebugInstructions : met (inHandler [] (lab 0)) .xtrig (fun c _ => decide (c.active ≠ 0)) = true ∧
    [(0 : Word), 1, 2, 256].all (fun w => met (withTeam (fun t => { t with s := [(2, w)] }) (lab 0)) (.tron 0x82) fun c _ => decide (c.t.fw = false ∧ c.active ≠ 0 ∧
      c.ub 0x82 = w)) = true ∧
    [0x10000, 0x10010].all (fun n => metBlock (labBlock (natLe 64 (trial0 n))) (.expd 16) 64 false fun c t1 _ b => trialOk b == decide (n = 0x10000) &&
      (t1.clu c.clu).trial.isNone) = true ∧
    metBlock ((labBlock (natLe 64 (trial0 0x10000))).modClu 0 fun k => { k with trial := some trialNow }) (.expd 16) 64 false (fun c t1 _ b =>
      trialOk b && (t1.clu c.clu).trial.isSome) = true := by decide +kernel
/-! ### Events

Whether an image's signature verifies is an opaque constant (log 9), so no state shows the clauses that ask for it. -/

/-- After 100 µs with nothing to do, and with an image booted from slot A. -/
theorem test_witness_ResetBootAndPower : { State.reset with cycle := 300000 }.ps1 = true ∧ 0 + 100000 ≤ ({ State.reset with cycle := 300000 } : State).ns ∧
    (lab 0).ps1 = false ∧ ({ Mgmt.reset with booted := some false } : Mgmt).booted = some false ∧ Mgmt.reset.booted = none ∧ Mgmt.reset.alarm = false ∧
    Mgmt.reset.keys = true ∧ markerOf (markerBytes 7 true) = some (7, true) ∧ Mgmt.reset.chosen = false ∧
    ({ Mgmt.reset with chosen := true } : Mgmt).chosen = true := by decide +kernel
/-- The deepest states, each once its own condition has held, as LTOL allows. -/
theorem test_witness_ResetBootAndPower_deepest : [(19, 300000, 1), (199, 300000, 2), (4999, 300000, 3), (5000, 30300000, 4)].all (fun (p : Nat × Nat × Nat) =>
    ({ State.reset with cycle := p.2.1, mgmt := { Mgmt.reset with bar0 := [(8, BitVec.ofNat 64 p.1)] } } : State).deepest == p.2.2) = true := by decide +kernel
/-- A context's entry that is sound (R167), and one whose save area is too small. -/
def ctxEntry (units : Nat) : BitVec 512 := BitVec.ofNat 512 (1 + 0x20000 + 0x50000 * 2 ^ 64 + units * 2 ^ 128 + 0x30000 * 2 ^ 160)
def job1 (posted : Nat) : Job := ⟨6, 1, 2, 3, false, posted, false, 0, 0, none⟩
theorem test_witness_RegistersContextsAndJobs :
    671 < Config.cores ∧ 3 < Config.dies ∧ ((State.reset.core 671).csr.getD 0x800 0).toNat < 8 ∧ (State.reset.ctx 63).entry.getLsbD 0 = false ∧
    entryOk (ctxEntry 0xFFFF).toNat (State.reset.clustersOf 63).length = true ∧ entryOk (ctxEntry 0).toNat 1 = false ∧
    bits (State.reset.poolEntry 63 63) 0 1 = 0 ∧ bits ((withPool (pool0 0) (labMem 0)).poolEntry 0 0) 0 1 = 1 ∧ (lab 0).team? 0 = some (team0 0) ∧
    (let s : State := { State.reset with cycle := 3000000, dies := [(0, { Die.reset with jobs := [(2, [job1 0])] })] }
     ((s.die 0).jobs.getD 2 []).find? (fun j => j.idx = 6) = some (job1 0) ∧ (job1 0).posted + 1000000 ≤ s.ns ∧ s.jobRoom 0 5 = true) ∧
    (({ Mgmt.reset with overlays := [(5, [])] } : Mgmt).overlays.get? 5).isSome = true ∧
    (let s := withPath (fun p => { p with st := .parked (.overlay 5) }) (labFw 0x20 none)
     (s.team? 0).any (fun u => decide (s.teams = [(0, u)] ∧ u.fw = true ∧ u.core = 0 ∧ u.place = .resident) && match u.paths with
       | [(0, p)] => decide (p.st = .parked (.overlay 5))
       | _ => false) = true) := by decide +kernel

/-- Function 0 owns queues 0 to 127 and context 0; queue 3 of it is ACTIVE with one packet to start; a 64 KiB BAR2 window at 0xA0000. -/
def host0 : Mgmt := { Mgmt.reset with
  bar0 := [(0x100, 0x8000), (0x200, 1), (0x400, 0xA), (0x408, 1)], cmdq := [(3, ⟨0x9000, 0, 0, 0, 1, 0, 5, 4, [], []⟩)] }
def labPacket (p : Nat) (s : State) : State := { (s.hwrite (atAddr 0x9100 (natLe 64 p))) with mgmt := host0 }
def packetAt (s : State) (P : Nat → State → Nat → Bool) : Bool :=
  match s.nextPacket 3 with
  | (some p, s1) => P p (s1.startPacket 3 p).2 (s1.startPacket 3 p).1
  | _ => false
/-- A call of team 0, sent, with lane 3 to answer; a context whose calls are all answered; a reply slot still in use. -/
theorem test_witness_HostQueuesAndPackets_replies :
    (let k : SvcCall := ⟨0, 0, 7, [3], true, [], false⟩
     let s : State := { lab 0 with ctxs := [(0, { Context.reset with calls := [(64, k)] })] }
     let held : State := { lab 0 with ctxs := [(0, { Context.reset with calls := [(64, { k with replies := [(3, 0)] })] })] }
     s.settleAll.hostIds = [] ∧ s.settleAll.unapplied 0 = false ∧ (s.settleAll.ctx 0).replyHeld 0 = false ∧ (s.settleAll.ctx 0).calls.get? 64 = some k ∧
     3 ∈ k.lanes ∧ k.sent = true ∧ (held.settleAll.ctx 0).replyHeld 0 = true) ∧
    ((lab 0).ctx 0).calls = [] ∧ (((lab 0).ctx 0).calls.get? 64).isNone = true := by decide +kernel
theorem test_witness_RegistersContextsAndJobs_queue : ((labPacket 0 (lab 0)).barQueue 0 3).isSome = true := by decide +kernel
/-- Writes of an epoch open on any die, an invalidation not applied there, and neither; a signal entry whose page is not there. -/
theorem test_witness_HostQueuesAndPackets_signals :
    [0, 3].all (fun d => !({ labPacket 3 labCard with openWrites := [(5, ⟨d, false⟩)] } : State).settleAll.allVisible) = true ∧
    ({ labPacket 3 labCard with dies := [(0, { Die.reset with apply := [.inval 2 (Clock.zero.put 1 5) 0x20 0 1 none 0 true] })] } : State).settleAll.allVisible = false ∧
    (labPacket 3 labCard).settleAll.allVisible = true ∧
    ((labPacket 3 labCard).mgmt.cmd 3).started.all (fun x => !x.done && x.aborted.isNone) = true ∧
    (match ((lab 0).waitEntries 0 (2 + 3 * 2 ^ 64 + (0x8000 + 1) * 2 ^ 128) (List.range 6) .met).1 with | .fault _ => true | _ => false) = true := by decide +kernel
theorem test_witness_HostQueuesAndPackets_queues :
    (labPacket 0 (labMem 0)).queueOwn 3 = true ∧ ((labPacket 0 (labMem 0)).funcOfQueue 127).isSome = true ∧ ((labPacket 0 (labMem 0)).mgmt.cmd 4).st ≠ 1 ∧
    (labPacket 0 (labMem 0)).window 0 0xFFF8 8 = some 0xAFFF8 ∧ (labPacket 0 (labMem 0)).window 0 0xFFF9 8 = none ∧ (labPacket 0 (labMem 0)).hostHeld = none ∧
    ((labPacket 0 (labMem 0)).mgmt.cmd 3).bells = [] ∧ (labPacket 0 (labMem 0)).hostIds.any (labPacket 0 (labMem 0)).writeOpen = false ∧
    (let r : StoreReq := ⟨9, .die 0, 65, Scope.host, 0x20, [(0x1000, 7)], false, Clock.zero, none⟩
     let s : State := { labPacket 0 (labMem 0) with held := [(4, ⟨0x20, .writeThroughStore r, [7], []⟩)], openWrites := [(9, ⟨0, false⟩)] }
     s.hostHeld.isSome = true ∧ s.hostIds.any s.writeOpen = true) ∧
    ({ labPacket 0 (labMem 0) with mgmt := { host0 with badBursts := [0xAFFC0] } } : State).badAt 0xAFFF8 8 = true ∧ (labPacket 0 (labMem 0)).badAt 0xAFFF8 8 = false ∧
    (let c : CplQueue := ⟨0, 0, 0, 0, 1, true, 0, 63, [7], 1, 0⟩
     (c.tail - c.head).toNat < c.ring ∧ ({ c with tail := 64 } : CplQueue).ring ≤ (({ c with tail := 64 } : CplQueue).tail - c.head).toNat ∧
     c.pendingN ≠ 0 ∧ c.pendingSince + 1000 * c.timer ≤ ({ State.reset with cycle := 3000 } : State).ns) := by decide +kernel
/-- WORK of one record, WAIT, SIGNAL, COPY of the card at 0x8000, GRAPH and MARKER; and a WORK packet with no record. -/
theorem test_witness_HostQueuesAndPackets_packets :
    [1 + 0x8000 * 2 ^ 64 + 2 ^ 128, 2, 3 + 0x8000 * 2 ^ 64, 4 + 0x8000 * 2 ^ 64, 5 + 0x8000 * 2 ^ 64, 6].all (fun p => packetAt (labPacket p labCard) fun p' s2 _ =>
      decide (p' = p) && packetOk p' && match p % 8 with
        | 4 => (match s2.frontRead 0 (bits p' 64 64) 128 with | (.inl img, _) => cardOk (leNat img) 0 0 && !s2.trackerFull (.queue 3) | _ => false)
        | 5 => (match s2.frontXlat 0 (bits p' 64 64) true with | (.ok _ _, _) => true | _ => false)
        | 6 => (s2.mgmt.cmd 3).started.all fun x => x.aborted.isNone
        | _ => true) = true ∧
    packetAt (labPacket (1 + 0x8000 * 2 ^ 64) labCard) (fun p _ _ => !packetOk p && pType p == 1) = true := by decide +kernel
/-- A started WORK packet whose record is good, and one whose record is not; a started WAIT for a signal of 3, met, not met and negative. -/
def startedOf (p : Nat) : Started := ⟨4, BitVec.ofNat 64 p, BitVec.ofNat 512 p, false, 0, 0, none⟩
def labStarted (p : Nat) (s : State) : State := { s with mgmt := { host0 with cmdq := [(3, ⟨0x9000, 0, 0, 0, 1, 0, 5, 5, [startedOf p], []⟩)] } }
theorem test_witness_HostQueuesAndPackets_started :
    [0x10000, 0x10001].all (fun r => let s := labStarted (1 + 0x8000 * 2 ^ 64 + 2 ^ 128) (withPool (pool0 0) (labBlock (natLe 64 r)))
      match s.started? 3 4 with
      | some k => decide (pType k.header.toNat = 1) && (match s.frontRead 0 (bits k.body.toNat 64 64 + 64 * k.appended) 64 with
        | (.inl b, s1) => (s1.recordOk 0 (leNat b)).1 == decide (r = 0x10000) && (r == 0x10001 || (s1.recordOk 0 (leNat b)).2.ringsFit 0 [leNat b])
        | _ => false)
      | none => false) = true ∧
    [(3, 0), (2, 1), (2 ^ 64 - 1, 2)].all (fun (v : Nat × Nat) => let s := labStarted (2 + 3 * 2 ^ 64 + (0x8000 + 1) * 2 ^ 128) (labBlock (natLe 8 v.1))
      match (s.waitEntries 0 (2 + 3 * 2 ^ 64 + (0x8000 + 1) * 2 ^ 128) (List.range 6) .met).1 with
      | .met => v.2 == 0
      | .notYet => v.2 == 1
      | .negative _ => v.2 == 2
      | _ => false) = true := by decide +kernel
/-- Cluster 0 with an EDF entry of context 0, running or not, its REMAIN and deadline as given, and its budget 500 and period 1000. -/
def edf0 (remain deadline : Nat) : Edf := ⟨0, true, 1000, 500, remain, deadline, 100, 0, []⟩
def withEdf (running : Bool) (remain deadline : Nat) (s : State) : State := s.modClu 0 fun k =>
  { k with edf := [(0, edf0 remain deadline)], running := if running then some 0 else none }
/-- A record in pool 0's ring. -/
def labRing (tail : Nat) : State := (withPool (pool0 tail) (labMem 0)).hwrite (atAddr 0x40000 (natLe 64 0x10000))
def launch0 : Launch := ⟨0, 0, 0x10000, BitVec.ofNat 1024 (5 * 2 ^ 192), [0x10000], [.code], 0, 0⟩
theorem test_witness_WorkTimeAndSchedule_records :
    (labRing 1).headRecord 0 0 = some (0x10000, .code) ∧ nextInTurn ((withEdf true 1 1 (labRing 1)).clustersOf 0) 0 = some 0 ∧
    (((labRing 1).dropHead 0 0).header 0 0x10000).1 = some (5 * 2 ^ 192) ∧
    (labRing 0).windowRun ⟨0, launch0, 0, 32⟩ = true ∧ (labRing 1).windowRun ⟨0, launch0, 0, 32⟩ = false ∧
    (let s := (withEdf true 500 1000 (labRing 0)).modClu 0 fun k => { k with waiting := [launch0] }
     (s.chooseSlice 0).runningCtx 0 = some 0 ∧ ((s.chooseSlice 0).clu 0).stopReq = false ∧ (s.chooseSlice 0).image? 0 0 = none ∧
     (((s.chooseSlice 0).admissible 0 0 ((s.chooseSlice 0).clu 0).waiting 0 none).isSome) = true) ∧
    (let s := (labRing 1).hwrite (atAddr 0x30000 (natLe 64 (pool0 1 + 2 + 3 * 2 ^ 94)))
     (s.headRecord 0 0).isSome = true ∧ poolValid (s.poolEntry 0 0) = true ∧ poolFeed (s.poolEntry 0 0) = true ∧ bits (s.poolEntry 0 0) 94 6 = 3 ∧
     (s.modClu 0 fun k => { k with running := some 0, edf := [(0, edf0 1 1)], groups := [(1, group0)] }).takesFeed 0 0
       ⟨kindU32, false, 0, 0, 16, 0, 0, 0, true, 1⟩ = true) := by decide +kernel
/-- At time 1000: a deadline of 1000; a REMAIN of 100 (DRAIN) and of 0, with a team of the context resident and none. -/
theorem test_witness_WorkTimeAndSchedule_schedule :
    (let s : State := { withEdf true 1100 1000 (lab 0) with cycle := 3000 }
     s.edfEntry? 0 0 = some (edf0 1100 1000) ∧ (edf0 1100 1000).deadline ≤ s.ns ∧ s.runningEdf 0 = some (0, edf0 1100 1000) ∧ (s.clu 0).stopReq = false ∧
     s.edfRemain 0 0 ≤ (edf0 1100 1000).drain) ∧
    (let s : State := { withEdf true 1000 5000 (lab 0) with cycle := 3000 }
     s.edfRemain 0 0 = 0 ∧ s.anyResident 0 0 = true ∧ (s.clu 0).overrun = none ∧ (s.teamsAt 0 0 .resident).all (fun k => (s.team? k).any fun u => !u.leaving) = true ∧
     ({ s with teams := [] } : State).anyResident 0 0 = false) ∧
    (let s : State := { (withEdf true 1000 5000 (lab 0)).modClu 0 (fun k => { k with saveTimer := some 1000 }) with cycle := 3000 }
     (s.clu 0).saveTimer = some 1000 ∧ s.runningCtx 0 = some 0 ∧ 1000 ≤ s.ns) := by decide +kernel
def store0 : StoreReq := ⟨9, .core 0, 0, Scope.package, 0x20, [(0x1000, 7)], false, Clock.zero, some 5⟩
theorem test_witness_WorkTimeAndSchedule_timers :
    (let s : State := { withPath (fun p => { p with st := .parked (.sleep 1000) }) (lab 0) with cycle := 3000 }
     (s.team? 0).isSome = true ∧ 1000 ≤ s.ns ∧ trialNow.began + 1000 * trialNow.t ≤ s.ns) ∧
    (match (withTeam (fun t => { t with outst := [⟨4, 0, 0, .atCycle 9⟩] }) (lab 0)).team? 0 with
     | some u => (u.outst.find? fun o => o.id = 4).isSome && !(lab 0).condHolds u (.atCycle 9) && { lab 0 with cycle := 9 }.condHolds u (.atCycle 9)
     | none => false) = true ∧
    (let s := withTeam (fun t => { t with deferred := [⟨Cause.lateStore, 5, 0, none, none⟩] }) (labMem 0)
     match s.team? 0 with
     | some u => !u.deferred.isEmpty && decide (u.place = .resident) && !u.inHandler && (s.candidates u.core (!u.fw && u.xfront)).1.length ≤ 1
     | none => false) = true ∧ ((9 : Nat) ≤ 9 ∧ (0 : Nat) ≤ 9) ∧ (lab 0).syncDue (team0 0) (Path.start 0x10000 1 0) = false ∧
    ((lab 0).modDie 0 fun d => { d with traced := 1 }).syncDue (team0 0) (Path.start 0x10000 1 0) = true := by decide +kernel
theorem test_witness_WorkTimeAndSchedule_stores :
    (let s : State := { lab 0 with cores := [(0, { Core.reset with posted := [(5, ⟨0, 0, 0, 0, 0, 0, 0, 0x1000, 0, 0, 9, none⟩)] })], pending := [.writeThroughStore store0] }
     match (s.core 0).posted.get? 5 with
     | some e => s.pending.any (isStore e.store) && ((s.dropStore 0 e.store).team? e.team).isSome
     | none => false) = true ∧
    (let l : L1Line := ⟨.n, false, 1, 1, [], 0, [], Scope.die, 0, Clock.zero, 0, []⟩
     let s : State := { lab 0 with cores := [(0, { Core.reset with l1 := [(0x20, l)] })], cycle := 6000 }
     s.l1? 0 0x20 = some l ∧ l.dirty ≠ 0 ∧ l.dirtyAt + 2000 ≤ s.ns) := by decide +kernel
/-- A card of team 0, in the state given, of a peer collective or the copy of `card0`. -/
def cardIn (img : Nat) (st : CardSt) : Card := ⟨.team 0, 0, 0, 0, 0, 4096, 0, 0x8000, BitVec.ofNat 1024 img, 0, st, 0, [], [], 0, [], none⟩
def withCard (k : Card) (s : State) : State := { s with cards := [(7, k)] }
/-- Rank 0 of two ranks, four bytes each way (R430). -/
def col0 : Nat := 3 + 2 ^ 768 + 2 * 2 ^ 816 + (0x6000 + 2 ^ 57 + 4 * 2 ^ 64) * 2 ^ 256 + (0x7000 + 2 ^ 56 + 2 ^ 57 + 8 * 2 ^ 64) * 2 ^ 384
theorem test_witness_EngineEvents_cards :
    (let k := cardIn card0 .waiting
     (withCard k labCard).cards.get? 7 = some k ∧ (withCard k labCard).image? 0 0 = none ∧
     ((withCard k labCard).tracker k.stream).all (fun p => decide (k.order ≤ p.2.order)) = true) ∧
    [(card0, 4), (col0, 0)].all (fun (p : Nat × Nat) => match (if cardEngine p.1 = 1 then (withCard (cardIn card0 .running) (labMem 0)).copyStep { cardIn p.1 .running with offset := p.2 }
        else (withCard (cardIn col0 .running) (labMem 0)).colStep (cardIn p.1 .running)).1 with
      | .ok _ => p.2 == 0
      | .finished => p.2 == 4
      | .stop _ => false
      | _ => false) = true ∧
    (match (withCard (cardIn card0 .running) (lab 0)).copyStep (cardIn card0 .running) with | (.fault _ _ _, _) => !cardReplay card0 | _ => false) = true ∧
    (let k := cardIn card0 (.ending 0)
     let s := (withCard k (lab 0)).settleAll
     s.cardAway k = false ∧ k.stores.any s.writeOpen = false ∧ s.unapplied (dieOfClu k.clu) = false ∧ cardSigen k.img.toNat = false ∧ cardArren k.img.toNat = false ∧
     k.packet = none) ∧
    (let k := { cardIn card0 (.ending 0) with stores := [5] }
     k.stores.any ({ withCard k (lab 0) with openWrites := [(5, ⟨0, false⟩)] } : State).settleAll.writeOpen = true) := by decide +kernel
theorem test_witness_EngineEvents_collectives :
    (let k := cardIn col0 .running
     let s : State := { withCard k labCard with cycle := 300000000 }
     cardOk col0 1 4096 = true ∧ cardEngine col0 = 3 ∧ colRanks col0 = 2 ∧ colRank col0 = 0 ∧ k.heard.get? 1 = none ∧ k.began + 100000000 ≤ s.ns ∧
     (cardFoot col0 0).len = (natLe 4 0).length) ∧
    [(true, 0), (false, 0), (false, 5)].all (fun (p : Bool × Byte) => match ((lab 0).modCtx 0 fun k => { k with
        nodes := [(1, ⟨0x8000, p.1, 0, false, 0, p.2, none⟩)] }).ctx 0 |>.nodes.get? 1 with
      | some n => n.due == p.1 && decide (n.fail = p.2)
      | none => false) = true := by decide +kernel
/-- Task 3 on names 2 and 4 (128 by 32 and 32 by 64, K = 32), ready and running; and the same names too small. -/
def task0 (st : TaskSt) : Task := ⟨0, 1, 0, 2, 4, 0x4020, 0, 0, 0, 0, 0, 0, 0, st, 0, 0x10004, false, false, [], []⟩
def labTask (st : TaskSt) (rows : Nat) : State := { labTiles.modClu 0 (fun k => { k with names := [(2, { aName .defined with shape := ⟨0, false, rows, 32, 127⟩ }),
  (4, { aName .defined with shape := ⟨0, false, 32, 64, 127⟩ })] }) with tasks := [(3, task0 st)] }
theorem test_witness_EngineEvents_tiles :
    (let n : Name := { aName .pending with defn := some (.image ⟨0, false, 1, 1, 127⟩ (natLe 4 0)) }
     n.defn = some (.image ⟨0, false, 1, 1, 127⟩ (natLe 4 0)) ∧ n.st = .pending) ∧
    (let e : TileStore := ⟨0, 2, 0, 0, 0, desc0, 0x2000, [], false⟩
     let md := Desc.ofNat e.desc.toNat
     match labTiles.engineStores 0 0 (piecesOf e.va md.runs) (convertImage (aName .defined).shape { md.shape with orient := md.orient } (aName .defined).value) [] with
     | (.inl ids, _) => ids.length == 1
     | _ => false) = true ∧
    [(128, true), (127, false)].all (fun (p : Nat × Bool) => let s := labTask .ready p.1
      decide ((s.tasks.get? 3).map (·.st) = some .ready ∧ s.freeBank 0 0 = some 0) && (s.tasks.all fun q => decide ((task0 .ready).serial ≤ q.2.serial)) &&
      match s.emptyBank 0 0 with
      | some s1 => macShapes (bits (task0 .ready).ctl.toNat 0 12) (s1.operand (task0 .ready) 2).1 (s1.operand (task0 .ready) 4).1 none == p.2 &&
        (match s1.firstCells (task0 .ready) 128 64 with | .ok _ => true | _ => false) && (match s1.stage 0 4 0 with | .ok _ => true | _ => false)
      | none => false) = true ∧
    (let t := task0 (.running 0)
     match (labTask (.running 0) 128).stage 0 4 0 with
     | .ok s1 => (match s1.operand t t.a with
        | (h, .ok _) => decide ((t.step + 32 / macDepth (macRow h.fmt)) * macDepth (macRow h.fmt) < 64)
        | _ => false) && ((s1.core 0).garnet.find? fun g => g.name = 4).isSome
     | _ => false) = true ∧
    (aName .pending).defn ≠ some (.failed Cause.tileSpace) ∧ ({ aName .pending with defn := some (.failed Cause.tileSpace) } : Name).defn = some (.failed Cause.tileSpace) := by
  decide +kernel
/-- Line 0x20 of HBM with nothing known of it; a full word span; a line in state N; a line in core 0's L1; an apply queue with a marker that
may be taken, and one whose count is not reached. -/
def line0 (core : Nat) : LineReq := ⟨core, 0x20, 0, 32, Scope.die⟩
def bank0 : BankReq := ⟨9, .core 0, 0, Scope.package, 1, 1, [⟨0x1004, 1, 0⟩], false, Clock.zero, none, none⟩
def l1line0 : L1Line := ⟨.s, false, 1, 0, [], 0, [], Scope.die, 0, Clock.zero, 0, []⟩
theorem test_witness_CoherenceRequests :
    goodLine (line0 671) = true ∧ (State.reset.fillWords 0 0x20 (spanMask 0 32) Scope.die 0).isSome = true ∧ State.reset.heldOn 0x20 = none ∧
    ((State.reset.linkOf (128 * 0x20)).map State.reset.linkState = none) ∧ (State.reset.dirOf 0x20).w = false ∧
    (State.reset.dirOf 0x20).coarse = false ∧ (State.reset.dirOf 0x20).ptrs.length < 4 ∧ State.reset.watchHits [0x1000] = [] ∧
    (let s : State := { State.reset with cores := [(0, { Core.reset with l1 := [(0x20, l1line0)], waiting := [⟨4, 0x20, [(0x1000, 1)], 0, Scope.die, Clock.zero⟩] })] }
     s.l1? 0 0x20 = some l1line0 ∧ touchedWords [(0x1000, 1)] &&& ~~~(wholeWords [(0x1000, 1)]) &&& ~~~l1line0.readable = 0) ∧
    goodStore store0 = true ∧ goodBank bank0 = true ∧ isHbm 0x1004 = true ∧ (State.reset.dirOf 0x20).st ≠ DirSt.n ∧ bank0.graph = false ∧
    ({ State.reset with dir := [(0x20, { State.reset.dirOf 0x20 with w := true })] } : State).dirOf 0x20 = { State.reset.dirOf 0x20 with w := true } ∧
    (pickApply Die.reset 1 [] [.marker 0 1 Clock.zero 0]).isSome = true ∧ (pickApply Die.reset 1 [] [.marker 0 1 Clock.zero 1]).isSome = false ∧
    (pickApply Die.reset 1 [] [.inval 0 Clock.zero 0x20 0 1 none 0 true]).isSome = true ∧ populated (128 * 0x20) = true ∧
    (match (labMem 0).walk 0 0 0x10000 false true with | (.inl _, _) => true | _ => false) = true ∧
    (match (labMem 0).walk 0 0 (2 ^ 40) false true with | (.inr _, _) => true | _ => false) = true := by decide +kernel
theorem test_witness_LinksAndRevocation_links :
    State.reset.linkState 15 = .up ∧ ({ State.reset with mgmt := { Mgmt.reset with links := [(15, .retraining 0)] } } : State).linkState 15 = .retraining 0 ∧
    0 + 2000000 ≤ ({ State.reset with cycle := 6000000 } : State).ns ∧ ({ State.reset with cycle := 5999999 } : State).ns < 0 + 2000000 ∧
    (team0 0).place = .resident ∧ (team0 0).fw = false ∧ (Path.start 0x10000 1 0).st = .ready ∧
    (match (labMem 0).wake.peerLanes 0 bank0.lanes with | (.inl ls, _) => decide (ls = bank0.lanes) | _ => false) = true ∧
    goodBank { bank0 with agent := .die 3 } = true := by decide +kernel
/-- A team in a region over object 7, a revocation of it begun and acknowledged, and a request held for it. -/
def labRevoke (q : Revoke) (held : Tab Held) : State :=
  { withPath (fun p => { p with st := .parked .commit, prog := 1 }) (withTeam (fun t => { t with guard := [entry0], gbytes := [(0x1000, 7)] }) (labObj true)) with revokes := [(7, q)], held := held }
theorem test_witness_LinksAndRevocation_revocation :
    (let s := labRevoke ⟨0, [], false, false⟩ []
     s.objs.get? 7 = some (obj0 true) ∧ s.holderCores 7 = [0] ∧ (s.team? 0).bind Team.committing = some 0 ∧ (linePieces [(0x1000, (7 : Byte))]).all (fun p =>
       ((s.clearLines 0 (linePieces [(0x1000, 7)])).heldOn p.1).isNone && ((s.clearLines 0 (linePieces [(0x1000, 7)])).watchHits (p.2.map (·.1))).isEmpty) = true) ∧
    0 ∈ (⟨0, [0], false, false⟩ : Revoke).cores ∧
    (let h : Held := ⟨0x20, .writeThroughStore store0, [7], []⟩
     let s : State := { labRevoke ⟨0, [], true, false⟩ [(3, h)] with revokes := [] }
     s.held.get? 3 = some h ∧ s.heldFree h = true ∧ h.behind = [] ∧ s.revokes.get? 7 = none ∧
     ((({ s with held := s.held.del 3 } : State).runRequest h.req).revokes.get? 7) = none) := by decide +kernel
/-! ### More of the events: what the clauses of the last four statements meet -/

theorem test_witness_WorkTimeAndSchedule_records_go_on :
    ((labRing 1).retryCompletion 0 0).headRecord 0 0 = some (0x10000, .code) ∧
    (0 : Nat) ∉ ((((withEdf true 500 1000 (labRing 0)).modClu 0 fun k => { k with waiting := [launch0] }).chooseSlice 0).clu 0).saving ∧
    (labRing 1).queueLocked 0 3 = false ∧ ({ Path.start 0x10000 1 0 with needSync := false } : Path).needSync = false ∧ (team0 0).place ≠ .ended := by decide +kernel
/-- A message of the card's own TAG with its parameters, one with another TYPE, one of another TAG, and one of a length that is not the card's;
rank 1 heard and not. -/
theorem test_witness_EngineEvents_messages :
    (let k := cardIn col0 .running
     let mine := cardHead k.img.toNat
     (withCard k (lab 0)).cards.get? 7 = some k ∧ k.live = true ∧ cardEngine k.img.toNat = 3 ∧ 1 < colRanks k.img.toNat ∧ 1 ≠ colRank k.img.toNat ∧
     k.heard.get? 1 = none ∧ ({ k with heard := [(1, [])] } : Card).heard.get? 1 = some [] ∧ headsDiffer mine mine = false ∧
     headsDiffer { mine with ty := mine.ty + 1 } mine = true ∧ ({ mine with ty := mine.ty + 1 } : PeerHead).tag = mine.tag ∧
     ({ mine with tag := mine.tag + 1 } : PeerHead).tag ≠ mine.tag ∧ (natLe 3 0).length ≠ (cardFoot k.img.toNat 0).len) := by decide +kernel
/-- A node whose work is over: visible, and not while a write of another die is open; one with work left, and one that waits for GDONE. -/
theorem test_witness_EngineEvents_nodes :
    [(0, false), (1, false), (0, true)].all (fun (p : Nat × Bool) => let n : Node := ⟨0x8000, false, 0, p.2, p.1, 0, none⟩
      match ((lab 0).modCtx 0 fun k => { k with nodes := [(1, n)] }).ctx 0 |>.nodes.get? 1 with
      | some m => !m.due && m.fail == 0 && (decide (0 < m.left ∨ m.gdone = true) == decide (p ≠ (0, false)))
      | none => false) = true ∧
    (lab 0).settleAll.allVisible = true ∧ ({ lab 0 with openWrites := [(5, ⟨3, false⟩)] } : State).settleAll.allVisible = false := by decide +kernel
theorem test_witness_EngineEvents_reads :
    (let e : TileStore := ⟨0, 2, 0, 0, 0, desc0, 0x2000, [], false⟩
     let s : State := { labTiles with tstores := [(5, e)] }
     s.tstores.get? 5 = some e ∧ e.started = false ∧ s.image? e.ctx e.clu = none ∧
     (match s.tileData 0 2 (s.name 0 2) with | .ok img => img == natLe 4 0 | _ => false) = true) := by decide +kernel
/-- An L1 that holds its grant, one whose give-up is on its way, and one that the home does not know; a bank's bytes good and bad; an entry of a
guest die that may be granted. -/
theorem test_witness_CoherenceRequests_grants :
    (let e : DirEntry := { State.reset.dirOf 0x20 with st := .n, ptrs := [.core 0], narrow := [.core 0] }
     let s : State := { State.reset with dir := [(0x20, e)], cores := [(0, { Core.reset with l1 := [(0x20, { l1line0 with st := .n })] })] }
     s.grantStands 0 0x20 = true ∧ (s.l1? 0 0x20).isSome = true ∧ (s.core 0).waiting = [] ∧
     ({ s with pending := [.writeBack ⟨9, .core 0, 0, Scope.die, 0x20, [], true, Clock.zero, none⟩ true] } : State).grantStands 0 0x20 = false ∧
     State.reset.grantStands 0 0x20 = false) ∧
    [false, true].all (fun b => ({ State.reset with mgmt := { Mgmt.reset with badBursts := if b then [0x1000] else [] } } : State).badAt 0x1004 4 == b) = true ∧
    (State.reset.dirOf 0x20).grantable (.core 0) = true ∧ State.reset.sharerFor 0 0x20 = .core 0 ∧
    ((State.reset.ownBacks 0 0x20).dirOf 0x20).w = false ∧
    (let s : State := { State.reset with mgmt := { Mgmt.reset with links := [(0, .down)] } }
     (s.linkOf (128 * 0x100000000000)).map s.linkState = some .down ∧ goodLine ⟨0, 0x100000000000, 0, 32, Scope.fabric⟩ = true) ∧
    State.reset.stamps.get? 0x20 = none ∧ pickApply Die.reset 1 [] Die.reset.apply = none := by decide +kernel
/-- A team's path and a card may make requests, an agent of the firmware slot may not; a load of a host page that meets a failure, due at once or
after 50 ms. -/
def labHost (f : ApFail) (m : Nat) : State :=
  { labAt 0 with cores := [(0, { Core.reset with tlb := [⟨0, 0, 65536, 0x1000000000000, true, false, Scope.host, true⟩] })],
                 mgmt := { Mgmt.reset with fails := [f] }, cycle := m }
theorem test_witness_LinksAndRevocation_failures :
    (lab 0).mayRequest (.path 0 0) = true ∧ (asFw (lab 0)).mayRequest (.path 0 0) = false ∧ (withCard (cardIn card0 .running) (lab 0)).mayRequest (.card 7) = true ∧
    (lab 0).mayRequest (.card 7) = false ∧ peerCause Cause.pageNotPresent = true ∧ peerCause 0 = false ∧
    [((⟨.path 0 0, false, Cause.pageNotPresent, false, none⟩ : ApFail), 0, true), (⟨.path 0 0, false, Cause.pageNotPresent, true, none⟩, 0, false),
     (⟨.path 0 0, false, Cause.pageNotPresent, true, some 0⟩, 150000000, true)].all (fun p => met (labHost p.1 p.2.1) (.ld 6 2 3 0) fun c s =>
        let as := c.addrs 2 0
        let r := c.translateLanes false as s
        (as.all fun a => decide (a.2 % 4 = 0 ∧ a.2 < 2 ^ 56)) && decide (r.2.1 = []) && (c.watchHit as 4 true false).isNone &&
        (r.1.all fun a => (r.2.2.linkAt a.pa).isNone) && (match c.meetsFail r.2.2 r.1 4 false with | some (g, a) => decide (g = p.1 ∧ a.lane = 0) | none => false) &&
        c.s.failDue p.1 == p.2.2) = true := by decide +kernel
/-- A peer's read, write and atomic in a context whose pages are there, and in one whose are not; its write open, not applied on every die, and done. -/
theorem test_witness_LinksAndRevocation_peers :
    [(labMem 0, true), (lab 0, false)].all (fun (p : State × Bool) => let s0 := p.1.wake.modMgmt fun m => { m with lastFabric := p.1.ns }
      s0.linkState 15 == .up && (match (s0.peerLanes 0 bank0.lanes).1 with | .inl _ => p.2 | .inr _ => !p.2) && [false, true].all fun wr =>
        match s0.peerPieces 0 wr (pagePieces (4 / 65536 + 2) 0x1000 4) with
        | (.inl ps, s1) => p.2 && !ps.isEmpty && (s1.inboundHeld 15).isNone
        | _ => !p.2) = true ∧
    ({ State.reset with mgmt := { Mgmt.reset with links := [(15, .down)] } } : State).linkState 15 ≠ .up ∧
    ([5].any ((List.range Config.dies).foldl State.applyDie ({ lab 0 with openWrites := [(5, ⟨3, false⟩)] } : State).drainAll).writeOpen) = true ∧
    ([5].any ((List.range Config.dies).foldl State.applyDie (lab 0).drainAll).writeOpen) = false ∧
    ((List.range Config.dies).foldl State.applyDie (lab 0).drainAll).unapplied 3 = false ∧
    ((List.range Config.dies).foldl State.applyDie
      ({ lab 0 with dies := [(0, { Die.reset with apply := [.inval 3 (Clock.zero.put 1 5) 0x20 0 1 none 0 true] })] } : State).drainAll).unapplied 3 = true := by decide +kernel
theorem test_witness_LinksAndRevocation_commit :
    (let s := labRevoke ⟨0, [], false, false⟩ []
     match s.team? 0 with
     | some u => (s.clearLines u.core (linePieces u.gbytes)).core u.core |>.posted.length.ble (256 - u.postedLines.length)
     | none => false) = true := by decide +kernel

end Sys2Proof.Tests
end

section
/-! SUPPORT -/
namespace Sys2Proof.Machine
open Sys2Proof.Safety

/-- A word other than the empty slot's is an instruction at issue: the shared checks, then a part of its own. -/
theorem exec_eq_issue (i : Instr) (hw : (encode i).isSome = true) (hn : i ≠ .nop) :
    ∃ body : Ctx → State → Res, ∀ s, exec i s = issue i body s := by
  cases i
  case nop => exact absurd rfl hn
  all_goals first
    | exact ⟨_, fun _ => rfl⟩  -- a word
    | cases hw                 -- an event

/-- What comes from outside the instruction stream leads to a next state. -/
theorem exec_event_next (i : Instr) (s : State) (he : encode i = none) : ∃ t, exec i s = .next t := by
  cases i
  all_goals first
    | exact ⟨_, rfl⟩  -- an event
    | cases he        -- a word

/-- The shared checks refuse a word only where no path issues it. -/
theorem admission_refused {i : Instr} {s : State} (h : admission i s = .refused) (f : Focus) (t : Team) (p : Path) : ¬ Issuer s f t p := by
  rintro ⟨hf, ht, hp⟩
  unfold admission at h
  simp only [hf, ht, hp] at h
  repeat' split at h
  all_goals cases h

theorem issue_next_or_unissued (i : Instr) (body : Ctx → State → Res) (s : State) :
    (∃ t, issue i body s = .next t) ∨ (issue i body s = .fault .noIssuer ∧ ∀ f t p, ¬ Issuer s f t p) := by
  cases hf : s.focus with
  | none => exact .inr ⟨by simp [issue, hf], fun f t p h => by simp [Issuer, hf] at h⟩
  | some f =>
    cases ha : admission i s with
    | refused => exact .inr ⟨by simp [issue, hf, ha], admission_refused ha⟩
    | trap cause h1 => exact .inl ⟨_, issue_of_trap ha hf⟩
    | closed port probe => exact .inl ⟨_, issue_of_closed ha hf⟩
    | park w probe => exact .inl ⟨_, issue_of_park ha hf⟩
    | ecc cause h1 addr => exact .inl ⟨_, issue_of_ecc ha hf⟩
    | ok c s' => exact .inl ⟨_, issue_of_ok ha⟩

/-- The empty slot's word moves the path that issues it, and stops where there is none. -/
theorem execNop_next_or_unissued (s : State) :
    (∃ t, exec .nop s = .next t) ∨ (exec .nop s = .fault .noIssuer ∧ ∀ f t p, ¬ Issuer s f t p) := by
  show (∃ t, execNop s = .next t) ∨ (execNop s = .fault .noIssuer ∧ _)
  unfold execNop
  split
  · rename_i hf; exact .inr ⟨rfl, fun f t p h => by simp [Issuer, hf] at h⟩
  · rename_i f hf
    split
    · rename_i ht; exact .inr ⟨rfl, fun f' t p ⟨h, h', _⟩ => by simp_all⟩
    · rename_i t ht
      split
      · rename_i hp; exact .inr ⟨rfl, fun f' t p ⟨h, h', _⟩ => by simp_all⟩
      · exact .inl ⟨_, rfl⟩
end Sys2Proof.Machine

namespace Sys2Proof.Proofs
open Sys2Proof.Machine Sys2Proof.Safety

/-- Settles O8: an event always leads on, and a word goes through `issue`, which stops only where the shared checks find no path in focus. -/
theorem onlyUnissuedWordsStop : Obligations.OnlyUnissuedWordsStop := by
  intro i s
  cases he : encode i with
  | none => exact .inl (exec_event_next i s he)
  | some w =>
    have stops : (∃ t, exec i s = .next t) ∨ (exec i s = .fault .noIssuer ∧ ∀ f t p, ¬ Issuer s f t p) := by
      by_cases hn : i = .nop
      · rw [hn]; exact execNop_next_or_unissued s
      · obtain ⟨body, hb⟩ := exec_eq_issue i (by simp [he]) hn
        rw [hb s]; exact issue_next_or_unissued i body s
    exact stops.imp id fun ⟨hx, hi⟩ => ⟨hx, rfl, hi⟩
end Sys2Proof.Proofs
end

section
/-! SUPPORT. What completing an instruction changes (R63, R68, R198, R242, R446). -/
namespace Sys2Proof.Machine
open Sys2Proof.Safety

/-- Performance counters and the passes of front ends are all that differs. -/
structure CountsOnly (s t : State) : Prop where
  state : t = { s with cores := t.cores, sweeps := t.sweeps }
  core : ∀ k, t.core k = { s.core k with csr := (t.core k).csr }

theorem CountsOnly.same (s : State) : CountsOnly s s := ⟨rfl, fun _ => rfl⟩

theorem CountsOnly.trans {s t u : State} (h : CountsOnly s t) (g : CountsOnly t u) : CountsOnly s u where
  state := g.state.trans (by rw [h.state])
  core k := (g.core k).trans (by rw [h.core k])

/-- A change of one core's counters. -/
theorem countsOnly_modCore (s : State) (n : Nat) (f : Core → Core) (hf : ∀ x, f x = { x with csr := (f x).csr }) : CountsOnly s (s.modCore n f) where
  state := rfl
  core k := by
    rw [State.core_modCore]
    split
    · subst n; exact hf _
    · rfl

theorem countsOnly_sweeps (s : State) (w : Tab Sweep) : CountsOnly s { s with sweeps := w } := ⟨rfl, fun _ => rfl⟩

theorem addCount_csr (c : Core) (i n : Nat) : c.addCount i n = { c with csr := (c.addCount i n).csr } := by
  unfold Core.addCount
  dsimp only
  split <;> rfl

theorem countsOnly_pmcOf (s : State) (core event n : Nat) (ctxs : List Nat) : CountsOnly s (s.pmcOf core event n ctxs) := by
  refine countsOnly_modCore s core _ fun x => ?_
  generalize List.range 16 = is
  induction is generalizing x with
  | nil => rfl
  | cons i is ih =>
    rw [List.foldl_cons]
    split
    · exact (ih _).trans (by rw [addCount_csr x i n])
    · exact ih x

theorem countsOnly_bubbles (s : State) (core n ctx : Nat) : CountsOnly s (s.bubbles core n ctx) := by
  unfold State.bubbles
  split
  · exact .same s
  · exact (countsOnly_modCore s core _ fun _ => rfl).trans (countsOnly_pmcOf _ core 0x06 n [ctx])

theorem countsOnly_spend (s : State) (t : Team) (n reads : Nat) : CountsOnly s (s.spend t n reads) := by
  have counted := (countsOnly_pmcOf s t.core (if t.front % 2 = 1 then 0x04 else 0x03) n [t.ctx]).trans
    (countsOnly_bubbles _ t.core (s.droopHold t n reads) t.ctx)
  unfold State.spend
  dsimp only
  split
  · exact ((counted.trans (countsOnly_sweeps _ _)).trans (countsOnly_bubbles _ _ _ _)).trans (countsOnly_sweeps _ _)
  · exact counted.trans (countsOnly_sweeps _ _)

/-- The bookkeeping of an instruction of team `tid`, apart from its path: counters and passes, a serial number, an event in flight, the
focus, and in the team what is outstanding and which registers have an error. -/
structure BooksOnly (tid : Nat) (s t : State) : Prop where
  state : t = { s with seq := t.seq, focus := t.focus, pending := t.pending, cores := t.cores, teams := t.teams, sweeps := t.sweeps }
  core : ∀ k, t.core k = { s.core k with csr := (t.core k).csr }
  others : ∀ k, k ≠ tid → t.team? k = s.team? k
  own : ∀ u, s.team? tid = some u → ∃ o fl, t.team? tid = some { u with outst := o, flaws := fl }

theorem BooksOnly.same (tid : Nat) (s : State) : BooksOnly tid s s := ⟨rfl, fun _ => rfl, fun _ _ => rfl, fun u h => ⟨u.outst, u.flaws, h⟩⟩

theorem BooksOnly.trans {tid : Nat} {s t u : State} (h : BooksOnly tid s t) (g : BooksOnly tid t u) : BooksOnly tid s u where
  state := g.state.trans (by rw [h.state])
  core k := (g.core k).trans (by rw [h.core k])
  others k hk := (g.others k hk).trans (h.others k hk)
  own v hv := by
    obtain ⟨_, _, hv⟩ := h.own v hv
    obtain ⟨o, fl, hv⟩ := g.own _ hv
    exact ⟨o, fl, hv⟩

theorem CountsOnly.booksOnly {s t : State} (h : CountsOnly s t) (tid : Nat) : BooksOnly tid s t := by
  have teams : t.teams = s.teams := by rw [h.state]
  have team (k : Nat) : t.team? k = s.team? k := congrArg (Tab.get? · k) teams
  exact ⟨h.state.trans (by rw [h.state]), h.core, fun k _ => team k, fun u hu => ⟨u.outst, u.flaws, (team tid).trans hu⟩⟩

/-- A change of the team's record of what is outstanding or of its errors. -/
theorem booksOnly_modTeam (s : State) (tid : Nat) (f : Team → Team) (hf : ∀ u, ∃ o fl, f u = { u with outst := o, flaws := fl }) :
    BooksOnly tid s (s.modTeam tid f) where
  state := rfl
  core _ := rfl
  others k hk := by rw [State.team_modTeam, if_neg (Ne.symm hk)]
  own u hu := by
    obtain ⟨o, fl, h⟩ := hf u
    exact ⟨o, fl, by rw [State.team_modTeam, if_pos rfl, hu, Option.map_some, h]⟩

theorem booksOnly_post (s : State) (tid : Nat) (e : Instr) : BooksOnly tid s (s.post e) :=
  ⟨rfl, fun _ => rfl, fun _ _ => rfl, fun u h => ⟨u.outst, u.flaws, h⟩⟩

theorem booksOnly_enterOutst (s : State) (tid setf : Nat) (blocks : BitVec 22) (k : Cond) : BooksOnly tid s (s.enterOutst tid setf blocks k) := by
  have serial : BooksOnly tid s s.serial.2 := ⟨rfl, fun _ => rfl, fun _ _ => rfl, fun u h => ⟨u.outst, u.flaws, h⟩⟩
  exact (serial.trans (booksOnly_modTeam _ tid (fun t => { t with outst := t.outst ++ [⟨s.seq, setf, blocks, k⟩] })
    fun u => ⟨_, u.flaws, rfl⟩)).trans (booksOnly_post _ tid _)

/-- A register that is written anew changes nothing of its team but the errors. -/
theorem foldl_mend_flaws (os : List Opnd) (lanes : LaneMask) (u : Team) :
    ∃ fl, os.foldl (fun t o => t.mend o.code.toNat o.regs lanes) u = { u with flaws := fl } := by
  induction os generalizing u with
  | nil => exact ⟨u.flaws, rfl⟩
  | cons o os ih => obtain ⟨fl, h⟩ := ih (u.mend o.code.toNat o.regs lanes); exact ⟨fl, h⟩

theorem booksOnly_rewritten (c : Ctx) (s : State) : BooksOnly c.tid s (c.rewritten s) := by
  unfold Ctx.rewritten
  split
  · exact .same c.tid s
  · refine booksOnly_modTeam s c.tid _ fun u => ?_
    obtain ⟨fl, h⟩ := foldl_mend_flaws (c.n.ops.filter fun o => o.dst && !Code.isQ o.code) c.active u
    dsimp only
    rw [h]
    split
    · exact ⟨u.outst, _, rfl⟩
    · exact ⟨u.outst, fl, rfl⟩

/-- Completing an instruction is bookkeeping, the move of its path, and bookkeeping. -/
theorem retire_steps (c : Ctx) (s : State) (k : Option Cond) (jumped : Bool) : ∃ s1, BooksOnly c.tid s s1 ∧
    BooksOnly c.tid { c.modPath s1 fun p => p.after c.f jumped (c.stop s) with focus := none } (c.retire s k jumped) ∧
    (c.retire s k jumped).focus = none := by
  refine ⟨(c.rewritten s).spend c.t (passes c.p) c.n.bankReads,
    (booksOnly_rewritten c s).trans ((countsOnly_spend _ _ _ _).booksOnly c.tid), ?_⟩
  unfold Ctx.retire
  dsimp only
  generalize hs2 : ({ c.modPath _ _ with focus := none } : State) = s2
  have focus : s2.focus = none := hs2 ▸ rfl
  have entered (b : Bool) (blocks : BitVec 22) (k : Cond) :
      BooksOnly c.tid s2 (if b then s2 else s2.enterOutst c.tid c.f.setf blocks k) ∧
        (if b then s2 else s2.enterOutst c.tid c.f.setf blocks k).focus = none := by
    cases b
    · exact ⟨booksOnly_enterOutst s2 c.tid _ _ _, focus⟩
    · exact ⟨.same c.tid s2, focus⟩
  exact entered _ _ _

/-- The state after an instruction's completion, its team among it. -/
theorem retire_team (c : Ctx) (s : State) (k : Option Cond) (jumped : Bool) (u : Team) (hu : s.team? c.tid = some u) :
    ∃ o fl, (c.retire s k jumped).team? c.tid =
      some { u with paths := u.paths.modify c.pid fun p => p.after c.f jumped (c.stop s), outst := o, flaws := fl } := by
  obtain ⟨s1, before, after, -⟩ := retire_steps c s k jumped
  obtain ⟨o, fl, h1⟩ := before.own u hu
  have moved := State.team_modPath s1 c.tid c.pid c.tid fun p => p.after c.f jumped (c.stop s)
  rw [if_pos rfl, h1, Option.map_some] at moved
  obtain ⟨o', fl', h2⟩ := after.own _ moved
  exact ⟨o', fl', h2⟩

theorem retire_retireOnly (c : Ctx) (s : State) (k : Option Cond) (jumped : Bool) : RetireOnly c.tid s (c.retire s k jumped) := by
  obtain ⟨s1, before, after, focus⟩ := retire_steps c s k jumped
  refine ⟨?_, fun j => ?_, fun j hj => ?_, fun u hu => ?_⟩
  · rw [after.state, focus]
    dsimp only [Ctx.modPath, State.modPath, State.modTeam]
    rw [before.state]
  · exact (after.core j).trans (congrArg (fun x : Core => { x with csr := ((c.retire s k jumped).core j).csr }) (before.core j))
  · rw [after.others j hj]
    exact (State.team_modPath s1 c.tid c.pid j _).trans (by rw [if_neg (Ne.symm hj), before.others j hj])
  · obtain ⟨o, fl, h⟩ := retire_team c s k jumped u hu
    exact ⟨_, h, rfl⟩

theorem after_st (p : Path) (f : Focus) (jumped : Bool) (stop : Nat) : (p.after f jumped stop).st = .ready := rfl
theorem after_mask (p : Path) (f : Focus) (jumped : Bool) (stop : Nat) : (p.after f jumped stop).mask = p.mask := by
  cases jumped <;> rfl
theorem after_pc (p : Path) (f : Focus) (jumped : Bool) (stop : Nat) :
    (p.after f jumped stop).pc = if jumped then p.pc else f.addr + 4 := by cases jumped <;> rfl

end Sys2Proof.Machine

namespace Sys2Proof.Proofs
open Sys2Proof.Machine Sys2Proof.Safety

/-- Settles O15: completion is bookkeeping before and after the one move of the path. -/
theorem completionChangesNothingElse : Obligations.CompletionChangesNothingElse := by
  intro c s k jumped
  refine ⟨retire_retireOnly c s k jumped, fun u p hu hp => ?_⟩
  obtain ⟨o, fl, h⟩ := retire_team c s k jumped u hu
  refine ⟨_, p.after c.f jumped (c.stop s), h, ?_, after_st .., after_mask .., ?_, ?_⟩
  · rw [Tab.get?_modify, if_pos rfl, hp, Option.map_some]
  · rintro rfl; exact after_pc ..
  · rintro rfl; exact after_pc ..
end Sys2Proof.Proofs
end

section
/-! SUPPORT. Narrowing (R10, R11) and the places of elements in a 64-bit image (R219, R259, R260). -/
namespace Sys2Proof.Machine

/-! ## Narrowing -/

theorem int_two_pow_pos (k : Nat) : (0 : Int) < 2 ^ k := Int.pow_pos (by decide)

theorem cast_lowBits (w : Nat) (x : Int) : (lowBits w x : Int) = x % 2 ^ w :=
  Int.toNat_of_nonneg (Int.emod_nonneg x (Int.ne_of_gt (int_two_pow_pos w)))

theorem lowBits_lt (w : Nat) (x : Int) : lowBits w x < 2 ^ w := by
  have h := Int.emod_lt_of_pos x (int_two_pow_pos w)
  rw [← cast_lowBits] at h
  exact_mod_cast h

theorem satInt_lt (w : Nat) (signed sat : Bool) (x : Int) : satInt w signed sat x < 2 ^ w := lowBits_lt w _

/-- A value of the type's range comes back from its low W bits: a signed one below 0 as the upper half of the codes. -/
theorem intOf_lowBits {w : Nat} {signed : Bool} {x : Int} (hw : 0 < w) (lo : intMin w signed ≤ x) (hi : x ≤ intMax w signed) :
    intOf w signed (lowBits w x) = x := by
  have half : (2 : Int) ^ w = 2 * 2 ^ (w - 1) := by
    obtain ⟨k, rfl⟩ : ∃ k, w = k + 1 := ⟨w - 1, by omega⟩
    exact Int.pow_succ' 2 k
  have pos := int_two_pow_pos (w - 1)
  have code := cast_lowBits w x
  have upper : 2 ^ (w - 1) ≤ lowBits w x ↔ (2 : Int) ^ (w - 1) ≤ lowBits w x := by exact_mod_cast Iff.rfl
  unfold intOf
  dsimp only
  rw [Nat.mod_eq_of_lt (lowBits_lt w x)]
  cases signed with
  | false =>
    simp only [intMin, intMax, Bool.false_eq_true, if_false] at lo hi
    rw [Int.emod_eq_of_lt lo (by omega)] at code
    simpa using code
  | true =>
    simp only [intMin, intMax, if_true] at lo hi
    simp only [Bool.true_and, decide_eq_true_eq, upper]
    rcases Int.lt_or_le x 0 with neg | nonneg
    · have wrapped : x % 2 ^ w = x + 2 ^ w := by
        rw [← Int.add_emod_right, Int.emod_eq_of_lt (by omega) (by omega)]
      rw [wrapped] at code
      rw [if_pos (by omega)]; omega
    · rw [Int.emod_eq_of_lt nonneg (by omega)] at code
      rw [if_neg (by omega)]; exact code

theorem intMin_le_intMax (w : Nat) (signed : Bool) : intMin w signed ≤ intMax w signed := by
  have half := int_two_pow_pos (w - 1)
  have whole := int_two_pow_pos w
  cases signed
  · simp only [intMin, intMax, Bool.false_eq_true, if_false]; omega
  · simp only [intMin, intMax, if_true]; omega

theorem intOf_satInt_sat {w : Nat} (hw : 0 < w) (signed : Bool) (x : Int) :
    intOf w signed (satInt w signed true x) = max (intMin w signed) (min (intMax w signed) x) :=
  intOf_lowBits hw (Int.le_max_left _ _) (Int.max_le.2 ⟨intMin_le_intMax w signed, Int.min_le_left _ _⟩)

/-! ## Elements in their places -/

/-- The sum of n elements of w bits, each in its place. -/
def packedSum (w : Nat) (f : Nat → Nat) (n : Nat) : Nat :=
  (List.range n).foldl (fun acc e => acc + (f e % 2 ^ w) * 2 ^ (w * e)) 0

theorem ofElems_eq (ty : IntTy) (f : Nat → Nat) : ofElems ty f = BitVec.ofNat 64 (packedSum ty.w f ty.elems) := rfl

theorem packedSum_succ (w : Nat) (f : Nat → Nat) (n : Nat) :
    packedSum w f (n + 1) = packedSum w f n + f n % 2 ^ w * 2 ^ (w * n) := by
  simp only [packedSum, List.range_succ, List.foldl_append, List.foldl_cons, List.foldl_nil]

theorem packedSum_lt (w : Nat) (f : Nat → Nat) (n : Nat) : packedSum w f n < 2 ^ (w * n) := by
  induction n with
  | zero => simp [packedSum]
  | succ n ih =>
    have digit : f n % 2 ^ w + 1 ≤ 2 ^ w := Nat.mod_lt _ (Nat.two_pow_pos w)
    calc packedSum w f (n + 1) = packedSum w f n + f n % 2 ^ w * 2 ^ (w * n) := packedSum_succ w f n
      _ < 2 ^ (w * n) + f n % 2 ^ w * 2 ^ (w * n) := by omega
      _ = (f n % 2 ^ w + 1) * 2 ^ (w * n) := by rw [Nat.add_mul, Nat.one_mul, Nat.add_comm]
      _ ≤ 2 ^ w * 2 ^ (w * n) := Nat.mul_le_mul_right _ digit
      _ = 2 ^ (w * (n + 1)) := by rw [← Nat.pow_add, Nat.mul_succ, Nat.add_comm]

/-- The element at place e is the one put there: later ones lie above it, earlier ones below. -/
theorem bits_packedSum (w : Nat) (f : Nat → Nat) {n e : Nat} (he : e < n) : bits (packedSum w f n) (w * e) w = f e % 2 ^ w := by
  induction n with
  | zero => omega
  | succ n ih =>
    rw [bits, Nat.shiftRight_eq_div_pow, packedSum_succ]
    rcases Nat.lt_succ_iff_lt_or_eq.mp he with below | rfl
    · obtain ⟨k, rfl⟩ : ∃ k, n = e + 1 + k := ⟨n - (e + 1), by omega⟩
      have above : f (e + 1 + k) % 2 ^ w * 2 ^ (w * (e + 1 + k)) = 2 ^ (w * e) * (2 ^ w * (2 ^ (w * k) * (f (e + 1 + k) % 2 ^ w))) := by
        rw [Nat.mul_add, Nat.mul_add, Nat.pow_add, Nat.pow_add, Nat.mul_one, Nat.mul_comm, Nat.mul_assoc, Nat.mul_assoc]
      rw [above, Nat.add_mul_div_left _ _ (Nat.two_pow_pos _), Nat.add_mul_mod_self_left, ← Nat.shiftRight_eq_div_pow]
      exact ih below
    · rw [Nat.add_mul_div_right _ _ (Nat.two_pow_pos _), Nat.div_eq_of_lt (packedSum_lt w f e), Nat.zero_add, Nat.mod_mod]

theorem intTy_fits (t : Nat) : (intTy t).w * (intTy t).elems ≤ 64 := by
  unfold intTy
  repeat' split
  all_goals decide

theorem elemOf_ofElems (t : Nat) (f : Nat → Nat) {e : Nat} (he : e < (intTy t).elems) :
    elemOf (intTy t) (ofElems (intTy t) f) e = f e % 2 ^ (intTy t).w := by
  have fits : packedSum (intTy t).w f (intTy t).elems < 2 ^ 64 :=
    Nat.lt_of_lt_of_le (packedSum_lt _ f _) (Nat.pow_le_pow_right (by decide) (intTy_fits t))
  rw [ofElems_eq, elemOf, BitVec.toNat_ofNat, Nat.mod_eq_of_lt fits, bits_packedSum _ f he]
end Sys2Proof.Machine

namespace Sys2Proof.Proofs
open Sys2Proof.Machine

/-- Settles O22: the low W bits of a value in range stand for it, and elements are digits in base 2^W. -/
theorem elementsAreNarrowedInPlace : Obligations.ElementsAreNarrowedInPlace := by
  refine ⟨fun w signed x hw => ⟨cast_lowBits w x, satInt_lt w signed true x, intOf_satInt_sat hw signed x, intOf_lowBits hw⟩, ?_⟩
  intro t f x y z e he
  exact elemOf_ofElems t _ he
end Sys2Proof.Proofs
end

section
/-! SUPPORT. A push clears the uncorrectable errors of the words it writes (R446), which the frame of O16's last clause leaves out. -/
namespace Sys2Proof.Proofs
open Sys2Proof.Machine Sys2Proof.Safety

/-- A team about to push to a queue whose first entry lies in a local-store word that has an uncorrectable error. -/
def flawedQueueState : State :=
  { State.reset with
    focus := some ⟨0, 0, 4, 15, false, true⟩,
    teams := [(0, { Team.agent 0 0 with ports := [(0, 0)] })],
    clus := [(0, { Cluster.reset with queues := [(0, ⟨kindU32, false, 0, 0, 4, 0, 0, 0, false, 0⟩)] })],
    cores := [(0, { Core.reset with flaws := [0] })] }

/-- LDI of 7 to port 0 passes the shared checks there; the push of its value writes the word at fault and clears its error. -/
theorem push_clears_flaw : ∃ (c : Ctx) (t : State), admission (.ldi 0xA0 7) flawedQueueState = .ok c flawedQueueState ∧
    c.push flawedQueueState 0 (fun _ => 7) = .done t ∧ (flawedQueueState.core 0).flaws = [0] ∧ (t.core 0).flaws = [] :=
  ⟨_, _, rfl, rfl, rfl, by decide⟩

/-- Refutes O16: a push changes more of a core than the bytes of its local store, since it clears the uncorrectable error of the word
that it writes. -/
theorem not_computingTouchesOnlyItsTeam : ¬ Obligations.ComputingTouchesOnlyItsTeam := by
  rintro ⟨-, frame⟩
  obtain ⟨c, t, -, pushed, flawed, cleared⟩ := push_clears_flaw
  have same := congrArg Core.flaws ((frame c flawedQueueState t 0 _ pushed).2 0)
  rw [cleared] at same
  exact absurd (same.trans flawed) (by decide)
end Sys2Proof.Proofs
end

section
/-! SUPPORT. The machine right after a cold reset (R8, R72, R74). -/
namespace Sys2Proof.Machine
open Sys2Proof.Safety

theorem reset_core (k : Nat) : State.reset.core k = Core.reset := rfl
theorem reset_die (k : Nat) : State.reset.die k = Die.reset := rfl
theorem reset_clu (k : Nat) : State.reset.clu k = Cluster.reset := rfl

/-- DROOPCFG is read from its core's CSRs (R70). -/
theorem csrValue_droopcfg (s : State) (v : CsrView) : s.csrValue v 0x800 = (s.core v.core).csr.getD 0x800 0 := by
  simp [State.csrValue]
end Sys2Proof.Machine

namespace Sys2Proof.Proofs
open Sys2Proof.Machine Sys2Proof.Safety

/-- Settles O1: the reset state is a literal, and its tables list nothing. -/
theorem resetIsIdleAndCanonical : Obligations.ResetIsIdleAndCanonical := by
  have droop (k : Nat) : State.reset.csrValue ⟨k, 0, 0⟩ 0x800 = 6 := by rw [csrValue_droopcfg, reset_core]; rfl
  have clock (d : Nat) : (State.reset.die d).clock = Clock.zero := by rw [reset_die]; rfl
  have running (c : Nat) : (State.reset.clu c).running = none := by rw [reset_clu]; rfl
  exact ⟨⟨rfl, by decide, rfl, rfl, rfl, rfl, rfl, rfl, droop, clock, fun _ => rfl, fun _ => rfl, running⟩, rfl⟩
end Sys2Proof.Proofs
end

section
/-! SUPPORT. Boot, update, attestation, power and the patrol scrub (R8, R434–R439, R446): what each operation of the management controller
leaves. -/
namespace Sys2Proof.Machine

/-- An event with a condition leads to the state of the branch that the condition picks. -/
theorem event_if_pos {p : Prop} [Decidable p] {a b : State} (h : p) : event (if p then a else b) = .next a := by rw [if_pos h]; rfl
theorem event_if_neg {p : Prop} [Decidable p] {a b : State} (h : ¬ p) : event (if p then a else b) = .next b := by rw [if_neg h]; rfl

/-! ## Agents and images -/

/-- Agents of firmware slots have started: serial numbers, teams and cores are all that differs, and the new teams are firmware's. -/
structure AgentsStarted (s t : State) : Prop where
  state : t = { s with seq := t.seq, teams := t.teams, cores := t.cores }
  fw : ∀ p ∈ t.teams, p ∈ s.teams ∨ p.2.fw = true

theorem AgentsStarted.same (s : State) : AgentsStarted s s := ⟨rfl, fun _ h => .inl h⟩

theorem agentsStarted_startAgent (s : State) (core : Nat) : AgentsStarted s (s.startAgent core) where
  state := rfl
  fw _ hp := (Tab.mem_put hp).elim (fun e => .inr (e ▸ rfl)) .inl

theorem AgentsStarted.trans {s t u : State} (h : AgentsStarted s t) (g : AgentsStarted t u) : AgentsStarted s u where
  state := g.state.trans (by rw [h.state])
  fw p hp := (g.fw p hp).elim (h.fw p) .inr

theorem agentsStarted_foldl (cores : List Nat) (s : State) : AgentsStarted s (cores.foldl State.startAgent s) := by
  induction cores generalizing s with
  | nil => exact .same s
  | cons k ks ih => exact (agentsStarted_startAgent s k).trans (ih _)

/-- The management controller with an image running. -/
def Mgmt.running (m : Mgmt) (b : Bool) (i : FlashImage) : Mgmt :=
  { m with booted := some b, image := i.body, overlays := overlaysOf i.body }

theorem agentsStarted_runImage (s : State) (b : Bool) (i : FlashImage) :
    AgentsStarted (s.modMgmt fun m => m.running b i) (s.runImage b i) := by
  unfold State.runImage
  dsimp only
  split
  · exact agentsStarted_foldl _ _
  · exact .same _

theorem runImage_mgmt (s : State) (b : Bool) (i : FlashImage) : (s.runImage b i).mgmt = s.mgmt.running b i := by
  rw [(agentsStarted_runImage s b i).state]; rfl
theorem runImage_mem (s : State) (b : Bool) (i : FlashImage) : (s.runImage b i).mem = s.mem := by
  rw [(agentsStarted_runImage s b i).state]; rfl

/-! ## Boot (R435) -/

/-- The row of failed signatures after one more image has been checked. -/
def Mgmt.checked (m : Mgmt) (i : FlashImage) : Mgmt := { m with sigFails := if signedImage i then 0 else m.sigFails + 1 }

/-- A check that is not the third failure in a row raises no alarm (R437). -/
theorem checkSignature_quiet {s : State} {i : FlashImage} (h : signedImage i = true ∨ s.mgmt.sigFails < 2) :
    s.checkSignature i = s.modMgmt fun m => m.checked i := by
  have few : ¬ (if signedImage i then 0 else s.mgmt.sigFails + 1) ≥ 3 := by
    split
    · omega
    · rename_i hs; have := h.resolve_left hs; omega
  unfold State.checkSignature
  dsimp only
  rw [if_neg few]; rfl

theorem signed_of_verifies {m : Mgmt} {i : FlashImage} (h : m.verifies i = true) : signedImage i = true := by
  rw [Mgmt.verifies, Bool.and_eq_true] at h; exact h.1

/-- What boot changes of the management controller besides the image that runs: the copy chosen and the row of failed signatures. -/
def Mgmt.tried (m : Mgmt) (copy : Bool) (fails : Nat) : Mgmt := { m with chosen := copy, sigFails := fails }

/-- Boot without an alarm ends with an image of the flash running, or with none. -/
theorem boot_cases (s : State) (h : s.mgmt.sigFails = 0) : ∃ copy fails,
    s.boot = s.modMgmt (fun m => m.tried copy fails) ∨ ∃ b i, s.boot = (s.modMgmt fun m => m.tried copy fails).runImage b i := by
  have first : (s.modMgmt fun m => { m with chosen := s.mgmt.choose.1 }).mgmt.sigFails < 2 := by
    simp only [State.modMgmt_mgmt, h]; decide
  unfold State.boot
  dsimp only
  split
  · exact ⟨s.mgmt.chosen, s.mgmt.sigFails, .inl rfl⟩
  rw [checkSignature_quiet (.inr first)]
  split
  · exact ⟨_, _, .inr ⟨_, _, rfl⟩⟩
  rw [checkSignature_quiet (.inr (by simp only [State.modMgmt_mgmt, Mgmt.checked, h]; split <;> decide))]
  split
  · exact ⟨_, _, .inr ⟨_, _, rfl⟩⟩
  · exact ⟨_, _, .inl rfl⟩

/-- Boot runs the image of the slot that the chosen copy names where that verifies. -/
theorem boot_of_verifies (s : State) (keys : s.mgmt.keys = true) (ok : s.mgmt.verifies (s.mgmt.slot s.mgmt.choose.2) = true) :
    s.boot.mgmt.booted = some s.mgmt.choose.2 := by
  unfold State.boot
  dsimp only
  rw [keys, checkSignature_quiet (.inl (signed_of_verifies ok)), ok]
  simp only [Bool.not_true, Bool.false_eq_true, if_false, if_true, runImage_mgmt, Mgmt.running]

/-- What boot from a state with no team keeps of it. -/
structure BootKeeps (s t : State) : Prop where
  state : t = { s with seq := t.seq, teams := t.teams, cores := t.cores, mgmt := t.mgmt }
  fw : ∀ p ∈ t.teams, p.2.fw = true
  mgmt : t.mgmt = { s.mgmt with chosen := t.mgmt.chosen, sigFails := t.mgmt.sigFails, booted := t.mgmt.booted, image := t.mgmt.image,
                                overlays := t.mgmt.overlays }

theorem boot_keeps (s : State) (h : s.mgmt.sigFails = 0) (none : s.teams = []) : BootKeeps s s.boot := by
  obtain ⟨copy, fails, e | ⟨b, i, e⟩⟩ := boot_cases s h
  · rw [e]; exact ⟨rfl, by simp [none], rfl⟩
  · have started := agentsStarted_runImage (s.modMgmt fun m => m.tried copy fails) b i
    have mgmt := runImage_mgmt (s.modMgmt fun m => m.tried copy fails) b i
    rw [← e] at started mgmt
    refine ⟨started.state.trans (by rw [mgmt]; rfl), fun p hp => (started.fw p hp).resolve_left ?_, by rw [mgmt]; rfl⟩
    simp [none]

/-- The state that a cold reset boots (R8, log 25). -/
def State.coldStart (s : State) : State := { State.reset with mem := s.mem, mgmt := s.mgmt.afterReset }

theorem exec_coldReset (s : State) : exec .coldReset s = .next s.coldStart.boot := rfl

/-! ## Flash (R434, R435) -/

theorem slot_setSlot_same (m : Mgmt) (b : Bool) (i : FlashImage) : (m.setSlot b i).slot b = i := by cases b <;> rfl
theorem slot_setSlot_other (m : Mgmt) (b : Bool) (i : FlashImage) : (m.setSlot (!b) i).slot b = m.slot b := by cases b <;> rfl

/-- Writes of the flash that leave the marker copy chosen at boot as it is. -/
structure FlashWritten (m m' : Mgmt) : Prop where
  frame : m' = { m with slotA := m'.slotA, slotB := m'.slotB, marker0 := m'.marker0, marker1 := m'.marker1 }
  chosen : if m.chosen then m'.marker1 = m.marker1 else m'.marker0 = m.marker0

theorem FlashWritten.same (m : Mgmt) : FlashWritten m m := ⟨rfl, by split <;> rfl⟩

theorem FlashWritten.trans {m m' m'' : Mgmt} (h : FlashWritten m m') (g : FlashWritten m' m'') : FlashWritten m m'' where
  frame := g.frame.trans (by rw [h.frame])
  chosen := by
    have same : m'.chosen = m.chosen := by rw [h.frame]
    have hc := h.chosen
    have gc := g.chosen
    rw [same] at gc
    split at hc
    · rename_i on; rw [if_pos on] at gc ⊢; exact gc.trans hc
    · rename_i off; rw [if_neg off] at gc ⊢; exact gc.trans hc

theorem flashWritten_updateSlot (m : Mgmt) (i : FlashImage) : FlashWritten m (m.updateSlot i) := by
  unfold Mgmt.updateSlot Mgmt.setSlot
  split <;> exact ⟨rfl, by split <;> rfl⟩

theorem updateMarker_slot (m : Mgmt) (x : List Byte) (b : Bool) : (m.updateMarker x).slot b = m.slot b := by
  unfold Mgmt.updateMarker; split <;> rfl
/-- The two marker copies after an update's marker write. -/
theorem updateMarker_markers (m : Mgmt) (x : List Byte) :
    if m.chosen then (m.updateMarker x).marker1 = m.marker1 ∧ (m.updateMarker x).marker0 = x
    else (m.updateMarker x).marker0 = m.marker0 ∧ (m.updateMarker x).marker1 = x := by
  unfold Mgmt.updateMarker; split <;> exact ⟨rfl, rfl⟩

theorem flashWritten_updateMarker (m : Mgmt) (x : List Byte) : FlashWritten m (m.updateMarker x) := by
  refine ⟨by unfold Mgmt.updateMarker; split <;> rfl, ?_⟩
  unfold Mgmt.updateMarker; split <;> rfl

/-- The flash as a loss of power leaves it. -/
def Mgmt.cut (m : Mgmt) : FlashCut → Mgmt
  | .idle => m
  | .slotWrite i => if m.booted.isNone then m else m.updateSlot { i with whole := false }
  | .markerWrite i n => if m.booted.isNone then m
    else (m.updateSlot i).updateMarker (m.nextMarker.take n ++ List.replicate (32 - n) 0xFF)

theorem exec_powerLoss (s : State) (cut : FlashCut) : exec (.powerLoss cut) s =
    .next { State.reset with mem := s.mem.filter fun p => isHostAp p.1, mgmt := (s.mgmt.cut cut).afterReset } := by
  cases cut <;> rfl

theorem flashWritten_cut (m : Mgmt) (cut : FlashCut) : FlashWritten m (m.cut cut) := by
  cases cut with
  | idle => exact .same m
  | slotWrite i =>
    dsimp only [Mgmt.cut]
    split
    · exact .same m
    · exact flashWritten_updateSlot m _
  | markerWrite i n =>
    dsimp only [Mgmt.cut]
    split
    · exact .same m
    · exact (flashWritten_updateSlot m i).trans (flashWritten_updateMarker _ _)

/-- Once an update has come to its marker its slot is written, and the booted one is as before. -/
theorem cut_markerWrite_slots {m : Mgmt} {b : Bool} (i : FlashImage) (n : Nat) (h : m.booted = some b) :
    (m.cut (.markerWrite i n)).slot (!b) = i ∧ (m.cut (.markerWrite i n)).slot b = m.slot b := by
  have cut : m.cut (.markerWrite i n) =
      (m.setSlot (!b) i).updateMarker (m.nextMarker.take n ++ List.replicate (32 - n) 0xFF) := by
    simp [Mgmt.cut, Mgmt.updateSlot, h]
  rw [cut, updateMarker_slot, updateMarker_slot]
  exact ⟨slot_setSlot_same m (!b) i, slot_setSlot_other m b i⟩

/-- An update's next marker copy names the slot that was not booted, with a SEQ one above that of the chosen copy. -/
theorem nextMarker_eq {m : Mgmt} {b : Bool} (h : m.booted = some b) : ∃ n, m.nextMarker = markerBytes n (!b) ∧
    ∀ k c, markerOf (if m.chosen then m.marker1 else m.marker0) = some (k, c) → n = k + 1 := by
  refine ⟨_, by rw [Mgmt.nextMarker, h]; rfl, fun k c hk => ?_⟩
  simp only [hk]

/-- A table that keeps some keys. -/
theorem Tab.get?_filter_key {α : Type} (t : Tab α) (f : Nat → Bool) (k : Nat) :
    Tab.get? (t.filter fun p => f p.1) k = if f k then t.get? k else none := by
  induction t with
  | nil => simp
  | cons p t ih =>
    obtain ⟨j, a⟩ := p
    by_cases hj : j = k
    · subst hj; cases h : f j <;> simp [Tab.get?, h, ih]
    · cases h : f j <;> simp [Tab.get?, h, ih, hj]

/-- Host memory is not the device's (R435): a loss of power keeps its bytes, and every other one reads as one never written. -/
theorem read_filter_hostAp (m : Memory) (pa : Nat) :
    Memory.read (m.filter fun p => isHostAp p.1) pa = if isHostAp pa then m.read pa else State.reset.mem.read pa := by
  unfold Memory.read Tab.getD
  rw [Tab.get?_filter_key m isHostAp]
  split <;> rfl

/-! ## Power (R438, R439) -/

/-- A condition that fails now has not held, whatever its time says. -/
theorem held100_false (s : State) (since : Nat) : s.held100 false since = false := rfl

theorem held100_iff (s : State) (now : Bool) (since : Nat) : s.held100 now since = true ↔ now = true ∧ since + 100000 ≤ s.ns := by
  simp [State.held100]

theorem markBusy_ps1 (s : State) : s.markBusy.ps1 = s.ps1 := by unfold State.markBusy; split <;> rfl
theorem markBusy_quiet (s : State) : s.markBusy.quiet = s.quiet := by unfold State.markBusy; split <;> rfl
theorem markBusy_still (s : State) : s.markBusy.still = s.still := by unfold State.markBusy; split <;> rfl
theorem markBusy_ns (s : State) : s.markBusy.ns = s.ns := by unfold State.markBusy; split <;> rfl
theorem markBusy_bar0 (s : State) : s.markBusy.mgmt.bar0 = s.mgmt.bar0 := by unfold State.markBusy; split <;> rfl

/-- Noting that a condition fails now changes no condition that has held. -/
theorem markBusy_held (s : State) : s.markBusy.held100 s.ps1 s.markBusy.mgmt.idleSince = s.held100 s.ps1 s.mgmt.idleSince ∧
    s.markBusy.held100 s.quiet s.markBusy.mgmt.quietSince = s.held100 s.quiet s.mgmt.quietSince ∧
    s.markBusy.held100 s.still s.markBusy.mgmt.stillSince = s.held100 s.still s.mgmt.stillSince := by
  unfold State.held100
  rw [markBusy_ns]
  unfold State.markBusy
  split
  · exact ⟨rfl, rfl, rfl⟩
  · rename_i busy
    simp only [State.modMgmt_mgmt, Bool.not_eq_true] at busy ⊢
    rw [busy]
    cases s.ps1 <;> cases s.quiet <;> simp

theorem markBusy_deepest (s : State) : s.markBusy.deepest = s.deepest := by
  obtain ⟨idle, quiet, still⟩ := markBusy_held s
  unfold State.deepest
  rw [markBusy_ps1, markBusy_quiet, markBusy_still, markBusy_bar0, idle, quiet, still]

/-- The deepest state, and what it asks for. -/
theorem deepest_spec (s : State) : s.deepest ≤ 4 ∧ (3 ≤ s.deepest → s.held100 s.quiet s.mgmt.quietSince = true) ∧
    (s.deepest = 4 → s.held100 s.still s.mgmt.stillSince = true) := by
  unfold State.deepest
  dsimp only
  split
  · simp
  split
  · simp
  split
  · simp
  rename_i hq
  have quiet : s.held100 s.quiet s.mgmt.quietSince = true := by
    simp only [Bool.or_eq_true, Bool.not_eq_true', not_or, Bool.not_eq_false] at hq; exact hq.2
  split
  · exact ⟨by decide, fun _ => quiet, fun h => absurd h (by decide)⟩
  · rename_i hs
    simp only [Bool.or_eq_true, Bool.not_eq_true', not_or, Bool.not_eq_false] at hs
    exact ⟨by decide, fun _ => quiet, fun _ => hs.2⟩

/-- The device enters the deepest state whose conditions have held. -/
theorem exec_powerStateEntry_held {s : State} (idle : s.ps1 = true) (since : s.mgmt.idleSince + 100000 ≤ s.ns) :
    exec .powerStateEntry s = .next (s.markBusy.modMgmt fun m => { m with power := s.deepest }) := by
  have held : s.markBusy.held100 s.markBusy.ps1 s.markBusy.mgmt.idleSince = true := by
    rw [markBusy_ps1, (markBusy_held s).1]; exact (held100_iff ..).2 ⟨idle, since⟩
  rw [← markBusy_deepest]
  show event (if _ then _ else _) = _
  exact event_if_pos held

theorem exec_powerStateEntry_busy {s : State} (busy : s.ps1 = false) : exec .powerStateEntry s =
    .next (s.modMgmt fun m => { m with idleSince := s.ns, quietSince := s.ns, stillSince := s.ns }) := by
  have quiet : s.quiet = false := by simp [State.quiet, busy]
  have still : s.still = false := by simp [State.still, quiet]
  have held : ¬ s.markBusy.held100 s.markBusy.ps1 s.markBusy.mgmt.idleSince = true := by
    rw [markBusy_ps1, busy, held100_false]; decide
  show event (if _ then _ else _) = _
  rw [if_neg held]
  simp [State.markBusy, still, busy, quiet, event]

/-! ## The patrol scrub (R446) -/

/-- An error that strikes changes no byte of memory, and the time of the scrub stays. -/
theorem strike_keeps (s : State) : s.strike.mem = s.mem ∧ s.strike.mgmt.lastScrub = s.mgmt.lastScrub := by
  unfold State.strike
  dsimp only
  repeat' split
  all_goals exact ⟨rfl, rfl⟩

end Sys2Proof.Machine

namespace Sys2Proof.Proofs
open Sys2Proof.Machine Sys2Proof.Safety

/-- A cold reset boots the reset state, with memory and the flash as they were. -/
theorem coldReset_leads (s : State) : ∃ t, Leads .coldReset s t ∧ t.mem = s.mem ∧ t.cycle = 0 ∧ t.ctxs = [] ∧ t.cards = [] ∧ t.tasks = [] ∧
    t.objs = [] ∧ (∀ p ∈ t.teams, p.2.fw = true) ∧ t.mgmt.fuseVersion = s.mgmt.fuseVersion ∧ t.mgmt.slotA = s.mgmt.slotA ∧
    t.mgmt.slotB = s.mgmt.slotB ∧
    (s.mgmt.keys = true → s.mgmt.verifies (s.mgmt.slot s.mgmt.choose.2) = true → t.mgmt.booted = some s.mgmt.choose.2) := by
  have keeps := boot_keeps s.coldStart rfl rfl
  exact ⟨_, exec_coldReset s, (congrArg State.mem keeps.state :), (congrArg State.cycle keeps.state :), (congrArg State.ctxs keeps.state :),
    (congrArg State.cards keeps.state :), (congrArg State.tasks keeps.state :), (congrArg State.objs keeps.state :), keeps.fw,
    (congrArg Mgmt.fuseVersion keeps.mgmt :), (congrArg Mgmt.slotA keeps.mgmt :), (congrArg Mgmt.slotB keeps.mgmt :),
    boot_of_verifies s.coldStart⟩

theorem powerLoss_leads (s : State) (cut : FlashCut) (b : Bool) :
    ∃ t, Leads (.powerLoss cut) s t ∧ (∀ pa, t.mem.read pa = if isHostAp pa then s.mem.read pa else State.reset.mem.read pa) ∧
      t.teams = [] ∧ t.ctxs = [] ∧ t.mgmt.fuseVersion = s.mgmt.fuseVersion ∧ t.mgmt.booted = none ∧
      (if s.mgmt.chosen then t.mgmt.marker1 = s.mgmt.marker1 else t.mgmt.marker0 = s.mgmt.marker0) ∧
      (∀ i n, cut = .markerWrite i n → s.mgmt.booted = some b → t.mgmt.slot (!b) = i ∧ t.mgmt.slot b = s.mgmt.slot b) ∧
      (cut = .idle → t.mgmt.slotA = s.mgmt.slotA ∧ t.mgmt.slotB = s.mgmt.slotB ∧ t.mgmt.marker0 = s.mgmt.marker0 ∧
        t.mgmt.marker1 = s.mgmt.marker1) := by
  have written := flashWritten_cut s.mgmt cut
  refine ⟨_, exec_powerLoss s cut, read_filter_hostAp s.mem, rfl, rfl, ?_, rfl, written.chosen, ?_, ?_⟩
  · show (s.mgmt.cut cut).fuseVersion = _
    rw [written.frame]
  · rintro i n rfl booted
    exact cut_markerWrite_slots i n booted
  · rintro rfl
    exact ⟨rfl, rfl, rfl, rfl⟩

theorem imageUpdate_leads (s : State) (i : FlashImage) (b : Bool) (booted : s.mgmt.booted = some b) :
    ∃ t, Leads (.imageUpdate i) s t ∧ t = { s with mgmt := t.mgmt } ∧ t.mgmt.slot (!b) = i ∧
      t.mgmt.slot b = s.mgmt.slot b ∧ t.mgmt.booted = some b ∧
      (if s.mgmt.chosen then t.mgmt.marker1 = s.mgmt.marker1 ∧ ∃ n, t.mgmt.marker0 = markerBytes n (!b) ∧
          ∀ m c, markerOf s.mgmt.marker1 = some (m, c) → n = m + 1
        else t.mgmt.marker0 = s.mgmt.marker0 ∧ ∃ n, t.mgmt.marker1 = markerBytes n (!b) ∧
          ∀ m c, markerOf s.mgmt.marker0 = some (m, c) → n = m + 1) := by
  have target : s.mgmt.updateSlot i = s.mgmt.setSlot (!b) i := by simp [Mgmt.updateSlot, booted]
  have slots := flashWritten_updateSlot s.mgmt i
  have written := flashWritten_updateMarker (s.mgmt.updateSlot i) s.mgmt.nextMarker
  obtain ⟨n, next, seq⟩ := nextMarker_eq booted
  refine ⟨s.modMgmt fun m => (m.updateSlot i).updateMarker m.nextMarker, ?_, rfl, ?_, ?_, ?_, ?_⟩
  · show event (if _ then _ else _) = _
    exact event_if_neg (by simp [booted])
  · rw [State.modMgmt_mgmt, updateMarker_slot, target, slot_setSlot_same]
  · rw [State.modMgmt_mgmt, updateMarker_slot, target, slot_setSlot_other]
  · rw [State.modMgmt_mgmt, written.frame, slots.frame]; exact booted
  · have markers := updateMarker_markers (s.mgmt.updateSlot i) s.mgmt.nextMarker
    have same : (s.mgmt.updateSlot i).chosen = s.mgmt.chosen ∧ (s.mgmt.updateSlot i).marker0 = s.mgmt.marker0 ∧
        (s.mgmt.updateSlot i).marker1 = s.mgmt.marker1 := by
      unfold Mgmt.updateSlot Mgmt.setSlot; split <;> exact ⟨rfl, rfl, rfl⟩
    obtain ⟨chosen, marker0, marker1⟩ := same
    rw [chosen, marker0, marker1] at markers
    rw [State.modMgmt_mgmt]
    split
    · rename_i on
      rw [if_pos on] at markers seq
      exact ⟨markers.1, n, markers.2.trans next, seq⟩
    · rename_i off
      rw [if_neg off] at markers seq
      exact ⟨markers.1, n, markers.2.trans next, seq⟩

theorem recoveryImage_leads (s : State) (i : FlashImage) (unbooted : s.mgmt.booted = none) (quiet : s.mgmt.alarm = false)
    (keys : s.mgmt.keys = true) (ok : s.mgmt.verifies i = true) :
    ∃ t, Leads (.recoveryImage i) s t ∧ t = (s.modMgmt fun m => { m with sigFails := 0 }).runImage s.mgmt.choose.2 i ∧
      t.mgmt.booted = some s.mgmt.choose.2 ∧ t.mgmt.image = i.body ∧ t.mem = s.mem := by
  have signed := signed_of_verifies ok
  have checked : s.checkSignature i = s.modMgmt fun m => { m with sigFails := 0 } := by
    rw [checkSignature_quiet (.inl signed)]; simp only [Mgmt.checked, signed, if_true]
  refine ⟨_, ?_, rfl, ?_, ?_, runImage_mem _ _ _⟩
  · show event (if _ then _ else _) = _
    rw [unbooted, quiet, keys, checked]
    show event (if s.mgmt.verifies i then _ else _) = _
    rw [if_pos ok]; rfl
  · rw [runImage_mgmt]; rfl
  · rw [runImage_mgmt]; rfl

/-- The files that an attestation report measures (R436): the image that booted, and every loaded overlay. -/
theorem attestationRequest_leads (s : State) : ∃ t, Leads .attestationRequest s t ∧ t = s.modMgmt (fun m => { m with report := t.mgmt.report }) ∧
    ∃ ms : List (BitVec 256), t.mgmt.report = (ms.flatMap fun x => natLe 32 x.toNat) ++ Config.attestationSignature ms ∧
      (s.mgmt.booted.isSome = true → Config.measurement s.mgmt.image ∈ ms) ∧
      ∀ core n o, core ∈ s.cores → core.2.overlay = some n → s.mgmt.overlays.get? n = some o →
        Config.measurement (o.flatMap fun p => natLe 16 p.2.toNat) ∈ ms := by
  refine ⟨_, rfl, rfl, _, rfl, fun booted => ?_, fun core n o hcore loaded file => ?_⟩
  · rw [if_pos booted]; simp
  · refine List.mem_map_of_mem (List.mem_append_right _ (List.mem_filterMap.2 ⟨n, ?_, by rw [file]; rfl⟩))
    rw [List.mem_eraseDups]
    exact List.mem_filterMap.2 ⟨core, hcore, loaded⟩

/-- Settles O54, clause by clause: each event is one operation of the management controller. -/
theorem resetBootAndPower : Obligations.ResetBootAndPower := by
  intro s i cut b
  have deep := deepest_spec s
  rw [held100_iff, held100_iff] at deep
  have scrubbed := strike_keeps (s.modMgmt fun m => { m with lastScrub := s.ns })
  exact ⟨coldReset_leads s, powerLoss_leads s cut b, ⟨_, rfl, rfl⟩, imageUpdate_leads s i b, recoveryImage_leads s i,
    attestationRequest_leads s, exec_powerStateEntry_held, exec_powerStateEntry_busy, deep, rfl, _, rfl, rfl, scrubbed.2, scrubbed.1⟩
end Sys2Proof.Proofs
end

section
/-! SUPPORT. Registers, contexts, jobs and overlays (R7, R59, R167, R170, R381, R422, R424): what the events about them leave. -/
namespace Sys2Proof.Machine

/-! ## BAR0 (R424, log 40) -/

theorem writeBar_ltol (s : State) (v : DWord) : s.writeBar 0 8 v = s.putBar 0 8 (v &&& 0xFFFFFF) := by simp [State.writeBar]
theorem writeBar_ltol_vf (s : State) {fn : Nat} (v : DWord) (hf : fn ≤ 16) (h : fn ≠ 0) : s.writeBar fn 8 v = s := by
  simp [State.writeBar, Nat.not_lt.2 hf, h]
theorem writeBar_window (s : State) {fn : Nat} (v : DWord) (hf : fn ≤ 16) : s.writeBar fn 0x400 v = s.putBar fn 0x400 (v &&& 0xFFFFFFFFF) := by
  simp [State.writeBar, Nat.not_lt.2 hf]

theorem readBar_funcid (s : State) {fn : Nat} (hf : fn ≤ 16) : s.readBar fn 0 = BitVec.ofNat 64 fn := by
  simp [State.readBar, Nat.not_lt.2 hf]
theorem readBar_status (s : State) {fn : Nat} (hf : fn ≤ 16) :
    s.readBar fn 0x10 = BitVec.ofNat 64 ((if s.mgmt.alarm then 1 else 0) + s.mgmt.power % 8 * 2) := by
  simp [State.readBar, Nat.not_lt.2 hf]
theorem readBar_ltol_vf (s : State) {fn : Nat} (hf : fn ≤ 16) (h : fn ≠ 0) : s.readBar fn 8 = 0 := by
  simp [State.readBar, Nat.not_lt.2 hf, h]
theorem readBar_window (s : State) {fn : Nat} (hf : fn ≤ 16) : s.readBar fn 0x400 = s.mgmt.bar0.getD (2 ^ 20 * fn + 0x400) 0 := by
  simp [State.readBar, Nat.not_lt.2 hf]
theorem readBar_putBar_window (s : State) {fn : Nat} (v : DWord) (hf : fn ≤ 16) : (s.putBar fn 0x400 v).readBar fn 0x400 = v := by
  rw [readBar_window _ hf, State.putBar, State.modMgmt_mgmt]
  simp [Tab.getD_store]

/-- A function's queue is one of the device's 256. -/
theorem barQueue_lt {s : State} {fn k q : Nat} (h : s.barQueue fn k = some q) : k < 256 := by
  unfold State.barQueue at h
  dsimp only at h
  split at h
  · rename_i hk
    simp only [Bool.and_eq_true, decide_eq_true_eq] at hk
    omega
  · cases h

/-- The last word of a command queue's descriptor holds its indices. -/
theorem readBar_indices {s : State} {fn k q : Nat} (hf : fn ≤ 16) (h : s.barQueue fn k = some q) :
    s.readBar fn (0x10000 + 32 * k + 24) = (s.mgmt.cmd q).rdidx ++ (s.mgmt.cmd q).wridx := by
  have lt := barQueue_lt h
  have index : (0x10000 + 32 * k + 24 - 0x10000) / 32 = k := by omega
  have part : (0x10000 + 32 * k + 24) % 32 / 8 = 3 := by omega
  unfold State.readBar
  dsimp only
  rw [index, part, h, if_neg (by omega), if_neg (by omega), if_neg (by omega), if_neg (by simp; omega), if_neg (by simp; omega),
    if_pos (by simp; omega)]
  rfl

/-! ## CSRs (R59, R70, R71, R72, R428) -/

/-- A word below 8 has no bits outside the mask of DROOPCFG. -/
theorem and_seven {x : Word} (h : x.toNat < 8) : x &&& 7 = x := by
  apply BitVec.eq_of_toNat_eq
  rw [BitVec.toNat_and, show (7 : Word).toNat = 2 ^ 3 - 1 from rfl, Nat.and_two_pow_sub_one_eq_mod]
  exact Nat.mod_eq_of_lt h

theorem csrWrite_droopcfg {s : State} {v : CsrView} {w : Word} (old : ((s.core v.core).csr.getD 0x800 0).toNat < 8) (new : w.toNat < 8) :
    s.csrWrite v 0x800 w =
      if 2 ≤ w.toNat ∧ w.toNat ≤ 6 then s.modCore v.core fun c => { c with csr := Tab.store 0 c.csr 0x800 w } else s := by
  have rest : (s.core v.core).csr.getD 0x800 0 &&& ~~~(7 : Word) = 0 := by
    rw [← and_seven old, BitVec.and_assoc]; simp
  have kept : w &&& 7 = w := and_seven new
  have word : (w ||| 0) &&& ~~~(w &&& 0 &&& ~~~(0 : Word)) = w := by
    simp only [BitVec.ofNat_eq_ofNat]
    rw [BitVec.and_zero, BitVec.zero_and, BitVec.or_zero, BitVec.not_zero, BitVec.and_allOnes]
  have mask : csrMask 0x800 = 7 := rfl
  have w1c : csrW1C 0x800 = 0 := rfl
  unfold State.csrWrite
  dsimp only
  rw [csrValue_droopcfg, mask, w1c, if_neg (by decide), if_neg (by decide), if_neg (by decide), rest, kept, word]
  simp [State.csrPut]

theorem csrWrite_status (s : State) {v : CsrView} {u : Team} (w : Word) (hu : s.team? v.tid = some u) : s.csrWrite v 0x008 w =
    s.modTeam v.tid fun t => { t with status := u.status &&& ~~~(w.setWidth 16 &&& ~~~u.fresh) } := by
  have mask : csrMask 0x008 = 0 := rfl
  have w1c : csrW1C 0x008 = 0xFFFF := rfl
  have value : s.csrValue v 0x008 = u.status.setWidth 32 := by simp [State.csrValue, hu, Team.csr]
  have bits : (((w &&& 0) ||| (u.status.setWidth 32 &&& ~~~(0 : Word))) &&& ~~~(w &&& 0xFFFF &&& ~~~(u.fresh.setWidth 32))).setWidth 16 =
      u.status &&& ~~~(w.setWidth 16 &&& ~~~u.fresh) := by
    have low : (65535#32).setWidth 16 = BitVec.allOnes 16 := rfl
    simp only [BitVec.ofNat_eq_ofNat]
    rw [BitVec.and_zero, BitVec.zero_or, BitVec.not_zero, BitVec.and_allOnes, BitVec.setWidth_and, BitVec.setWidth_not (by decide),
      BitVec.setWidth_and, BitVec.setWidth_and, BitVec.setWidth_not (by decide), low, BitVec.and_allOnes,
      BitVec.setWidth_setWidth_of_le _ (by decide), BitVec.setWidth_setWidth_of_le _ (by decide), BitVec.setWidth_eq, BitVec.setWidth_eq]
  unfold State.csrWrite
  dsimp only
  rw [value, mask, w1c, hu, if_neg (by decide), if_neg (by decide), if_pos rfl]
  show State.csrPut _ _ _ _ = _
  unfold State.csrPut
  rw [if_pos rfl, bits]

theorem apInvalidate_drops (s : State) (die : Nat) (w : Word) : ((s.apInvalidate die w).die die).apcache.get? w.toNat = none := by
  simp [State.apInvalidate]

/-! ## Contexts (R98, R167, R173, R183) -/

theorem decide_bit0 {n : Nat} (x : BitVec n) : decide (bits x.toNat 0 1 = 1) = x.getLsbD 0 := by
  simp [bits, BitVec.getLsbD, Nat.testBit_zero]

/-- A cluster whose tensor descriptors of a context are invalid. -/
def Cluster.dropDescs (c : Cluster) (ctx : Nat) : Cluster := { c with tdesc := c.tdesc.filter fun d => decide (d.1 / 64 ≠ ctx) }

/-- The state with a context's entry made valid and its tensor descriptors invalid. -/
def State.contextMade (s : State) (ctx : Nat) (entry : BitVec 512) : State :=
  { s.modCtx ctx fun c => { c with entry := entry ||| 1 } with clus := s.clus.map fun p => (p.1, p.2.dropDescs ctx) }

theorem exec_contextCreation (s : State) {ctx : Nat} (entry : BitVec 512) (h : ctx < 64) : exec (.contextCreation ctx entry) s =
    .next (if (s.ctx ctx).entry.getLsbD 0 || !entryOk entry.toNat (s.clustersOf ctx).length then s else s.contextMade ctx entry) := by
  show event (if (decide (ctx ≥ 64) || decide (bits (s.ctx ctx).entry.toNat 0 1 = 1) || _) = true then s else s.contextMade ctx entry) = _
  rw [decide_bit0, decide_eq_false (Nat.not_le.2 h), Bool.false_or]
  rfl

theorem contextMade_ctx (s : State) (ctx k : Nat) (entry : BitVec 512) :
    (s.contextMade ctx entry).ctx k = if ctx = k then { s.ctx ctx with entry := entry ||| 1 } else s.ctx k :=
  State.ctx_modCtx s ctx k fun c => { c with entry := entry ||| 1 }

theorem contextMade_tdesc (s : State) (ctx : Nat) (entry : BitVec 512) (clu : Nat) {i : Nat} (hi : i < 64) :
    ((s.contextMade ctx entry).clu clu).tdesc.getD (64 * ctx + i) 0 = 0 := by
  have mine : (64 * ctx + i) / 64 = ctx := by omega
  have listed : (s.contextMade ctx entry).clus.get? clu = (s.clus.get? clu).map (·.dropDescs ctx) :=
    Tab.get?_map s.clus (·.dropDescs ctx) clu
  rw [State.clu, Tab.getD, Tab.getD, listed]
  cases s.clus.get? clu with
  | none => rfl
  | some c =>
    show ((Tab.get? (c.tdesc.filter fun d => decide (d.1 / 64 ≠ ctx)) (64 * ctx + i)).getD 0) = 0
    rw [Tab.get?_filter_key c.tdesc fun k => decide (k / 64 ≠ ctx)]
    simp [mine]

/-- Freeing an object takes it off its table, with its watch entries. -/
theorem freeObject_eq (s : State) (obj : Nat) :
    s.freeObject obj = { s with watch := (s.freeObject obj).watch, objs := s.objs.del obj, dir := (s.freeObject obj).dir } := by
  unfold State.freeObject
  dsimp only
  refine List.foldlRecOn (motive := fun t : State => t = { s with watch := t.watch, objs := s.objs.del obj, dir := t.dir }) _ _ rfl ?_
  intro t ht line _
  split
  · exact ht
  · rw [ht]; rfl

theorem freeObject_ctxs (s : State) (obj : Nat) : (s.freeObject obj).ctxs = s.ctxs := by rw [freeObject_eq]
theorem freeObject_mem (s : State) (obj : Nat) : (s.freeObject obj).mem = s.mem := by rw [freeObject_eq]
theorem freeObject_objs (s : State) (obj : Nat) : (s.freeObject obj).objs = s.objs.del obj := by rw [freeObject_eq]

/-- The objects of some entries of the table are freed: nothing else of contexts and memory changes, and no freed number is listed. -/
theorem foldl_freeObject (ps : Tab Obj) (s : State) : let t := ps.foldl (fun s p => s.freeObject p.1) s
    t.ctxs = s.ctxs ∧ t.mem = s.mem ∧ ∀ o q, t.objs.get? o = some q → s.objs.get? o = some q ∧ ∀ p ∈ ps, p.1 ≠ o := by
  induction ps generalizing s with
  | nil => exact ⟨rfl, rfl, fun o q h => ⟨h, by simp⟩⟩
  | cons p ps ih =>
    obtain ⟨ctxs, mem, objs⟩ := ih (s.freeObject p.1)
    refine ⟨ctxs.trans (freeObject_ctxs s p.1), mem.trans (freeObject_mem s p.1), fun o q h => ?_⟩
    obtain ⟨listed, rest⟩ := objs o q h
    rw [freeObject_objs, Tab.get?_del] at listed
    split at listed
    · cases listed
    · rename_i ne
      exact ⟨listed, List.forall_mem_cons.2 ⟨ne, rest⟩⟩

/-- The state in which a context's VALID is 0, and that in which its objects are freed too. -/
def State.contextClosed (s : State) (ctx : Nat) : State := s.modCtx ctx fun c => { c with entry := c.entry &&& ~~~1 }
def State.contextEnded (s : State) (ctx : Nat) : State :=
  (s.objs.filter fun p => p.2.ctx = ctx).foldl (fun s p => s.freeObject p.1) (s.contextClosed ctx)

theorem exec_contextDestruction (s : State) {ctx : Nat} (h : ctx < 64) : exec (.contextDestruction ctx) s = .next (s.contextEnded ctx) := by
  show event (if _ then _ else _) = _
  exact event_if_neg (Nat.not_le.2 h)

/-- A context that ends keeps its entry's other fields, and no object of its own stays listed. -/
theorem contextEnded_spec (s : State) (ctx : Nat) : ((s.contextEnded ctx).ctx ctx).entry = (s.ctx ctx).entry &&& ~~~1 ∧
    (∀ o q, (s.contextEnded ctx).objs.get? o = some q → q.ctx ≠ ctx ∨ s.objs.get? o ≠ some q) ∧ (s.contextEnded ctx).mem = s.mem := by
  obtain ⟨ctxs, mem, objs⟩ := foldl_freeObject (s.objs.filter fun p => p.2.ctx = ctx) (s.contextClosed ctx)
  refine ⟨?_, fun o q listed => ?_, mem⟩
  · have closed : (s.contextEnded ctx).ctx ctx = (s.contextClosed ctx).ctx ctx := congrArg (Tab.getD · ctx Context.reset) ctxs
    rw [closed, State.contextClosed, State.ctx_modCtx_self]
  · by_cases hq : q.ctx = ctx
    · exact .inr fun ho => (objs o q listed).2 (o, q) (List.mem_filter.2 ⟨Tab.mem_of_get? ho, by simpa using hq⟩) rfl
    · exact .inl hq

/-! ## Jobs (R383, R422) -/

/-- The state in which an overdue job has been posted again in class 5. -/
def State.reposted (s : State) (die cls idx : Nat) (j : Job) : State :=
  ((s.modJob die cls idx fun j => { j with reposted := true }).wake).postJob die 5
    (BitVec.ofNat 32 (Cause.watchdog.toNat + (s.jobPlace cls j).1 % 64 * 2 ^ 8 + (s.jobPlace cls j).2 % 64 * 2 ^ 14))
    (BitVec.ofNat 32 cls) (BitVec.ofNat 32 idx) 0 0 none

theorem exec_jobWatchdog {s : State} {die cls idx : Nat} {j : Job} (found : ((s.die die).jobs.getD cls []).find? (fun j => j.idx = idx) = some j)
    (unclaimed : j.claimed = false) (once : j.reposted = false) (class_ : cls < 8) (late : j.posted + 1000000 ≤ s.ns)
    (room : s.jobRoom die 5 = true) : exec (.jobWatchdog die cls idx) s = .next (s.reposted die cls idx j) := by
  show execJobWatchdog die cls idx s = _
  unfold execJobWatchdog
  rw [found]
  simp only [unclaimed, once, room, Nat.not_le.2 class_, Nat.not_lt.2 late, decide_false, Bool.or_false, Bool.not_true, Bool.false_eq_true,
    if_false]
  rfl

/-- A posting stands at the end of its class. -/
theorem postJob_jobs (s : State) (die cls : Nat) (w1 w2 w3 : Word) (team path : Nat) (card : Option Nat) :
    ((s.postJob die cls w1 w2 w3 team path card).die die).jobs.getD cls [] = (s.die die).jobs.getD cls [] ++
      [⟨(s.die die).nextJob, w1, w2, w3, false, s.ns, false, team, path, card⟩] := by
  unfold State.postJob
  rw [State.die_modDie_self]
  exact Tab.getD_put_self _ _ _ _

/-! ## Overlays (R256, R381) -/

/-- A path that waits for overlay `n` enters it; the way back stands in s30 and s31. -/
def State.enterOverlay (caller n tid : Nat) (u : Team) (s : State) (p : Nat × Path) : State :=
  if p.2.st = PathSt.parked (.overlay n) then
    ((s.endWait tid p.1 u p.2).2.modTeam tid fun t => t.linkOverlay caller (p.2.pc / 16 * 16)).modPath tid p.1
      fun q => q.goOn (s.endWait tid p.1 u p.2).1
  else s

theorem exec_overlayLoadComplete {s : State} {core n : Nat} (hc : core < Config.cores) (listed : (s.mgmt.overlays.get? n).isSome = true) :
    exec (.overlayLoadComplete core n) s = .next ((s.teams.filter fun p => p.2.fw && p.2.core = core).foldl
      (fun t q => q.2.paths.foldl (State.enterOverlay (s.overlayOf core) n q.1 q.2) t) (s.modCore core fun c => { c with overlay := some n })) := by
  show event (if _ then _ else _) = _
  exact event_if_pos (by simp [hc, listed])

/-- The wait of a firmware team's path ends with bookkeeping alone: no SYNC is due, since firmware teams are not traced (log 33). -/
theorem endWait_books (s : State) (tid pid : Nat) {u : Team} (p : Path) (fw : u.fw = true) : BooksOnly tid s (s.endWait tid pid u p).2 := by
  have sync : s.syncDue u p = false := by simp [State.syncDue, State.traced, fw]
  have spent : BooksOnly tid s (if decide (u.place = .resident) then s.spend u (passes p) 0 else s) := by
    split
    · exact (countsOnly_spend s u (passes p) 0).booksOnly tid
    · exact .same tid s
  unfold State.endWait
  dsimp only
  rw [sync, if_neg Bool.false_ne_true]
  split
  · exact spent
  · exact spent.trans (booksOnly_enterOutst _ tid _ _ _)

/-- The entry of an overlay changes no memory and no core's firmware store. -/
theorem enterOverlay_keeps (caller n tid : Nat) {u : Team} (s : State) (p : Nat × Path) (fw : u.fw = true) :
    (State.enterOverlay caller n tid u s p).mem = s.mem ∧
    ∀ k, ((State.enterOverlay caller n tid u s p).core k).overlay = (s.core k).overlay := by
  have books := endWait_books s tid p.1 p.2 fw
  unfold State.enterOverlay
  split
  · refine ⟨?_, fun k => ?_⟩
    · show (s.endWait tid p.1 u p.2).2.mem = s.mem
      rw [books.state]
    · show ((s.endWait tid p.1 u p.2).2.core k).overlay = _
      rw [books.core k]
  · exact ⟨rfl, fun _ => rfl⟩

theorem overlayLoaded_keeps (s : State) (core caller n : Nat) (ts : Tab Team) (fw : ∀ q ∈ ts, q.2.fw = true) :
    let t := ts.foldl (fun s q => q.2.paths.foldl (State.enterOverlay caller n q.1 q.2) s) (s.modCore core fun c => { c with overlay := some n })
    (t.core core).overlay = some n ∧ t.mem = s.mem := by
  refine List.foldlRecOn (motive := fun t : State => (t.core core).overlay = some n ∧ t.mem = s.mem) ts _ (by simp) ?_
  intro t ht q hq
  refine List.foldlRecOn (motive := fun t : State => (t.core core).overlay = some n ∧ t.mem = s.mem) q.2.paths _ ht ?_
  intro t ⟨overlay, mem⟩ p _
  obtain ⟨mem', overlay'⟩ := enterOverlay_keeps caller n q.1 t p (fw q hq)
  exact ⟨(overlay' core).trans overlay, mem'.trans mem⟩

/-- Where no path waits for the overlay, nothing but the store changes. -/
theorem overlayLoaded_unawaited (s : State) (caller n : Nat) (ts : Tab Team)
    (idle : ∀ q ∈ ts, ∀ p ∈ q.2.paths, p.2.st ≠ .parked (.overlay n)) :
    ts.foldl (fun s q => q.2.paths.foldl (State.enterOverlay caller n q.1 q.2) s) s = s := by
  refine List.foldlRecOn (motive := (· = s)) ts _ rfl fun t ht q hq => ?_
  refine List.foldlRecOn (motive := (· = s)) q.2.paths _ ht fun t ht p hp => ?_
  rw [State.enterOverlay, if_neg (idle q hq p hp), ht]

/-- The way back of a firmware call (R381). -/
theorem linkOverlay_sregs (t : Team) (caller bundle : Nat) :
    (t.linkOverlay caller bundle).sreg 30 = BitVec.ofNat 32 caller ∧ (t.linkOverlay caller bundle).sreg 31 = BitVec.ofNat 32 (bundle + 16) := by
  simp [Team.linkOverlay, Team.setS, Team.sreg, Tab.getD_store]

/-- The team and the path that enter an overlay. -/
theorem enterOverlay_enters {caller n tid idx : Nat} {u : Team} {p : Path} {s : State} (fw : u.fw = true) (hu : s.team? tid = some u)
    (hp : u.paths.get? idx = some p) (waits : p.st = .parked (.overlay n)) :
    ∃ u' p', (State.enterOverlay caller n tid u s (idx, p)).team? tid = some u' ∧ u'.paths.get? idx = some p' ∧ p'.pc = p.waitPc ∧
      p'.st = .ready ∧ u'.sreg 30 = BitVec.ofNat 32 caller ∧ u'.sreg 31 = BitVec.ofNat 32 (p.pc / 16 * 16 + 16) := by
  obtain ⟨o, fl, ended⟩ := (endWait_books s tid idx p fw).own u hu
  obtain ⟨s30, s31⟩ := linkOverlay_sregs { u with outst := o, flaws := fl } caller (p.pc / 16 * 16)
  refine ⟨{ Team.linkOverlay { u with outst := o, flaws := fl } caller (p.pc / 16 * 16) with
    paths := u.paths.modify idx fun q => q.goOn (s.endWait tid idx u p).1 }, p.goOn (s.endWait tid idx u p).1, ?_, ?_, rfl, rfl, s30, s31⟩
  · rw [State.enterOverlay, if_pos waits, State.team_modPath, if_pos rfl, State.team_modTeam, if_pos rfl, ended]
    rfl
  · show Tab.get? (Tab.modify u.paths idx _) idx = _
    rw [Tab.get?_modify, if_pos rfl, hp]
    rfl

end Sys2Proof.Machine

namespace Sys2Proof.Proofs
open Sys2Proof.Machine Sys2Proof.Safety

theorem readBar_returns (s : State) {fn : Nat} (v : DWord) (hf : fn ≤ 16) : s.readBar fn 0 = BitVec.ofNat 64 fn ∧
    s.readBar fn 0x10 = BitVec.ofNat 64 ((if s.mgmt.alarm then 1 else 0) + s.mgmt.power % 8 * 2) ∧ (fn ≠ 0 → s.readBar fn 8 = 0) ∧
    (s.putBar fn 0x400 v).readBar fn 0x400 = v ∧ ∀ k q, s.barQueue fn k = some q →
      s.readBar fn (0x10000 + 32 * k + 24) = (s.mgmt.cmd q).rdidx ++ (s.mgmt.cmd q).wridx :=
  ⟨readBar_funcid s hf, readBar_status s hf, readBar_ltol_vf s hf, readBar_putBar_window s v hf, fun _ _ => readBar_indices hf⟩

theorem csr_leads (s : State) {core : Nat} (n : Nat) (v : DWord) (hc : core < Config.cores) : Leads (.registerWrite (.csr core n) v) s
    (s.csrWrite ⟨core, s.seq, s.ctxSel (dieOfCore core)⟩ n (v.setWidth 32)) := by
  show event (if _ then _ else _) = _
  exact event_if_pos hc

theorem droopcfgWrite_leads (s : State) {core : Nat} (w : Word) (hc : core < Config.cores) (old : ((s.core core).csr.getD 0x800 0).toNat < 8) :
    (2 ≤ w.toNat → w.toNat ≤ 6 → Leads (.droopcfgWrite core w) s (s.modCore core fun c => { c with csr := Tab.store 0 c.csr 0x800 w })) ∧
    (w = 0 ∨ w = 1 ∨ w = 7 → Leads (.droopcfgWrite core w) s s) := by
  have written : exec (.droopcfgWrite core w) s = .next (s.csrWrite ⟨core, s.seq, 0⟩ 0x800 w) := by
    show event (if _ then _ else _) = _
    exact event_if_pos hc
  refine ⟨fun lo hi => written.trans ?_, fun hw => written.trans ?_⟩
  · rw [csrWrite_droopcfg old (by omega), if_pos ⟨lo, hi⟩]
  · have ignored : w.toNat < 8 ∧ ¬ (2 ≤ w.toNat ∧ w.toNat ≤ 6) := by
      rcases hw with rfl | rfl | rfl <;> decide
    rw [csrWrite_droopcfg old ignored.1, if_neg ignored.2]

theorem apinv_leads (s : State) {die : Nat} (w : Word) (hd : die < Config.dies) :
    ∃ t, Leads (.apinv die w) s t ∧ (t.die die).apcache.get? w.toNat = none ∧ t.mem = s.mem := by
  refine ⟨s.apInvalidate die w, ?_, apInvalidate_drops s die w, rfl⟩
  show event (if _ then _ else _) = _
  exact event_if_pos hd

theorem statusClear_leads (s : State) {team : Nat} (w : Word) (u : Team) (hu : s.team? team = some u) :
    ∃ t, Leads (.statusClear team w) s t ∧ t = { s with teams := t.teams } ∧
      t.team? team = some { u with status := u.status &&& ~~~(w.setWidth 16 &&& ~~~u.fresh) } := by
  refine ⟨s.csrWrite ⟨u.core, team, u.ctx⟩ 0x008 w, ?_, ?_, ?_⟩
  · show event _ = _
    rw [hu]; rfl
  · rw [csrWrite_status s w hu]; rfl
  · rw [csrWrite_status s w hu, State.team_modTeam, if_pos rfl, hu]; rfl

theorem latchingRead_leads (s : State) {team csr : Nat} (u : Team) (hu : s.team? team = some u) (low : csr = 0x000 ∨ csr = 0x002) :
    ∃ t, Leads (.latchingRead team csr) s t ∧ t = { s with teams := t.teams } ∧
      t.team? team = some (if csr = 0 then { u with cycleh := BitVec.ofNat 32 (s.cycle / 2 ^ 32) }
        else { u with timeh := BitVec.ofNat 32 (s.ns / 2 ^ 32) }) := by
  have read : exec (.latchingRead team csr) s = .next (s.csrLatch ⟨u.core, team, u.ctx⟩ csr) := by
    show event _ = _
    rw [hu]
    rcases low with rfl | rfl <;> rfl
  refine ⟨_, read, ?_⟩
  rcases low with rfl | rfl
  · exact ⟨rfl, by rw [State.csrLatch, if_pos rfl, State.team_modTeam, if_pos rfl, hu]; rfl⟩
  · exact ⟨rfl, by rw [State.csrLatch, if_neg (by decide), if_pos rfl, State.team_modTeam, if_pos rfl, hu]; rfl⟩

theorem contextCreation_leads (s : State) {ctx : Nat} (e : BitVec 512) (hc : ctx < 64) (invalid : (s.ctx ctx).entry.getLsbD 0 = false)
    (sound : entryOk e.toNat (s.clustersOf ctx).length = true) :
    ∃ t, Leads (.contextCreation ctx e) s t ∧ (t.ctx ctx).entry = e ||| 1 ∧ (∀ k, k ≠ ctx → t.ctx k = s.ctx k) ∧ t.mem = s.mem ∧
      ∀ clu i, i < 64 → (t.clu clu).tdesc.getD (64 * ctx + i) 0 = 0 := by
  refine ⟨s.contextMade ctx e, ?_, ?_, fun k hk => ?_, rfl, fun clu i => contextMade_tdesc s ctx e clu⟩
  · rw [Leads, exec_contextCreation s e hc, invalid, sound]; rfl
  · rw [contextMade_ctx, if_pos rfl]
  · rw [contextMade_ctx, if_neg (Ne.symm hk)]

theorem contextCreation_refused (s : State) {ctx : Nat} (e : BitVec 512) (hc : ctx < 64)
    (broken : (s.ctx ctx).entry.getLsbD 0 = true ∨ entryOk e.toNat (s.clustersOf ctx).length = false) : Leads (.contextCreation ctx e) s s := by
  rw [Leads, exec_contextCreation s e hc]
  rcases broken with valid | unsound
  · rw [valid]; rfl
  · rw [unsound, Bool.not_false, Bool.or_true]; rfl

theorem poolConfiguration_leads (s : State) {ctx pool : Nat} (e : BitVec 512) (hc : ctx < 64) (hp : pool < 64)
    (open_ : bits (s.poolEntry ctx pool) 0 1 = 0 ∨ e.getLsbD 0 = false) : Leads (.poolConfiguration ctx pool e) s
      ((s.engineWrite 0 ctx (atAddr (s.poolAddr ctx pool) (natLe 64 e.toNat))).2.modCtx ctx fun c => { c with rr := c.rr.put pool 0 }) := by
  show event (if _ then _ else _) = _
  refine event_if_neg ?_
  rcases open_ with h | h <;> rw [h] <;> simp [Nat.not_le.2 hc, Nat.not_le.2 hp]

theorem poolConfiguration_refused (s : State) {ctx pool : Nat} (e : BitVec 512) (valid : bits (s.poolEntry ctx pool) 0 1 = 1)
    (stays : e.getLsbD 0 = true) : Leads (.poolConfiguration ctx pool e) s s := by
  show event (if _ then _ else _) = _
  exact event_if_pos (by simp [valid, stays])

theorem jobWatchdog_leads (s : State) {die cls idx : Nat} (j : Job) (found : ((s.die die).jobs.getD cls []).find? (fun j => j.idx = idx) = some j)
    (unclaimed : j.claimed = false) (once : j.reposted = false) (class_ : cls < 8) (late : j.posted + 1000000 ≤ s.ns)
    (room : s.jobRoom die 5 = true) : ∃ (t : State) (js : List Job) (k : Job), Leads (.jobWatchdog die cls idx) s t ∧
      (t.die die).jobs.getD 5 [] = js ++ [k] ∧ (∀ c u, s.jobPlace cls j = (c, u) →
        k.w1 = BitVec.ofNat 32 (Cause.watchdog.toNat + c % 64 * 2 ^ 8 + u % 64 * 2 ^ 14)) ∧ k.w2 = BitVec.ofNat 32 cls ∧
      k.w3 = BitVec.ofNat 32 idx ∧ k.claimed = false ∧ t.mem = s.mem := by
  refine ⟨_, _, _, exec_jobWatchdog found unclaimed once class_ late room, postJob_jobs _ _ _ _ _ _ _ _ _, fun c u place => ?_, rfl, rfl, rfl, rfl⟩
  show BitVec.ofNat 32 (_ + (s.jobPlace cls j).1 % 64 * _ + (s.jobPlace cls j).2 % 64 * _) = _
  rw [place]

theorem overlayLoadComplete_leads (s : State) {core n : Nat} (team idx : Nat) (hc : core < Config.cores)
    (listed : (s.mgmt.overlays.get? n).isSome = true) :
    (∃ t, Leads (.overlayLoadComplete core n) s t ∧ (t.core core).overlay = some n ∧ t.mem = s.mem) ∧
    ((∀ q ∈ s.teams, q.2.fw = true → q.2.core = core → ∀ p ∈ q.2.paths, p.2.st ≠ .parked (.overlay n)) →
      Leads (.overlayLoadComplete core n) s (s.modCore core fun c => { c with overlay := some n })) ∧
    ∀ u p, s.teams = [(team, u)] → u.fw = true → u.core = core → u.place = .resident → u.paths = [(idx, p)] →
      p.st = .parked (.overlay n) → ∃ t u' p', Leads (.overlayLoadComplete core n) s t ∧ t.team? team = some u' ∧
        u'.paths.get? idx = some p' ∧ p'.pc = p.waitPc ∧ p'.st = .ready ∧ u'.sreg 30 = BitVec.ofNat 32 (s.overlayOf core) ∧
        u'.sreg 31 = BitVec.ofNat 32 (p.pc / 16 * 16 + 16) := by
  have loaded := exec_overlayLoadComplete hc listed
  refine ⟨⟨_, loaded, overlayLoaded_keeps s core _ n _ fun q hq => ?_⟩, fun idle => loaded.trans ?_, ?_⟩
  · obtain ⟨fw, -⟩ : q.2.fw = true ∧ q.2.core = core := by simpa using (List.mem_filter.1 hq).2
    exact fw
  · rw [overlayLoaded_unawaited]
    intro q hq
    obtain ⟨hq, mine⟩ := List.mem_filter.1 hq
    obtain ⟨fw, here⟩ : q.2.fw = true ∧ q.2.core = core := by simpa using mine
    exact idle q hq fw here
  · intro u p teams fw here _ paths waits
    have own : s.team? team = some u := by simp [State.team?, teams, Tab.get?]
    have path : u.paths.get? idx = some p := by simp [paths, Tab.get?]
    obtain ⟨u', p', entered⟩ := enterOverlay_enters (caller := s.overlayOf core) (n := n)
      (s := s.modCore core fun c => { c with overlay := some n }) fw own path waits
    have only : (s.teams.filter fun p => p.2.fw && p.2.core = core) = [(team, u)] := by simp [teams, fw, here]
    rw [only, List.foldl_cons, List.foldl_nil, paths, List.foldl_cons, List.foldl_nil] at loaded
    exact ⟨_, u', p', loaded, entered⟩

/-- Settles O55, clause by clause. -/
theorem registersContextsAndJobs : Obligations.RegistersContextsAndJobs := by
  intro s core die team csr ctx pool cls idx n fn v w e
  exact ⟨congrArg event (writeBar_ltol s v), fun hf h => congrArg event (writeBar_ltol_vf s v hf h), fun hf => congrArg event (writeBar_window s v hf),
    readBar_returns s v, csr_leads s n v, droopcfgWrite_leads s w, apinv_leads s w, statusClear_leads s w, latchingRead_leads s,
    contextCreation_leads s e, contextCreation_refused s e,
    fun hc => ⟨_, exec_contextDestruction s hc, contextEnded_spec s ctx⟩, poolConfiguration_leads s e,
    fun _ _ => poolConfiguration_refused s e, jobWatchdog_leads s, overlayLoadComplete_leads s team idx⟩
end Sys2Proof.Proofs
end

section
/-! SUPPORT. The lanes of a mask (R10, R22) and the registers that a result changes (R22, R50–R52, R258). -/
namespace Sys2Proof.Machine
open Sys2Proof.Safety

/-! ## Lanes -/

theorem lt_of_getLsbD_mask {m : LaneMask} {l : Nat} (h : m.getLsbD l = true) : l < 1024 := by
  refine Nat.lt_of_not_le fun out => ?_
  rw [BitVec.getLsbD_of_ge m l out] at h
  cases h

theorem getLsbD_wordOfMask (m : LaneMask) (w : Nat) {i : Nat} (hi : i < 32) : (wordOfMask m w).getLsbD i = m.getLsbD (32 * w + i) := by
  simp [wordOfMask, hi]

theorem mem_wordsOf {m : LaneMask} {w : Nat} : w ∈ wordsOf m ↔ w < 32 ∧ wordOfMask m w ≠ 0 := by simp [wordsOf]

/-- A lane stands in the word that it lies in. -/
theorem mem_lanesOf {m : LaneMask} {l : Nat} : l ∈ lanesOf m ↔ m.getLsbD l = true := by
  simp only [lanesOf, List.mem_flatMap, List.mem_filter, List.mem_map, List.mem_range]
  constructor
  · rintro ⟨_, _, _, set⟩; exact set
  · intro set
    have := lt_of_getLsbD_mask set
    have place : 32 * (l / 32) + l % 32 = l := Nat.div_add_mod l 32
    refine ⟨l / 32, mem_wordsOf.2 ⟨by omega, fun empty => ?_⟩, ⟨l % 32, by omega, place⟩, set⟩
    have bit := getLsbD_wordOfMask m (l / 32) (i := l % 32) (by omega)
    rw [place, set, empty] at bit
    simp at bit

theorem lanesOf_lt {m : LaneMask} {l : Nat} (h : l ∈ lanesOf m) : l < 1024 := lt_of_getLsbD_mask (mem_lanesOf.1 h)

theorem wordsOf_increasing (m : LaneMask) : (wordsOf m).Pairwise (· < ·) := List.pairwise_lt_range.filter _

/-- Lanes rise within a word, and from each word to the next. -/
theorem lanesOf_increasing (m : LaneMask) : (lanesOf m).Pairwise (· < ·) := by
  refine List.pairwise_flatMap.2 ⟨fun w _ => List.Pairwise.filter _ ?_, (wordsOf_increasing m).imp fun {v w} below x hx y hy => ?_⟩
  · exact List.pairwise_map.2 (List.pairwise_lt_range.imp fun h => by omega)
  · obtain ⟨i, hi, rfl⟩ := List.mem_map.1 (List.mem_filter.1 hx).1
    obtain ⟨j, -, rfl⟩ := List.mem_map.1 (List.mem_filter.1 hy).1
    have := List.mem_range.1 hi
    omega

theorem getLsbD_guardMask (t : Team) {l : Nat} (hl : l < 1024) :
    t.guardMask.getLsbD l = true ↔ (t.preg (t.mode.extractLsb' 0 4).toNat).getLsbD l = !t.mode.getLsbD 4 := by
  unfold Team.guardMask
  cases t.mode.getLsbD 4 <;> simp [hl]

/-- A lane acts when its path has it and the guard passes it. -/
theorem mem_lanes (c : Ctx) (l : Nat) : l ∈ c.lanes ↔
    (c.p.mask.getLsbD l = true ∧ (c.t.preg (c.t.mode.extractLsb' 0 4).toNat).getLsbD l = !c.t.mode.getLsbD 4) := by
  rw [Ctx.lanes, mem_lanesOf, Ctx.active, Team.active, BitVec.getLsbD_and, Bool.and_eq_true]
  exact and_congr_right fun mine => getLsbD_guardMask c.t (lt_of_getLsbD_mask mine)

/-! ## Single registers -/

theorem vKey_inj {r r' l l' : Nat} (hl : l < 1024) (hl' : l' < 1024) : vKey r l = vKey r' l' ↔ r = r' ∧ l = l' := by
  unfold vKey; omega

theorem vreg_setV (t : Team) (r : Nat) {l : Nat} (x : Word) (r' : Nat) {l' : Nat} (hl : l < 1024) (hl' : l' < 1024) :
    (t.setV r l x).vreg r' l' = if r = r' ∧ l = l' then x else t.vreg r' l' := by
  simp only [Team.vreg, Team.setV, Tab.getD_store, vKey_inj hl hl']

theorem sreg_setS (t : Team) (r : Nat) (x : Word) (r' : Nat) : (t.setS r x).sreg r' = if r = r' then x else t.sreg r' :=
  Tab.getD_store t.s r r' x 0

theorem hreg_setH (t : Team) (r : Nat) (x : Word) (r' : Nat) : (t.setH r x).hreg r' = if r = r' then x else t.hreg r' :=
  Tab.getD_store t.h r r' x 0

/-! ## Registers and pairs -/

theorem vreg_putV (t : Team) (wide : Bool) (k : Nat) {l : Nat} (x : DWord) (r : Nat) {l' : Nat} (hl : l < 1024) (hl' : l' < 1024) :
    (t.putV wide k l x).vreg r l' =
      if l' = l ∧ r = k then x.setWidth 32 else if l' = l ∧ wide = true ∧ r = k + 1 then x.extractLsb' 32 32 else t.vreg r l' := by
  cases wide <;> simp only [Team.putV, if_true, Bool.false_eq_true, if_false, vreg_setV _ _ _ _ hl hl'] <;> grind

theorem sreg_putS (t : Team) (wide : Bool) (k : Nat) (x : DWord) (r : Nat) :
    (t.putS wide k x).sreg r = if r = k then x.setWidth 32 else if wide = true ∧ r = k + 1 then x.extractLsb' 32 32 else t.sreg r := by
  cases wide <;> simp only [Team.putS, if_true, Bool.false_eq_true, if_false, sreg_setS] <;> grind

theorem hreg_putH (t : Team) (wide : Bool) (k : Nat) (x : DWord) (r : Nat) :
    (t.putH wide k x).hreg r = if r = k then x.setWidth 32 else if wide = true ∧ r = k + 1 then x.extractLsb' 32 32 else t.hreg r := by
  cases wide <;> simp only [Team.putH, if_true, Bool.false_eq_true, if_false, hreg_setH] <;> grind

theorem putV_frame (t : Team) (wide : Bool) (k l : Nat) (x : DWord) : ∃ v, t.putV wide k l x = { t with v := v } := by
  cases wide <;> exact ⟨_, rfl⟩
theorem putS_frame (t : Team) (wide : Bool) (k : Nat) (x : DWord) : ∃ s, t.putS wide k x = { t with s := s } := by
  cases wide <;> exact ⟨_, rfl⟩
theorem putH_frame (t : Team) (wide : Bool) (k : Nat) (x : DWord) : ∃ h, t.putH wide k x = { t with h := h } := by
  cases wide <;> exact ⟨_, rfl⟩

/-! ## A result in every lane that acts -/

/-- The v registers or pairs from k on in some lanes. -/
def Team.putLanes (t : Team) (wide : Bool) (k : Nat) (f : Nat → DWord) (lanes : List Nat) : Team :=
  lanes.foldl (fun t l => t.putV wide k l (f l)) t

theorem putLanes_frame (wide : Bool) (k : Nat) (f : Nat → DWord) (lanes : List Nat) (t : Team) :
    ∃ v, t.putLanes wide k f lanes = { t with v := v } := by
  induction lanes generalizing t with
  | nil => exact ⟨t.v, rfl⟩
  | cons l lanes ih =>
    obtain ⟨_, first⟩ := putV_frame t wide k l (f l)
    obtain ⟨v, rest⟩ := ih (t.putV wide k l (f l))
    exact ⟨v, rest.trans (by rw [first])⟩

theorem vreg_putLanes (wide : Bool) (k : Nat) (f : Nat → DWord) (lanes : List Nat) (within : ∀ l ∈ lanes, l < 1024) (t : Team) (r : Nat)
    {l : Nat} (hl : l < 1024) : (t.putLanes wide k f lanes).vreg r l =
      if l ∈ lanes ∧ r = k then (f l).setWidth 32
      else if l ∈ lanes ∧ wide = true ∧ r = k + 1 then (f l).extractLsb' 32 32
      else t.vreg r l := by
  induction lanes generalizing t with
  | nil => simp [Team.putLanes]
  | cons a lanes ih =>
    show ((t.putV wide k a (f a)).putLanes wide k f lanes).vreg r l = _
    rw [ih (fun x hx => within x (List.mem_cons_of_mem a hx)), vreg_putV t wide k (f a) r (within a List.mem_cons_self) hl]
    by_cases same : l = a
    · subst same; simp only [List.mem_cons, true_or, true_and]; grind
    · simp only [List.mem_cons, same, false_or, false_and, if_false]

/-! ## A result by the kind of its destination, and a predicate -/

theorem putReg_v {d : Code} (hd : d.toNat < 0x80) (u : Team) (lanes : List Nat) (wide : Bool) (f : Nat → DWord) :
    u.putReg lanes d wide f = u.putLanes wide d.toNat f lanes := if_pos hd
theorem putReg_s {d : Code} (lo : 0x80 ≤ d.toNat) (hi : d.toNat < 0xA0) (u : Team) (l : Nat) (lanes : List Nat) (wide : Bool)
    (f : Nat → DWord) : u.putReg (l :: lanes) d wide f = u.putS wide (d.toNat - 0x80) (f l) := by
  simp [Team.putReg, Nat.not_lt.2 lo, hi]
theorem putReg_h {d : Code} (lo : 0xE0 ≤ d.toNat) (hi : d.toNat < 0xE8) (u : Team) (l : Nat) (lanes : List Nat) (wide : Bool)
    (f : Nat → DWord) : u.putReg (l :: lanes) d wide f = u.putH wide (d.toNat - 0xE0) (f l) := by
  have v : ¬ d.toNat < 0x80 := by omega
  have s : ¬ d.toNat < 0xA0 := by omega
  simp [Team.putReg, v, s, lo, hi]
/-- No lane acts, or the code names neither a v, an s nor an h register. -/
theorem putReg_none (d : Code) (u : Team) (lanes : List Nat) (wide : Bool) (f : Nat → DWord)
    (h : lanes = [] ∨ 0xA0 ≤ d.toNat ∧ ¬ (0xE0 ≤ d.toNat ∧ d.toNat < 0xE8)) : u.putReg lanes d wide f = u := by
  unfold Team.putReg
  rcases h with rfl | ⟨lo, other⟩
  · simp
  · have v : ¬ d.toNat < 0x80 := by omega
    have s : ¬ d.toNat < 0xA0 := by omega
    simp [v, s]; omega

/-- What is written where nothing is: no lane acts, or the code names no register. -/
theorem regsWritten_same {d : Code} {u : Team} {lanes : List Nat} {wide : Bool} {f : Nat → DWord}
    (h : lanes = [] ∨ 0xA0 ≤ d.toNat ∧ ¬ (0xE0 ≤ d.toNat ∧ d.toNat < 0xE8)) : RegsWritten u u lanes d wide f := by
  rcases h with rfl | ⟨lo, other⟩
  · exact ⟨by simp, by simp, by simp, rfl⟩
  · exact ⟨by grind, by grind, by grind, rfl⟩

/-- Each kind of destination by itself: the lanes one after another, or s or h once, from the lowest of them. -/
theorem putReg_regsWritten (u : Team) (lanes : List Nat) (d : Code) (wide : Bool) (f : Nat → DWord) (within : ∀ l ∈ lanes, l < 1024) :
    RegsWritten u (u.putReg lanes d wide f) lanes d wide f := by
  by_cases v : d.toNat < 0x80
  · obtain ⟨_, frame⟩ := putLanes_frame wide d.toNat f lanes u
    rw [putReg_v v]
    refine ⟨fun r l hl => ?_, fun r => ?_, fun r => ?_, ?_⟩
    · simp only [vreg_putLanes wide d.toNat f lanes within u r hl, v, true_and]
    · rw [frame]; grind [Team.sreg]
    · rw [frame]; grind [Team.hreg]
    · rw [frame]
  · match lanes with
    | [] => rw [putReg_none d u [] wide f (.inl rfl)]; exact regsWritten_same (.inl rfl)
    | l :: lanes =>
      by_cases s : d.toNat < 0xA0
      · obtain ⟨_, frame⟩ := putS_frame u wide (d.toNat - 0x80) (f l)
        rw [putReg_s (by omega) s]
        refine ⟨fun r l hl => ?_, fun r => ?_, fun r => ?_, ?_⟩
        · rw [frame]; grind [Team.vreg]
        · rw [sreg_putS]; grind
        · rw [frame]; grind [Team.hreg]
        · rw [frame]
      · by_cases h : 0xE0 ≤ d.toNat ∧ d.toNat < 0xE8
        · obtain ⟨_, frame⟩ := putH_frame u wide (d.toNat - 0xE0) (f l)
          rw [putReg_h h.1 h.2]
          refine ⟨fun r l hl => ?_, fun r => ?_, fun r => ?_, ?_⟩
          · rw [frame]; grind [Team.vreg]
          · rw [frame]; grind [Team.sreg]
          · rw [hreg_putH]; grind
          · rw [frame]
        · rw [putReg_none d u (l :: lanes) wide f (.inr ⟨by omega, h⟩)]
          exact regsWritten_same (.inr ⟨by omega, h⟩)

theorem putPred_eq {r : Nat} (hr : r ≠ 0) (u : Team) (active m : LaneMask) :
    u.putPred active r m = { u with p := Tab.store 0 u.p r ((u.preg r &&& ~~~active) ||| (m &&& active)) } := if_neg hr

theorem preg_putPred {r : Nat} (hr : r ≠ 0) (u : Team) (active m : LaneMask) (r' : Nat) :
    (u.putPred active r m).preg r' = if r = r' then (u.preg r &&& ~~~active) ||| (m &&& active) else u.preg r' := by
  rw [putPred_eq hr]
  simp only [Team.preg, Tab.getD_store]
  grind

end Sys2Proof.Machine

namespace Sys2Proof.Proofs
open Sys2Proof.Machine Sys2Proof.Safety

/-- Settles O14: a result by the kind of its destination, a predicate bit by bit, and the lanes word by word. -/
theorem resultsGoToTheirPlaces : Obligations.ResultsGoToTheirPlaces := by
  refine ⟨⟨fun u lanes d wide f within => ⟨putReg_regsWritten u lanes d wide f within, ?_⟩, fun u active r m => ⟨⟨rfl, fun l hl => ?_⟩,
    fun hr => ⟨fun l hl => ?_, fun r' other => ?_, by rw [putPred_eq hr]⟩⟩⟩,
    fun c => ⟨mem_lanes c, lanesOf_increasing c.active, fun l => lanesOf_lt⟩⟩
  · rintro rfl; exact putReg_none 0xFF u lanes wide f (.inr (by decide))
  · rw [Team.preg, if_pos rfl, BitVec.getLsbD_allOnes, decide_eq_true hl]
  · rw [preg_putPred hr, if_pos rfl]
    rw [BitVec.getLsbD_or, BitVec.getLsbD_and, BitVec.getLsbD_and, BitVec.getLsbD_not, decide_eq_true hl]
    cases active.getLsbD l <;> simp
  · rw [preg_putPred hr, if_neg (Ne.symm other)]
end Sys2Proof.Proofs
end

section
/-! SUPPORT. Register blocks, records and service calls (R27, R33, R64, R73, R279–R282). -/
namespace Sys2Proof.Machine
open Sys2Proof.Safety

/-! ## GIVE and CLAIM (R27, R73, R279, R280) -/

/-- Keeping some keys keeps what they read. -/
theorem Tab.get?_filter {α : Type} (t : Tab α) (p : Nat → Bool) {k : Nat} (hk : p k = true) :
    Tab.get? (t.filter fun q => p q.1) k = t.get? k := by
  induction t with
  | nil => rfl
  | cons q t ih =>
    obtain ⟨j, a⟩ := q
    rw [List.filter_cons]
    split
    · rw [Tab.get?, Tab.get?, ih]
    · rename_i dropped
      have other : j ≠ k := by rintro rfl; exact dropped hk
      rw [ih, Tab.get?, if_neg other]

/-- The team with the registers below `left` alone. -/
def Team.keepRegs (left : Nat) (t : Team) : Team := { t with vcount := left, v := t.v.filter fun p => decide (p.1 < 1024 * left) }

theorem vreg_keepRegs (t : Team) {left r l : Nat} (hr : r < left) (hl : l < 1024) : (t.keepRegs left).vreg r l = t.vreg r l := by
  have key : vKey r l < 1024 * left := by unfold vKey; omega
  exact congrArg (·.getD 0) (Tab.get?_filter t.v (fun k => decide (k < 1024 * left)) (decide_eq_true key))

theorem give_traps {k : BitVec 4} {s s' : State} {c : Ctx} (h : admission (.give k) s = .ok c s')
    (bad : c.t.fw = true ∨ c.t.vcount < 8 * k.toNat + 8 ∨
      (c.t.pendingWrites s'.cycle).extractLsb' 0 16 >>> ((c.t.vcount - 8 * k.toNat) / 8) ≠ 0) :
    Traps (.give k) s c Cause.regBudget 0xFF none := by
  refine trapsWith_of_trap h rfl (if_pos ?_)
  simpa [or_assoc] using bad

theorem give_completes {k : BitVec 4} {s s' : State} {c : Ctx} (h : admission (.give k) s = .ok c s') (code : c.t.fw = false)
    (keeps : 8 * k.toNat + 8 ≤ c.t.vcount)
    (idle : (c.t.pendingWrites s'.cycle).extractLsb' 0 16 >>> ((c.t.vcount - 8 * k.toNat) / 8) = 0) :
    Completes (.give k) s c (((c.modTeam s' (Team.keepRegs (c.t.vcount - 8 * k.toNat))).modGroup c.clu c.t.group fun g =>
      { g with blocks := Tab.store 0 g.blocks c.core (g.blocks.getD c.core 0 + k.toNat * (c.t.lanes / 32)) }).servePool
        c.clu c.t.group c.core) := by
  refine completes_of_done h rfl (if_neg ?_)
  simp [code, idle, Nat.not_lt.2 keeps]

theorem claim_traps {k : BitVec 4} {s s' : State} {c : Ctx} (h : admission (.claim k) s = .ok c s')
    (bad : c.t.fw = true ∨ 128 < c.t.vcount + 8 * k.toNat) : Traps (.claim k) s c Cause.regBudget 0xFF none := by
  refine trapsWith_of_trap h rfl (if_pos ?_)
  simpa using bad

/-- A team takes `k` blocks of each of its lanes' words out of its group's pool on its core. -/
def Ctx.takeBlocks (c : Ctx) (k : Nat) (s : State) : State :=
  c.modTeam (s.modGroup c.clu c.t.group fun h =>
    { h with blocks := Tab.store 0 h.blocks c.core (h.blocks.getD c.core 0 - k * (c.t.lanes / 32)) }) fun t => { t with vcount := t.vcount + 8 * k }

/-- What CLAIM answers once it fits in the register file: served, parked behind others, served from the head, or parked again. -/
theorem claim_answers {k : BitVec 4} {s s' : State} {c : Ctx} {g : Group} (h : admission (.claim k) s = .ok c s') (code : c.t.fw = false)
    (fits : c.t.vcount + 8 * k.toNat ≤ 128) (mine : s'.group? c.clu c.t.group = some g) :
    let me := (c.tid, c.pid, k.toNat)
    let queue := s'.claimsOn g c.core
    let enough := decide (g.blocks.getD c.core 0 ≥ k.toNat * (c.t.lanes / 32))
    exec (.claim k) s = .next (c.conclude (
      if queue.isEmpty && enough then .done (c.takeBlocks k.toNat s')
      else if c.p.st = .parked .claim then
        if queue.head? = some me && enough then
          .done ((c.takeBlocks k.toNat
            (s'.modGroup c.clu c.t.group fun g => { g with claims := g.claims.erase me })).servePool c.clu c.t.group c.core)
        else .park s' .claim
      else .park (c.waitHere (s'.modGroup c.clu c.t.group fun g => { g with claims := g.claims ++ [me] })) .claim)) := by
  refine (exec_of_ok h rfl).trans ?_
  dsimp only
  rw [if_neg (by simp [code, Nat.not_lt.2 fits]), mine]
  rfl

/-- CLAIM is served at once only where no other is parked and its pool holds enough. -/
theorem not_served {α : Type} {queue : List α} {enough : Prop} [Decidable enough] (waits : queue ≠ [] ∨ ¬ enough) :
    ¬ (queue.isEmpty && decide enough) = true := by
  rw [Bool.and_eq_true, List.isEmpty_iff, decide_eq_true_eq]
  exact fun served => waits.elim (· served.1) (· served.2)

/-- One that comes again is served only at the head, where its pool holds enough. -/
theorem not_headed {head enough : Prop} [Decidable head] [Decidable enough] (held : ¬ head ∨ ¬ enough) :
    ¬ (decide head && decide enough) = true := by
  rw [Bool.and_eq_true, decide_eq_true_eq, decide_eq_true_eq]
  exact fun served => held.elim (· served.1) (· served.2)

theorem ne_nil_of_head? {α : Type} {queue : List α} {a : α} (head : queue.head? = some a) : queue ≠ [] := by
  rintro rfl; cases head

/-! ## SPAWN (R281) -/

theorem spawn_priv {x : BitVec 7} {s s' : State} {c : Ctx} (h : admission (.spawn x) s = .ok c s') (fw : c.t.fw = true) :
    Traps (.spawn x) s c Cause.priv (wordOf (.spawn x)) none := trapsWith_of_trap h rfl (if_pos fw)

/-- What SPAWN answers below the firmware slot: by R32's verdict on its lanes' records, then by the room of their rings. -/
theorem spawn_answers {x : BitVec 7} {s s' : State} {c : Ctx} (h : admission (.spawn x) s = .ok c s') (code : c.t.fw = false) :
    exec (.spawn x) s = .next (c.conclude (match s'.badRecord c.t.ctx (c.lanes.map fun l => (l, c.laneRecord x.toNat l)) with
      | (some l, _) => c.trap Cause.workInvalid (BitVec.ofNat 32 l)
      | (none, t) => if t.ringsFit c.t.ctx (c.lanes.map fun l => c.laneRecord x.toNat l) then
          .done (c.lanes.foldl (fun s l => s.appendRecord c.t.ctx (c.laneRecord x.toNat l) .code) t)
        else .park t .spawn)) := by
  refine (exec_of_ok h rfl).trans ?_
  dsimp only
  rw [if_neg (by simp [code]), List.map_map]
  simp only [List.foldl_map]
  rfl

/-! ## SVC (R64, R282) -/

theorem svc_priv {n : BitVec 8} {s s' : State} {c : Ctx} (h : admission (.svc n) s = .ok c s') (fw : c.t.fw = true) :
    Traps (.svc n) s c Cause.priv (wordOf (.svc n)) none := trapsWith_of_trap h rfl (if_pos fw)

theorem svc_idle {n : BitVec 8} {s s' : State} {c : Ctx} (h : admission (.svc n) s = .ok c s') (code : c.t.fw = false) (idle : c.active = 0) :
    Completes (.svc n) s c s' := by
  refine completes_of_done h rfl ((if_neg (by simp [code])).trans (if_pos ?_))
  have : c.acts = false := decide_eq_false fun acts => acts idle
  simp [this]

theorem svc_opens {n : BitVec 8} {s s' : State} {c : Ctx} (h : admission (.svc n) s = .ok c s') (code : c.t.fw = false) (acts : c.active ≠ 0) :
    let call := 64 * (s'.ctx c.t.ctx).freeCall + c.t.ctx
    let opens : SvcCall := { team := c.tid, path := c.pid, number := n.toNat, lanes := c.lanes, sent := false, replies := [], posted := false }
    CompletesWhen (.svc n) s c ((s'.modCtx c.t.ctx fun x =>
      { x with nextCall := (x.freeCall + 1) % 2 ^ 26, calls := x.calls.put call opens }).svcSave c.tid call) (.svc call) := by
  refine completesWhen_of_later h rfl ((if_neg (by simp [code])).trans (if_neg ?_))
  have : c.acts = true := decide_eq_true acts
  simp [this]

/-- A team that calls leaves the core once it is settled, and issues nothing more until then. -/
theorem svcSave_team {s : State} {tid call : Nat} {u : Team} (there : (s.svcSave tid call).team? tid = some u) :
    if (s.settleTeam tid).settled tid = true then u.place = .savedBySvc call else u.stopped = true := by
  unfold State.svcSave at there
  dsimp only at there
  split at there
  · rename_i gone; rw [gone] at there; cases there
  · split at there
    · rename_i settled
      rw [if_pos settled]
      rw [State.post_at_team_get, State.team_modTeam, if_pos rfl] at there
      obtain ⟨_, _, rfl⟩ := Option.map_eq_some_iff.1 there
      rfl
    · rename_i open_
      rw [if_neg open_]
      rw [State.team_modTeam, if_pos rfl] at there
      obtain ⟨_, _, rfl⟩ := Option.map_eq_some_iff.1 there
      rfl
end Sys2Proof.Machine

namespace Sys2Proof.Proofs
open Sys2Proof.Machine Sys2Proof.Safety

/-- Settles O48: each instruction by what it answers. -/
theorem blocksRecordsAndCalls : Obligations.BlocksRecordsAndCalls := by
  intro k x n s s' c
  refine ⟨fun h => ⟨give_traps h, fun code keeps idle => ⟨_, give_completes h code keeps idle, fun t => ⟨rfl, fun r l => vreg_keepRegs t⟩⟩⟩,
    fun h => ⟨claim_traps h, fun g code fits mine => ?_⟩,
    fun h => ⟨spawn_priv h, fun code t accepted => ⟨fun room => ?_, fun full => ?_⟩, fun code t l refused => ?_⟩,
    fun h => ⟨svc_priv h, svc_idle h, fun code acts => ⟨svc_opens h code acts, fun u => svcSave_team⟩⟩⟩
  · have answer := claim_answers h code fits mine
    dsimp only at answer ⊢
    refine ⟨fun alone enough => answer.trans ?_, fun fresh waits => answer.trans ?_, fun again head enough => answer.trans ?_,
      fun again waits held => answer.trans ?_⟩
    · rw [alone, if_pos (by simp [enough])]; rfl
    · rw [if_neg (not_served waits), if_neg fresh]; rfl
    · rw [if_neg (not_served (.inl (ne_nil_of_head? head))), if_pos again, if_pos (by simp [head, enough])]; rfl
    · rw [if_neg (not_served waits), if_pos again, if_neg (not_headed held)]; rfl
  · have answer := spawn_answers h code
    simp only [accepted, room, if_true] at answer
    exact answer
  · have answer := spawn_answers h code
    simp only [accepted, full, Bool.false_eq_true, if_false] at answer
    exact answer
  · exact trapsWith_of_trap h rfl (by simp [code, refused]; rfl)
end Sys2Proof.Proofs
end

section
/-! SUPPORT. Records, slices, trials and the waits that time ends (R34–R38, R105, R205, R212, R274, R401, R403–R408, R416, R419). -/
namespace Sys2Proof.Machine
open Sys2Proof.Safety

/-! ## Records (R34, R35, R38, R403) -/

theorem recordDistribute_leads (s s1 : State) {ctx pool clu r h : Nat} {src : Origin}
    (head : (s.retryCompletion ctx pool).headRecord ctx pool = some (r, src))
    (code : poolFeed ((s.retryCompletion ctx pool).poolEntry ctx pool) = false)
    (turn : nextInTurn ((s.retryCompletion ctx pool).clustersOf ctx) (((s.retryCompletion ctx pool).ctx ctx).rr.getD pool 0) = some clu)
    (sound : (((s.retryCompletion ctx pool).dropHead ctx pool).modCtx ctx fun c => { c with rr := c.rr.put pool (clu + 1) }).header ctx
      (recEntry r) = (some h, s1)) :
    Leads (.recordDistribute ctx pool) s (s1.formRecord clu ctx pool r src h) := by
  show execRecordDistribute ctx pool s = _
  unfold execRecordDistribute
  simp only [code, Bool.false_eq_true, if_false, head, turn, sound]
  rfl

theorem gatherWindowExpiry_leads (s : State) {id : Nat} {f : Forming} (open_ : s.forming.get? id = some f) :
    Leads (.gatherWindowExpiry id) s (if s.windowRun f then s.wake.launchForming id f else s.post (.gatherWindowExpiry id)) := by
  show execGatherWindowExpiry id s = _
  unfold execGatherWindowExpiry
  rw [open_]
  rfl

theorem groupAdmission_leads (s s1 : State) {clu ctx i : Nat} {l : Launch} {place : List Nat} (slice : s.chooseSlice clu = s1)
    (runs : s1.runningCtx clu = some ctx) (goes : (s1.clu clu).stopReq = false) (here : ctx ∉ (s1.clu clu).saving)
    (live : s1.image? ctx clu = none) (fits : s1.admissible clu ctx (s1.clu clu).waiting 0 none = some (i, l, place)) :
    Leads (.groupAdmission clu) s
      (((s1.modClu clu fun c => { c with waiting := c.waiting.eraseIdx i }).admitGroup clu l place).post (.groupAdmission clu)) := by
  show execGroupAdmission clu s = _
  unfold execGroupAdmission
  have idle : ((s1.clu clu).stopReq || (s1.clu clu).saving.contains ctx || (s1.image? ctx clu).isSome) = false := by simp [goes, here, live]
  simp only [slice, runs, idle, Bool.false_eq_true, if_false, fits]
  rfl

/-- A push changes a queue and the local store under it. -/
theorem pushEntry_feeds (s : State) (clu n : Nat) (bs : List Byte) : ((s.pushEntry clu n bs).clu clu).feeds = (s.clu clu).feeds := by
  unfold State.pushEntry
  split
  · rfl
  · rw [State.clu_modClu_self]; rfl

theorem pushEntries_feeds (clu n : Nat) (entry : Nat → List Byte) (ks : List Nat) (s : State) :
    ((ks.foldl (fun s k => s.pushEntry clu n (entry k)) s).clu clu).feeds = (s.clu clu).feeds := by
  induction ks generalizing s with
  | nil => rfl
  | cons k ks ih => exact (ih _).trans (pushEntry_feeds s clu n (entry k))

/-- The state in which a pool's head record has entered feed queue `n` of a cluster, and counts there. -/
def State.fedRecord (s : State) (ctx pool clu n r : Nat) (src : Origin) (q : Queue) : State :=
  ((List.range 16).foldl (fun s k => s.pushEntry clu n (natLe 4 (bits r (32 * k) 32))) (s.dropHead ctx pool)).modClu clu fun c =>
    { c with feeds := c.feeds.put (feedKey q n) (c.feeds.getD (feedKey q n) [] ++ [(64 * ctx + pool, src, 16)]) }

theorem feedAppend_leads (s : State) {ctx pool clu n r : Nat} {src : Origin} {q : Queue} (atClu : bits (s.poolEntry ctx pool) 88 6 = clu)
    (atQueue : bits (s.poolEntry ctx pool) 94 6 = n) (head : s.headRecord ctx pool = some (r, src)) (own : (s.clu clu).queues.get? n = some q)
    (takes : s.takesFeed ctx clu q = true) (valid : poolValid (s.poolEntry ctx pool) = true) (feed : poolFeed (s.poolEntry ctx pool) = true)
    (unlocked : s.queueLocked clu n = false) :
    ∃ t, Leads (.feedAppend ctx pool) s t ∧ (t.clu clu).feeds.getD (feedKey q n) [] =
      ((s.dropHead ctx pool).clu clu).feeds.getD (feedKey q n) [] ++ [(64 * ctx + pool, src, 16)] := by
  refine ⟨s.fedRecord ctx pool clu n r src q, ?_, ?_⟩
  · show execFeedAppend ctx pool s = _
    unfold execFeedAppend
    simp only [atClu, atQueue, head, own, takes, valid, feed, unlocked, Bool.not_true, Bool.or_false, Bool.false_eq_true, if_false]
    rfl
  · unfold State.fedRecord
    rw [State.clu_modClu_self]
    dsimp only
    rw [Tab.getD_put_self, pushEntries_feeds clu n fun k => natLe 4 (bits r (32 * k) 32)]

/-! ## The slice (R205, R406–R408) -/

/-- Postings: events in flight and dies are all that differs. -/
def PostsOnly (s t : State) : Prop := t = { s with pending := t.pending, dies := t.dies }

theorem PostsOnly.trans {s t u : State} (h : PostsOnly s t) (g : PostsOnly t u) : PostsOnly s u := by
  unfold PostsOnly at *; rw [g, h]

theorem postsOnly_postJob (s : State) (die cls : Nat) (w1 w2 w3 : Word) (team path : Nat) (card : Option Nat) :
    PostsOnly s (s.postJob die cls w1 w2 w3 team path card) := rfl
theorem postsOnly_postOnce (s : State) (e : Instr) : PostsOnly s (s.postOnce e) := by
  unfold PostsOnly State.postOnce; split <;> rfl
/-- A cause of class 5 with its counter. -/
theorem postsOnly_cause (s : State) (clu : Nat) (cause : Byte) (ctx num : Nat) :
    PostsOnly s ((s.postCause clu cause ctx 0).countCtx (dieOfClu clu) ctx num) := rfl

/-- Some teams issue no more. -/
def State.stopTeams (s : State) (ks : List Nat) : State := ks.foldl (fun s k => s.modTeam k fun x => { x with stopped := true }) s

theorem stopTeams_teamsOnly (ks : List Nat) (s : State) : s.stopTeams ks = { s with teams := (s.stopTeams ks).teams } := by
  induction ks generalizing s with
  | nil => rfl
  | cons k ks ih => exact ih (s.modTeam k fun x => { x with stopped := true })

theorem stopTeams_keeps_stopped (ks : List Nat) (s : State) (j : Nat) (stopped : ∀ u, s.team? j = some u → u.stopped = true) :
    ∀ u, (s.stopTeams ks).team? j = some u → u.stopped = true := by
  induction ks generalizing s with
  | nil => exact stopped
  | cons k ks ih =>
    refine ih _ fun u hu => ?_
    rw [State.team_modTeam] at hu
    split at hu
    · obtain ⟨_, _, rfl⟩ := Option.map_eq_some_iff.1 hu; rfl
    · exact stopped u hu

theorem stopTeams_stopped (ks : List Nat) (s : State) {j : Nat} (listed : j ∈ ks) :
    ∀ u, (s.stopTeams ks).team? j = some u → u.stopped = true := by
  induction ks generalizing s with
  | nil => cases listed
  | cons k ks ih =>
    rcases List.mem_cons.1 listed with rfl | listed
    · refine stopTeams_keeps_stopped ks _ j fun u hu => ?_
      rw [State.team_modTeam, if_pos rfl] at hu
      obtain ⟨_, _, rfl⟩ := Option.map_eq_some_iff.1 hu
      rfl
    · exact ih _ listed

/-- DRAIN_OVERRUN with its counter, and the class-3 job of hard pre-emption (R408). -/
def State.overrunPosted (s : State) (clu ctx : Nat) : State :=
  ((s.postCause clu Cause.drainOverrun ctx 0).countCtx (dieOfClu clu) ctx 0x873).postJob (dieOfClu clu) 3 (BitVec.ofNat 32 ctx)
    (BitVec.ofNat 32 clu) 0 0 0 none

theorem postsOnly_overrunPosted (s : State) (clu ctx : Nat) : PostsOnly s (s.overrunPosted clu ctx) :=
  (postsOnly_cause s clu _ ctx _).trans (postsOnly_postJob ..)

/-- Hard pre-emption stops the context's resident teams, posts its two jobs, and starts the save timer. -/
theorem hardPreempt_starts {s : State} {clu i : Nat} {e : Edf} (runs : s.runningEdf clu = some (i, e)) (spent : s.edfRemain clu i = 0)
    (stays : s.anyResident e.ctx clu = true) (first : (s.clu clu).overrun = none) :
    s.hardPreempt clu = (((s.stopTeams (s.teamsAt e.ctx clu .resident)).overrunPosted clu e.ctx).modClu clu fun c =>
      { c with
        overrun := some ((s.clu clu).runSince + e.remain), saveTimer := some ((s.clu clu).runSince + e.remain + 50000) }).post
      (.saveTimerExpiry clu) := by
  unfold State.hardPreempt
  simp only [runs, spent, stays, first, Nat.lt_irrefl, decide_false, Bool.not_true, Option.isSome_none, Bool.or_false, Bool.false_eq_true,
    gt_iff_lt, if_false]
  rfl

/-- Hard pre-emption leaves the EDF tables and the memory as they are. -/
theorem hardPreempt_keeps (s : State) (clu : Nat) : (∀ k, ((s.hardPreempt clu).clu k).edf = (s.clu k).edf) ∧ (s.hardPreempt clu).mem = s.mem := by
  cases runs : s.runningEdf clu with
  | none => unfold State.hardPreempt; rw [runs]; exact ⟨fun _ => rfl, rfl⟩
  | some p =>
    obtain ⟨i, e⟩ := p
    by_cases held : (decide (s.edfRemain clu i > 0) || !s.anyResident e.ctx clu || (s.clu clu).overrun.isSome) = true
    · unfold State.hardPreempt
      simp only [runs, held, if_true]
      exact ⟨fun _ => trivial, trivial⟩
    · obtain ⟨⟨spent, stays⟩, first⟩ : (s.edfRemain clu i = 0 ∧ s.anyResident e.ctx clu = true) ∧ (s.clu clu).overrun = none := by
        simpa using held
      have teams := stopTeams_teamsOnly (s.teamsAt e.ctx clu .resident) s
      have posts := postsOnly_overrunPosted (s.stopTeams (s.teamsAt e.ctx clu .resident)) clu e.ctx
      rw [hardPreempt_starts runs spent stays first]
      refine ⟨fun k => ?_, ?_⟩
      · rw [State.post_at_clu, State.clu_modClu, posts, teams]
        split
        · subst k; rfl
        · rfl
      · rw [State.post_mem, State.modClu_mem, posts, teams]

theorem edfEntry_modEdf (s : State) (clu i j : Nat) (f : Edf → Edf) :
    (s.modEdf clu i f).edfEntry? clu j = if i = j then (s.edfEntry? clu j).map f else s.edfEntry? clu j := by
  unfold State.edfEntry? State.modEdf
  rw [State.clu_modClu_self]
  exact Tab.get?_modify _ i j f

/-- Settling a running entry's REMAIN changes no other field of it. -/
theorem settleRemain_entry {s : State} {clu i : Nat} {e : Edf} (entry : s.edfEntry? clu i = some e) :
    ∃ r, (s.settleRemain clu).edfEntry? clu i = some { e with remain := r } := by
  unfold State.settleRemain
  split
  · exact ⟨e.remain, entry⟩
  · rename_i j _
    have settled := edfEntry_modEdf s clu j i fun x => { x with remain := s.edfRemain clu j }
    rw [entry] at settled
    obtain ⟨r, kept⟩ : ∃ r, (s.modEdf clu j fun x => { x with remain := s.edfRemain clu j }).edfEntry? clu i = some { e with remain := r } := by
      rw [settled]
      split
      · exact ⟨_, rfl⟩
      · exact ⟨e.remain, rfl⟩
    refine ⟨r, ?_⟩
    rw [← kept]
    unfold State.edfEntry?
    dsimp only
    rw [State.clu_modClu_self]

theorem settleRemain_mem (s : State) (clu : Nat) : (s.settleRemain clu).mem = s.mem := by
  unfold State.settleRemain; split <;> rfl

/-- The entry of a new period: the budget less what is carried of it, and the next deadline. -/
def Edf.refilled (e : Edf) : Edf :=
  { e with deadline := (e.deadline + e.period) % 2 ^ 64, remain := e.budget - e.carry, carry := e.carry - e.budget }

/-- BUDGET_OVERRUN with its counter, where what is carried takes the whole budget; then the events of the next period. -/
def State.periodPosted (s : State) (clu i : Nat) (e : Edf) : State :=
  ((if e.budget ≤ e.carry then (s.postCause clu Cause.budgetOverrun e.ctx 0).countCtx (dieOfClu clu) e.ctx 0x874 else s).postOnce
    (.edfPeriodStart clu i)).postOnce (.groupAdmission clu)

theorem postsOnly_periodPosted (s : State) (clu i : Nat) (e : Edf) : PostsOnly s (s.periodPosted clu i e) := by
  refine PostsOnly.trans (.trans ?_ (postsOnly_postOnce _ _)) (postsOnly_postOnce _ _)
  split
  · exact postsOnly_cause s clu _ _ _
  · exact rfl

theorem exec_edfPeriodStart {s : State} {clu i : Nat} {e : Edf} (entry : s.edfEntry? clu i = some e) (valid : e.valid = true)
    (due : e.deadline ≤ s.ns) : exec (.edfPeriodStart clu i) s =
      .next ((((s.wake.hardPreempt clu).settleRemain clu).modEdf clu i Edf.refilled).periodPosted clu i e) := by
  show execEdfPeriodStart clu i s = _
  unfold execEdfPeriodStart
  simp only [entry, valid, Nat.not_lt.2 due, Bool.not_true, Bool.false_eq_true, if_false]
  rfl

theorem edfPeriodStart_leads (s : State) {clu i : Nat} {e : Edf} (entry : s.edfEntry? clu i = some e) (valid : e.valid = true)
    (due : e.deadline ≤ s.ns) : ∃ t e', Leads (.edfPeriodStart clu i) s t ∧ t.edfEntry? clu i = some e' ∧
      e'.deadline = (e.deadline + e.period) % 2 ^ 64 ∧ e'.remain = e.budget - e.carry ∧ e'.carry = e.carry - e.budget ∧ t.mem = s.mem := by
  obtain ⟨edf, mem⟩ := hardPreempt_keeps s.wake clu
  have preempted : (s.wake.hardPreempt clu).edfEntry? clu i = some e := by
    unfold State.edfEntry?; rw [edf clu]; exact entry
  obtain ⟨r, settled⟩ := settleRemain_entry preempted
  have refilled := edfEntry_modEdf ((s.wake.hardPreempt clu).settleRemain clu) clu i i Edf.refilled
  rw [if_pos rfl, settled] at refilled
  refine ⟨_, { e with remain := r }.refilled, exec_edfPeriodStart entry valid due, ?_, rfl, rfl, rfl, ?_⟩
  · rw [postsOnly_periodPosted]; exact refilled
  · rw [postsOnly_periodPosted]; exact (settleRemain_mem _ clu).trans mem

/-- The state in which a cluster's stop request is pending: its context's gather windows stand where they have run to (R406). -/
def State.stopRequested (s : State) (clu ctx : Nat) : State :=
  ({ s with forming := s.forming.map fun (p : Nat × Forming) =>
    (p.1, if p.2.clu = clu && p.2.launch.ctx = ctx then { p.2 with opened := s.ns - p.2.opened } else p.2) } : State).modClu clu
    fun c => { c with stopReq := true }

theorem stopRequest_leads (s : State) {clu i : Nat} {e : Edf} (runs : s.runningEdf clu = some (i, e)) (once : (s.clu clu).stopReq = false)
    (low : s.edfRemain clu i ≤ e.drain) :
    ∃ t, Leads (.stopRequest clu) s t ∧ (t.clu clu).stopReq = true ∧ t.teams = s.teams ∧ t.mem = s.mem := by
  refine ⟨s.stopRequested clu e.ctx, ?_, congrArg Cluster.stopReq (State.clu_modClu_self _ clu _), rfl, rfl⟩
  show execStopRequest clu s = _
  unfold execStopRequest
  simp only [runs, once, Bool.false_eq_true, if_false, gt_iff_lt, Nat.not_lt.2 low]
  rfl

/-- The drain saves that go on as a slice ends (R273). -/
def State.drainLeaving (s : State) (ctx clu : Nat) : State :=
  ((s.teamsAt ctx clu .resident).filter fun t => match s.team? t with | some u => u.leaving | none => false).foldl State.drainSave s

theorem drainLeaving_none {s : State} {ctx clu : Nat} (stay : ∀ k ∈ s.teamsAt ctx clu .resident, ∀ u, s.team? k = some u → u.leaving = false) :
    s.drainLeaving ctx clu = s := by
  unfold State.drainLeaving
  rw [List.filter_eq_nil_iff.2]
  · rfl
  · intro k hk
    cases team : s.team? k with
    | none => simp
    | some u => simp [stay k hk u team]

theorem teamsAt_nil {s : State} {ctx clu : Nat} (gone : s.anyResident ctx clu = false) : s.teamsAt ctx clu .resident = [] := by
  simpa [State.anyResident] using gone

theorem exec_sliceEnd {s : State} {clu i : Nat} {e : Edf} (runs : s.runningEdf clu = some (i, e)) :
    let t := s.drainLeaving e.ctx clu
    exec (.sliceEnd clu) s = event (
      if t.edfRemain clu i = 0 && t.anyResident e.ctx clu then (t.hardPreempt clu).postOnce (.sliceEnd clu)
      else if !t.anyResident e.ctx clu &&
          (t.edfRemain clu i = 0 || (t.clu clu).stopReq || (t.clu clu).overrun.isSome || !t.edfWork e.ctx clu) then t.freeCluster clu e.ctx
      else t.postOnce (.sliceEnd clu)) := by
  show execSliceEnd clu s = _
  unfold execSliceEnd
  rw [runs]
  rfl

theorem sliceEnd_frees (s : State) {clu i : Nat} {e : Edf} (runs : s.runningEdf clu = some (i, e)) (gone : s.anyResident e.ctx clu = false)
    (spent : s.edfRemain clu i = 0) : Leads (.sliceEnd clu) s (s.freeCluster clu e.ctx) := by
  refine (exec_sliceEnd runs).trans ?_
  rw [drainLeaving_none (by simp [teamsAt_nil gone])]
  simp only [gone, spent, decide_true, Bool.and_false, Bool.false_eq_true, if_false, Bool.not_false, Bool.true_or, Bool.and_true, if_true]
  rfl

theorem sliceEnd_preempts (s : State) {clu i : Nat} {e : Edf} (runs : s.runningEdf clu = some (i, e)) (spent : s.edfRemain clu i = 0)
    (stays : s.anyResident e.ctx clu = true)
    (stay : ∀ k ∈ s.teamsAt e.ctx clu .resident, ∀ u, s.team? k = some u → u.leaving = false) :
    Leads (.sliceEnd clu) s ((s.hardPreempt clu).postOnce (.sliceEnd clu)) := by
  refine (exec_sliceEnd runs).trans ?_
  rw [drainLeaving_none stay]
  simp only [stays, spent, decide_true, Bool.and_self, if_true]
  rfl

theorem hardPreemption_leads (s : State) {clu i : Nat} {e : Edf} (runs : s.runningEdf clu = some (i, e)) (spent : s.edfRemain clu i = 0)
    (stays : s.anyResident e.ctx clu = true) (first : (s.clu clu).overrun = none) :
    ∃ t, Leads (.hardPreemption clu) s t ∧ (∀ k ∈ s.teamsAt e.ctx clu .resident, ∀ u, t.team? k = some u → u.stopped = true) ∧
      (t.clu clu).saveTimer = some ((s.clu clu).runSince + e.remain + 50000) ∧ t.mem = s.mem := by
  have starts := hardPreempt_starts runs spent stays first
  refine ⟨s.hardPreempt clu, rfl, fun k hk u hu => ?_, ?_, (hardPreempt_keeps s clu).2⟩
  · rw [starts, State.post_at_team_get, State.modClu_at_team_get, postsOnly_overrunPosted (s.stopTeams _) clu e.ctx] at hu
    exact stopTeams_stopped _ s hk u hu
  · rw [starts, State.post_at_clu, State.clu_modClu_self]

theorem saveTimerExpiry_leads (s : State) {clu ctx t0 : Nat} (timer : (s.clu clu).saveTimer = some t0) (runs : s.runningCtx clu = some ctx)
    (due : t0 ≤ s.ns) : Leads (.saveTimerExpiry clu) s (s.forceReset ctx clu) := by
  show execSaveTimerExpiry clu s = _
  unfold execSaveTimerExpiry
  simp only [timer, runs, Nat.not_lt.2 due, if_false]
  rfl

/-! ## Trials and the waits that time ends (R105, R165, R212, R274, R401) -/

theorem sleepExpiry_leads (s : State) {tid pid k : Nat} {u : Team} {p : Path} (team : s.team? tid = some u) (path : u.paths.get? pid = some p)
    (sleeps : p.st = .parked (.sleep k)) (due : k ≤ s.ns) :
    Leads (.sleepExpiry tid pid) s (s.wake.modPath tid pid fun p => { p with st := .ready, since := s.cycle }) := by
  show execSleepExpiry tid pid s = _
  unfold execSleepExpiry
  simp only [team, Option.bind_some, path, sleeps, Nat.not_lt.2 due, if_false]
  rfl

theorem trialPhaseEnd_finishes (s : State) {clu : Nat} {q : Trial} (trial : (s.clu clu).trial = some q) (due : q.began + 1000 * q.t ≤ s.ns)
    (second : q.delay = true) : Leads (.trialPhaseEnd clu) s (s.wake.finishTrial clu false) := by
  show execTrialPhaseEnd clu s = _
  unfold execTrialPhaseEnd
  simp only [trial, Nat.not_lt.2 due, second, if_true, if_false]
  rfl

/-- A trial in its delay phase, with what the baseline phase measured. -/
def Trial.delayed (q : Trial) (s : State) (clu : Nat) : Trial :=
  { q with delay := true, e0 := s.ns - q.began, p0 := s.trialGrowth clu q, began := s.ns, base := s.progress clu q.ctx q.k }

theorem trialPhaseEnd_delays (s : State) {clu : Nat} {q : Trial} (trial : (s.clu clu).trial = some q) (due : q.began + 1000 * q.t ≤ s.ns)
    (first : q.delay = false) : ∃ t q', Leads (.trialPhaseEnd clu) s t ∧ (t.clu clu).trial = some q' ∧ q'.delay = true ∧
      q'.e0 = s.ns - q.began ∧ q'.p0 = s.trialGrowth clu q ∧ q'.began = s.ns := by
  refine ⟨(s.wake.modClu clu fun c => { c with trial := some (q.delayed s clu) }).post (.trialPhaseEnd clu), q.delayed s clu, ?_, ?_, rfl, rfl,
    rfl, rfl⟩
  · show execTrialPhaseEnd clu s = _
    unfold execTrialPhaseEnd
    simp only [trial, Nat.not_lt.2 due, first, Bool.false_eq_true, if_false]
    rfl
  · rw [State.post_at_clu, State.clu_modClu_self]

theorem agedLevel_le (b w : Nat) : agedLevel b w ≤ 9 := Nat.min_le_left _ _
theorem agedLevel_later (b w : Nat) : agedLevel b (w + 256) = min 9 (agedLevel b w + 1) := by unfold agedLevel; omega

theorem traceSyncTimer_leads (s : State) {tid pid : Nat} {u : Team} {p : Path} (team : s.team? tid = some u) (path : u.paths.get? pid = some p)
    (traced : s.traced u = true) (lives : u.place ≠ .ended) (synced : p.needSync = false) :
    Leads (.traceSyncTimer tid pid) s (if u.place = .resident ∧ s.syncDue u p = true then
      s.traceSync tid u pid (slotAddr p.pc) p.mask else s.postOnce (.traceSyncTimer tid pid)) := by
  show execTraceSyncTimer tid pid s = _
  unfold execTraceSyncTimer
  simp only [team, path, traced, lives, synced, Bool.not_true, decide_false, Bool.or_false, Bool.false_eq_true, if_false,
    Bool.and_eq_true, decide_eq_true_eq]
  split
  · rename_i due
    unfold State.syncIfDue
    simp only [team, path, due.2, if_true]
    rfl
  · rfl

theorem narrowWritebackTimer_leads (s : State) {core line : Nat} {l : L1Line} (own : s.l1? core line = some l) (dirty : l.dirty ≠ 0)
    (due : l.dirtyAt + 2000 ≤ s.ns) : ∃ t l', Leads (.narrowWritebackTimer core line) s t ∧
      t.l1? core line = some l' ∧ l'.dirty = 0 ∧ l'.data = l.data ∧ t.mem = s.mem := by
  refine ⟨s.writeBackLine core line, { l with dirty := l.dirty &&& ~~~(BitVec.allOnes 32) }, ?_, ?_, by simp, rfl, ?_⟩
  · show execNarrowWritebackTimer core line s = _
    unfold execNarrowWritebackTimer
    simp only [own, dirty, Nat.not_lt.2 due, if_false]
    rfl
  · unfold State.writeBackLine State.writeBackWords
    simp only [own, BitVec.and_allOnes, dirty, if_false]
    unfold State.l1? State.setL1
    rw [State.post_at_core, State.core_modCore_self]
    exact Tab.get?_put_self _ _ _
  · unfold State.writeBackLine State.writeBackWords
    simp only [own, BitVec.and_allOnes, dirty, if_false]
    rfl

/-! ## Completion, deferred causes and posted stores (R63, R282, R416, R419) -/

theorem instructionComplete_leads (s : State) {tid id : Nat} {u : Team} {o : Outst} (team : s.team? tid = some u)
    (listed : u.outst.find? (fun o => o.id = id) = some o) :
    Leads (.instructionComplete tid id) s (if s.condHolds u o.cond then
      (s.modTeam tid fun t => { t with outst := t.outst.filter fun o => o.id ≠ id }).condDone o.cond
      else (match o.cond with
        | .svc call => if u.place = Place.resident then s.svcSave tid call else s
        | _ => s).post (.instructionComplete tid id)) := by
  show execInstructionComplete tid id s = _
  unfold execInstructionComplete
  simp only [team, listed]
  rfl

/-- The path that takes a team's deferred cause (log 47): of its eligible paths the best, else its lowest path. -/
def Team.boundaryPath (u : Team) (best : Option Cand) : Nat :=
  match best with
  | some c => c.pid
  | none => match u.paths with | (k, _) :: _ => k | [] => 0

theorem exec_deferredTrap {s s1 : State} {tid : Nat} {u : Team} {cs : List Cand} (team : s.team? tid = some u) (holds : u.deferred ≠ [])
    (here : u.place = .resident) (open_ : u.inHandler = false) (looked : s.candidates u.core (!u.fw && u.xfront) = (cs, s1)) :
    let t := s1.deliverDeferred tid (u.boundaryPath (bestOf (cs.filter fun c => c.tid = tid)))
    exec (.deferredTrap tid) s =
      event (match t.team? tid with | some v => if v.deferred.isEmpty then t else t.postOnce (.deferredTrap tid) | none => t) := by
  have waiting : u.deferred.isEmpty = false := by simpa using holds
  show execDeferredTrap tid s = _
  unfold execDeferredTrap
  simp only [team, waiting, open_, here, ne_eq, not_true_eq_false, decide_false, Bool.or_false, Bool.false_eq_true, if_false, looked]
  rfl

theorem deferredTrap_leads (s s1 : State) {tid : Nat} {u : Team} {cs : List Cand} (team : s.team? tid = some u) (holds : u.deferred ≠ [])
    (here : u.place = .resident) (open_ : u.inHandler = false) (looked : s.candidates u.core (!u.fw && u.xfront) = (cs, s1)) :
    ∃ (t : State) (k : Nat), Leads (.deferredTrap tid) s t ∧
      (t = s1.deliverDeferred tid k ∨ t = (s1.deliverDeferred tid k).postOnce (.deferredTrap tid)) ∧
      ∀ b, bestOf (cs.filter fun c => c.tid = tid) = some b → k = b.pid := by
  refine ⟨_, u.boundaryPath (bestOf (cs.filter fun c => c.tid = tid)), exec_deferredTrap team holds here open_ looked, ?_,
    fun b best => by rw [best]; rfl⟩
  split
  · split
    · exact .inl rfl
    · exact .inr rfl
  · exact .inl rfl

theorem lateStoreFault_leads (s s2 : State) {core tag : Nat} {e : Posted} {u : Team} (listed : (s.core core).posted.get? tag = some e)
    (flying : s.pending.any (isStore e.store) = true)
    (dropped : (s.dropStore core e.store).modCore core (fun c => { c with posted := c.posted.del tag }) = s2)
    (team : s2.team? e.team = some u) (lives : u.place ≠ .ended) :
    Leads (.lateStoreFault core tag) s (s2.deferTrap e.team ⟨Cause.lateStore, BitVec.ofNat 32 tag, e.va, none, none⟩) := by
  show execLateStoreFault core tag s = _
  unfold execLateStoreFault
  simp only [listed, flying, dropped, team, lives, Bool.not_true, decide_false, Bool.false_eq_true, if_false]
  rfl

theorem postedStoreAck_leads (s : State) (core tag : Nat) : ∃ t, Leads (.postedStoreAck core tag) s t ∧ (t.core core).posted.get? tag = none ∧
    (∀ k, k ≠ tag → (t.core core).posted.get? k = (s.core core).posted.get? k) ∧ t = { s with cores := t.cores } := by
  refine ⟨_, rfl, ?_, fun k other => ?_, rfl⟩
  · rw [State.core_modCore_self]; exact Tab.get?_del_self _ _
  · rw [State.core_modCore_self]; dsimp only; rw [Tab.get?_del, if_neg (Ne.symm other)]
end Sys2Proof.Machine

namespace Sys2Proof.Proofs
open Sys2Proof.Machine Sys2Proof.Safety

/-- Settles O57, event by event. -/
theorem workTimeAndSchedule : Obligations.WorkTimeAndSchedule := by
  intro s s1 s2 ctx pool clu i id tid pid r h src core tag line
  exact ⟨recordDistribute_leads s s1, fun f => gatherWindowExpiry_leads s, fun l place => groupAdmission_leads s s1,
    fun x => feedAppend_leads s rfl rfl, fun e => edfPeriodStart_leads s,
    fun e runs => ⟨stopRequest_leads s runs, sliceEnd_frees s runs, sliceEnd_preempts s runs, hardPreemption_leads s runs⟩,
    fun t0 => saveTimerExpiry_leads s, fun u p k => sleepExpiry_leads s,
    fun q trial due => ⟨trialPhaseEnd_finishes s trial due, trialPhaseEnd_delays s trial due⟩,
    fun u o => instructionComplete_leads s, rfl, fun u cs => deferredTrap_leads s s1,
    ⟨rfl, fun b w _ => ⟨agedLevel_le b w, agedLevel_later b w⟩⟩, fun u p => traceSyncTimer_leads s,
    fun e u => lateStoreFault_leads s s2, postedStoreAck_leads s core tag, fun l => narrowWritebackTimer_leads s⟩
end Sys2Proof.Proofs
end

section
/-! SUPPORT. A trap on a path that waits at a CLAIM lets its pool serve the next CLAIM (R280), whose path owes a SYNC (R165): the packet
goes to the trace ring in memory (R163), which O11's "no memory" leaves out. -/
namespace Sys2Proof.Proofs
open Sys2Proof.Machine Sys2Proof.Safety

/-- A team of 32 lanes of group 1 on core 0 whose one path is parked at a CLAIM and has issued nothing under tracing. -/
def claimant (slot : Nat) : Team :=
  { Team.agent 0 0 with
    fw := false, lanes := 32, carried := 32, group := 1, slot := slot, index := slot,
    paths := [(0, { Path.start 0x10000 (firstLanes 32) 0 with st := .parked .claim })] }

/-- Their group: one block is left on core 0; team 0 is at the head and waits for two, team 1 wants one. -/
def claimGroup : Group :=
  { ctx := 0, teams := [0, 1], ranges := [], len := 0, windows := [], tiles := 0, counts := [], gens := [], blocks := [(0, 1)],
    claims := [(0, 0, 2), (1, 0, 1)], crew := false, pool := 0, whole := false, srcs := [], saved := false }

/-- Context 0 has a handler, and is traced on die 0. -/
def claimState : State :=
  { State.reset with
    teams := [(0, claimant 0), (1, claimant 1)],
    clus := [(0, { Cluster.reset with groups := [(1, claimGroup)] })],
    dies := [(0, { Die.reset with traced := 1, ctxCsr := [(0x876, 0x20000)] })] }

/-- The fault of a store that had been posted, which a team takes at its next instruction boundary (R416, R419). -/
def lateStoreTrap : TrapReq := ⟨Cause.lateStore, 0, 0x3000, none, 0x10004⟩

/-- Memory lists nothing before the trap; after it the ring's first byte is the head of team 1's SYNC packet. -/
theorem trap_writes_trace_ring : claimState.mem = [] ∧ (claimState.takeTrap 0 0 0x10004 lateStoreTrap).mem.read 0 = 0x12 := by
  decide +kernel

/-- Refutes O11: the trap of a path parked at a CLAIM can write to memory, since another team's CLAIM is served then and its SYNC
packet goes to the trace ring. -/
theorem not_trapsEnterTheHandler : ¬ Obligations.TrapsEnterTheHandler := by
  rintro ⟨enters, -⟩
  have handler : claimState.handler (claimant 0) ≠ 0 := by decide
  obtain ⟨u, q, lanes, entered⟩ := enters claimState 0 0 0x10004 lateStoreTrap (claimant 0) _ rfl rfl rfl (by decide) handler
    (by decide) (by decide)
  obtain ⟨-, -, -, -, -, -, -, -, -, -, -, -, -, -, -, -, -, -, -, -, -, -, mem⟩ := entered
  obtain ⟨empty, packet⟩ := trap_writes_trace_ring
  rw [mem, empty] at packet
  exact absurd packet (by decide)
end Sys2Proof.Proofs
end

section
/-! SUPPORT. The local store (R87): what its bytes are after writes, and what a local-store instruction does (R65, R330). -/
namespace Sys2Proof.Machine
open Sys2Proof.Safety

/-! ## Bytes -/

theorem natLe_length (n x : Nat) : (natLe n x).length = n := by
  induction n generalizing x with
  | zero => rfl
  | succ n ih => simp [natLe, ih]

/-- A run of bytes, byte by byte. -/
theorem readRun_eq_map (rd : Nat → Byte) (a n : Nat) : readRun rd a n = (List.range n).map fun i => rd (a + i) := by
  induction n generalizing a with
  | zero => rfl
  | succ n ih =>
    rw [readRun, ih, List.range_succ_eq_map, List.map_cons, List.map_map]
    simp only [Function.comp_def, Nat.add_zero, Nat.succ_eq_add_one, Nat.add_assoc, Nat.add_comm 1]

/-! ## Writes of the local store -/

theorem Core.lbyte_setLbyte (c : Core) (a b : Nat) (x : Byte) : (c.setLbyte a x).lbyte b = if a = b then x else c.lbyte b := by
  unfold Core.lbyte Core.setLbyte
  dsimp only
  rw [Tab.get?_put]
  by_cases same : a = b
  · rw [if_pos same, if_pos same]
  · rw [if_neg same, if_neg same]

theorem Core.lbyte_foldl_setLbyte (bs : List Byte) (c : Core) (a b : Nat) :
    ((atAddr a bs).foldl (fun c p => c.setLbyte p.1 p.2) c).lbyte b =
      if a ≤ b ∧ b < a + bs.length then bs.getD (b - a) 0 else c.lbyte b := by
  induction bs generalizing c a with
  | nil => rw [if_neg (by simp)]; rfl
  | cons x bs ih =>
    rw [atAddr, List.foldl_cons, ih, Core.lbyte_setLbyte, List.length_cons]
    rcases Nat.lt_trichotomy a b with below | rfl | above
    · obtain ⟨k, rfl⟩ : ∃ k, b = a + 1 + k := ⟨b - (a + 1), by omega⟩
      have index : a + 1 + k - (a + 1) = k ∧ a + 1 + k - a = k + 1 := by omega
      rw [index.1, index.2, List.getD_cons_succ, if_neg (by omega : ¬ a = a + 1 + k)]
      exact ite_congr (propext (by omega)) (fun _ => rfl) fun _ => rfl
    · rw [if_neg (by omega), if_pos rfl, if_pos (by omega), Nat.sub_self, List.getD_cons_zero]
    · rw [if_neg (by omega), if_neg (by omega), if_neg (by omega)]

/-- A write changes the bytes it is given on its core, and no other. -/
theorem localByte_lwrite (s : State) (core a core' b : Nat) (bs : List Byte) : localByte (s.lwrite core a bs) core' b =
    if core = core' ∧ a ≤ b ∧ b < a + bs.length then bs.getD (b - a) 0 else localByte s core' b := by
  unfold localByte State.lwrite
  rw [State.core_modCore]
  by_cases same : core = core'
  · subst same
    rw [if_pos rfl, Core.lbyte_foldl_setLbyte]
    exact ite_congr (propext (by simp)) (fun _ => rfl) fun _ => rfl
  · rw [if_neg same, if_neg (by simp [same])]

theorem localByte_lwrite_outside (s : State) {core a core' b : Nat} {bs : List Byte} (h : core' = core → b < a ∨ a + bs.length ≤ b) :
    localByte (s.lwrite core a bs) core' b = localByte s core' b := by
  rw [localByte_lwrite, if_neg]
  rintro ⟨same, lo, hi⟩
  have := h same.symm
  omega

theorem localByte_lwrite_inside (s : State) (core a : Nat) {bs : List Byte} {i : Nat} (h : i < bs.length) :
    localByte (s.lwrite core a bs) core (a + i) = bs.getD i 0 := by
  rw [localByte_lwrite, if_pos (by omega), Nat.add_sub_cancel_left]

/-- The writes of some lanes in order, each of `n` bytes at its own address. -/
def State.lwriteLanes (s : State) (core : Nat) (at_ : Nat → Nat) (bs : Nat → List Byte) (ls : List Nat) : State :=
  ls.foldl (fun s l => s.lwrite core (at_ l) (bs l)) s

theorem lwriteLanes_frame (s : State) (core : Nat) (at_ : Nat → Nat) (bs : Nat → List Byte) (ls : List Nat) :
    s.lwriteLanes core at_ bs ls = { s with cores := (s.lwriteLanes core at_ bs ls).cores } :=
  List.foldlRecOn (motive := fun t : State => t = { s with cores := t.cores }) ls _ rfl fun t ht l _ =>
    congrArg (fun u : State => { u with cores := (t.lwrite core (at_ l) (bs l)).cores }) ht

section
variable {n : Nat} {bs : Nat → List Byte} (len : ∀ l, (bs l).length = n)
include len

theorem localByte_lwriteLanes_outside (s : State) (core : Nat) (at_ : Nat → Nat) (ls : List Nat) {core' b : Nat}
    (h : ∀ l ∈ ls, core' = core → b < at_ l ∨ at_ l + n ≤ b) :
    localByte (s.lwriteLanes core at_ bs ls) core' b = localByte s core' b :=
  List.foldlRecOn (motive := fun t : State => localByte t core' b = localByte s core' b) ls _ rfl fun t ht l hl =>
    (localByte_lwrite_outside t (by rw [len]; exact h l hl)).trans ht

/-- The bytes of a lane that no other lane's write overlaps are its own: its last write is followed by other lanes' alone. -/
theorem localByte_lwriteLanes_inside (s : State) (core : Nat) (at_ : Nat → Nat) (ls : List Nat) {l : Nat} (hl : l ∈ ls)
    (apart : ∀ l' ∈ ls, l' ≠ l → at_ l' + n ≤ at_ l ∨ at_ l + n ≤ at_ l') {i : Nat} (hi : i < n) :
    localByte (s.lwriteLanes core at_ bs ls) core (at_ l + i) = (bs l).getD i 0 := by
  induction ls generalizing s with
  | nil => cases hl
  | cons k ls ih =>
    by_cases again : l ∈ ls
    · exact ih _ again fun l' hl' => apart l' (.tail k hl')
    · obtain rfl : l = k := (List.mem_cons.1 hl).resolve_right again
      have others : ∀ l' ∈ ls, core = core → at_ l + i < at_ l' ∨ at_ l' + n ≤ at_ l + i := fun l' hl' _ => by
        have := apart l' (.tail l hl') fun e => again (e ▸ hl')
        omega
      exact (localByte_lwriteLanes_outside len _ core at_ ls others).trans (localByte_lwrite_inside s core _ (by rw [len]; exact hi))
end

/-! ## Accesses -/

/-- A lane's offset in its group's range, whether its access lies in the range, and its address (R87, R330). -/
def Ctx.localOff (c : Ctx) (x : Code) (z : BitVec 2) (o : BitVec 6) (l : Nat) : Int := ((c.b false x l).toNat : Int) + o.toInt * c.size z
def Ctx.inLocal (c : Ctx) (x : Code) (z : BitVec 2) (o : BitVec 6) (l : Nat) : Bool :=
  decide (0 ≤ c.localOff x z o l) && decide (c.localOff x z o l + c.size z ≤ (c.localRange.2 : Int))
def Ctx.localAt (c : Ctx) (x : Code) (z : BitVec 2) (o : BitVec 6) (l : Nat) : Nat := c.localRange.1 + (c.localOff x z o l).toNat
/-- The lanes in range, their accesses, and the mask of the other lanes. -/
def Ctx.localGood (c : Ctx) (x : Code) (z : BitVec 2) (o : BitVec 6) : List Nat := c.lanes.filter (c.inLocal x z o)
def Ctx.localAccs (c : Ctx) (x : Code) (z : BitVec 2) (o : BitVec 6) : List (Nat × Nat) :=
  (c.localGood x z o).map fun l => (l, c.localAt x z o l)
def Ctx.localBad (c : Ctx) (x : Code) (z : BitVec 2) (o : BitVec 6) : LaneMask := maskOf (c.lanes.filter fun l => !c.inLocal x z o l)

theorem localAccs_lanes (c : Ctx) (x : Code) (z : BitVec 2) (o : BitVec 6) : (c.localAccs x z o).map (·.1) = c.localGood x z o := by
  rw [Ctx.localAccs, List.map_map]; exact List.map_id _

theorem localAccs_any (c : Ctx) (x : Code) (z : BitVec 2) (o : BitVec 6) {l : Nat} (hl : l ∈ c.localGood x z o) :
    ((c.localAccs x z o).any fun a => decide (a.1 = l)) = true := by
  simpa [Ctx.localAccs] using hl

theorem localAccs_find (c : Ctx) (x : Code) (z : BitVec 2) (o : BitVec 6) {l : Nat} (hl : l ∈ c.localGood x z o) :
    (c.localAccs x z o).find? (fun a => decide (a.1 = l)) = some (l, c.localAt x z o l) := by
  unfold Ctx.localAccs
  generalize c.localGood x z o = good at hl
  induction good with
  | nil => cases hl
  | cons k good ih =>
    by_cases same : k = l
    · simp [same]
    · rw [List.map_cons, List.find?_cons_of_neg (by simpa using same)]
      exact ih ((List.mem_cons.1 hl).resolve_left (Ne.symm same))

section
variable {c : Ctx} {x : Code} {z : BitVec 2} {o : BitVec 6} {s t : State} {k : State → List (Nat × Nat) → Res}

theorem local_misaligned (odd : ∃ l ∈ c.lanes, c.localOff x z o l % (c.size z : Int) ≠ 0) :
    ∃ a m, c.local_ s x (o.toInt * c.size z) (c.size z) k = c.trapMem Cause.align a m := by
  unfold Ctx.local_
  dsimp only
  split
  · exact ⟨_, _, rfl⟩
  · rename_i none
    obtain ⟨l, hl, bad⟩ := odd
    exact absurd (List.filter_eq_nil_iff.1 none _ (List.mem_map_of_mem hl)) (by simpa [Ctx.localOff] using bad)

/-- Where every lane's offset is aligned, the accesses in range are performed, and the other lanes are faulted then. -/
theorem local_aligned (even : ∀ l ∈ c.lanes, c.localOff x z o l % (c.size z : Int) = 0) (done : k s (c.localAccs x z o) = .done t) :
    c.local_ s x (o.toInt * c.size z) (c.size z) k = c.doneFaulting t (c.localBad x z o) := by
  unfold Ctx.localAccs Ctx.localGood Ctx.inLocal Ctx.localAt Ctx.localOff at done
  unfold Ctx.local_
  dsimp only
  rw [List.filter_eq_nil_iff.2 (by simpa [Ctx.localOff] using even)]
  simp only [List.partition_eq_filter_filter, List.filter_map, List.map_map, Function.comp_def]
  rw [done, List.map_id']
  rfl
end

theorem finishes_of_doneFaulting {i : Instr} {body : Ctx → State → Res} {s s' t : State} {c : Ctx} {bad : LaneMask}
    (h : admission i s = .ok c s') (e : exec i s = issue i body s) (hb : body c s' = c.doneFaulting t bad) : Finishes i s c t bad := by
  unfold Ctx.doneFaulting at hb
  refine ⟨fun stays => completes_of_done h e ?_, fun gone => places_of_jump h e ?_⟩
  · rw [hb, if_neg stays]
  · rw [hb, if_pos gone]

/-! ## LDL and STL (R330) -/

/-- What LDL reads for a lane by its accesses, and with free values for the lanes that have none (R148). -/
def Ctx.ldlVal (c : Ctx) (s : State) (z : BitVec 2) (as : List (Nat × Nat)) (l : Nat) : DWord :=
  match as.find? fun a => decide (a.1 = l) with
  | some a => loadExtend c.T z.toNat (leNat (s.lread c.core a.2 (c.size z)))
  | none => 0
def Ctx.ldlEntry (c : Ctx) (s : State) (z : BitVec 2) (as : List (Nat × Nat)) (l : Nat) : DWord :=
  if as.any fun a => decide (a.1 = l) then c.ldlVal s z as l else (freeWord s.free l).setWidth 64

/-- LDL's result goes to the registers of the lanes it reads for, or as an entry to a queue. -/
def Ctx.ldlPut (c : Ctx) (s : State) (d : Code) (z : BitVec 2) (as : List (Nat × Nat)) : Res :=
  if Code.isQ d then c.put { s with free := s.free + 1 } d (szWide c.T z.toNat) (c.ldlEntry s z as)
  else .done (c.modTeam s fun t => t.putReg (as.map (·.1)) d (szWide c.T z.toNat) (c.ldlVal s z as))

section
variable {d x : Code} {z : BitVec 2} {o : BitVec 6} {s s' t : State} {c : Ctx}

theorem ldlVal_good {l : Nat} (hl : l ∈ c.localGood x z o) : c.ldlVal s z (c.localAccs x z o) l =
    loadExtend c.T z.toNat (leNat ((List.range (c.size z)).map fun i => localByte s c.core (c.localAt x z o l + i))) := by
  unfold Ctx.ldlVal
  rw [localAccs_find c x z o hl]
  dsimp only
  rw [State.lread, readRun_eq_map]
  rfl

theorem ldlEntry_good {l : Nat} (hl : l ∈ c.localGood x z o) :
    c.ldlEntry s z (c.localAccs x z o) l = c.ldlVal s z (c.localAccs x z o) l := by
  rw [Ctx.ldlEntry, if_pos (localAccs_any c x z o hl)]

/-- Where no byte in range has an error, LDL is done with its result, but for the lanes that it faults. -/
theorem ldl_finishes (h : admission (.ldl d x z o) s = .ok c s') (even : ∀ l ∈ c.lanes, c.localOff x z o l % (c.size z : Int) = 0)
    (sound : ∀ l ∈ c.localGood x z o, (s'.core c.core).badLocal (c.localAt x z o l) (c.size z) = none)
    (put : c.ldlPut s' d z (c.localAccs x z o) = .done t) : Finishes (.ldl d x z o) s c t (c.localBad x z o) := by
  have unharmed : ∀ a ∈ c.localAccs x z o, (s'.core c.core).badLocal a.2 (c.size z) = none := by
    intro a ha
    obtain ⟨l, hl, rfl⟩ := List.mem_map.1 ha
    exact sound l hl
  refine finishes_of_doneFaulting h rfl (local_aligned even ?_)
  dsimp only
  rw [findSome_none]
  · exact put
  · intro a ha
    rw [unharmed a ha, Option.map_none]

theorem stl_finishes (h : admission (.stl d x z o) s = .ok c s') (even : ∀ l ∈ c.lanes, c.localOff x z o l % (c.size z : Int) = 0) :
    Finishes (.stl d x z o) s c
      (s'.lwriteLanes c.core (c.localAt x z o) (fun l => natLe (c.size z) (c.a (szWide c.T z.toNat) d l).toNat) (c.localGood x z o))
      (c.localBad x z o) := by
  refine finishes_of_doneFaulting h rfl (local_aligned even ?_)
  rw [Ctx.localAccs, List.foldl_map]
  rfl
end
end Sys2Proof.Machine

namespace Sys2Proof.Proofs
open Sys2Proof.Machine Sys2Proof.Safety

/-- Settles O34: a misaligned lane traps; else LDL is done with the values of its lanes in range, and STL with its writes, one lane after
the other. -/
theorem localStoreAccesses : Obligations.LocalStoreAccesses := by
  intro d x z o s s' c
  refine ⟨fun odd => ⟨fun h => ?_, fun h => ?_⟩, fun even => ⟨fun h sound => ?_, fun h => ?_⟩⟩
  · obtain ⟨a, m, trapped⟩ := local_misaligned odd
    exact ⟨a, m, trapsWith_of_trap h rfl trapped⟩
  · obtain ⟨a, m, trapped⟩ := local_misaligned odd
    exact ⟨a, m, trapsWith_of_trap h rfl trapped⟩
  · cases queue : Code.isQ d with
    | false =>
      refine ⟨0, c.ldlVal s' z (c.localAccs x z o), fun l hl => ldlVal_good hl, fun _ => ldl_finishes h even sound ?_, nofun⟩
      rw [Ctx.ldlPut, queue, localAccs_lanes]; rfl
    | true =>
      refine ⟨s'.free + 1, c.ldlEntry s' z (c.localAccs x z o), fun l hl => (ldlEntry_good hl).trans (ldlVal_good hl), nofun,
        fun _ t put => ldl_finishes h even sound ?_⟩
      rw [Ctx.ldlPut, if_pos queue]; exact put
  · have len (l : Nat) := natLe_length (c.size z) (c.a (szWide c.T z.toNat) d l).toNat
    exact ⟨_, stl_finishes h even, lwriteLanes_frame .., fun core a away => localByte_lwriteLanes_outside len s' c.core _ _ away,
      fun l hl apart i hi => localByte_lwriteLanes_inside len s' c.core _ _ hl apart hi⟩
end Sys2Proof.Proofs
end

section
/-! SUPPORT. Addresses that no access is made at (R75, R80, R85, R326, R327): the tests that come before translation. -/
namespace Sys2Proof.Machine
open Sys2Proof.Safety

theorem getLsbD_foldl_lanes (ls : List Nat) (m : LaneMask) {l : Nat} (hl : l < 1024) :
    (ls.foldl (fun m l => m ||| (1#1024 <<< l)) m).getLsbD l = true ↔ m.getLsbD l = true ∨ l ∈ ls := by
  induction ls generalizing m with
  | nil => simp
  | cons k ls ih =>
    have bit : (1#1024 <<< k).getLsbD l = true ↔ l = k := by
      simp only [BitVec.getLsbD_shiftLeft, BitVec.getLsbD_one, Bool.and_eq_true, decide_eq_true_eq, Bool.not_eq_true', decide_eq_false_iff_not]
      omega
    rw [List.foldl_cons, ih, BitVec.getLsbD_or, Bool.or_eq_true, bit, List.mem_cons, or_assoc]

/-- The lanes that a mask of some of the accesses names. -/
theorem getLsbD_maskOf_accs (as : List (Nat × Nat)) (p : Nat × Nat → Prop) [DecidablePred p] {l : Nat} (hl : l < 1024) :
    (maskOf ((as.filter fun a => decide (p a)).map (·.1))).getLsbD l = true ↔ ∃ a ∈ as, a.1 = l ∧ p a := by
  rw [maskOf, getLsbD_foldl_lanes _ _ hl]
  simp only [BitVec.ofNat_eq_ofNat, BitVec.getLsbD_zero, Bool.false_eq_true, false_or, List.mem_map, List.mem_filter, decide_eq_true_eq]
  exact ⟨fun ⟨a, ⟨ha, pa⟩, e⟩ => ⟨a, ha, e, pa⟩, fun ⟨a, ha, e, pa⟩ => ⟨a, ⟨ha, pa⟩, e⟩⟩

/-- A filter that keeps something begins with what `find?` finds. -/
theorem exists_filter_cons {α : Type} {as : List α} {p : α → Bool} (some_ : ∃ a ∈ as, p a = true) :
    ∃ a rest, as.filter p = a :: rest ∧ as.find? p = some a := by
  cases kept : as.filter p with
  | nil => obtain ⟨a, ha, pa⟩ := some_; exact absurd pa (List.filter_eq_nil_iff.1 kept a ha)
  | cons a rest => exact ⟨a, rest, rfl, by rw [← List.head?_filter, kept]; rfl⟩

/-- ALIGN comes first (R326), with the lowest misaligned lane's address and every such lane. -/
theorem addrTest_misaligned (c : Ctx) {as : List (Nat × Nat)} {n : Nat} (odd : ∃ a ∈ as, a.2 % n ≠ 0) : ∃ va,
    (as.find? fun a => decide (a.2 % n ≠ 0)).map (·.2) = some va ∧
    c.addrTest as n = some (c.trapMem Cause.align va (maskOf ((as.filter fun a => decide (a.2 % n ≠ 0)).map (·.1)))) := by
  obtain ⟨a, rest, kept, found⟩ := exists_filter_cons (p := fun a => decide (a.2 % n ≠ 0))
    (odd.imp fun a h => ⟨h.1, decide_eq_true h.2⟩)
  refine ⟨a.2, by rw [found]; rfl, ?_⟩
  unfold Ctx.addrTest
  dsimp only
  rw [kept]

theorem addrTest_noncanonical (c : Ctx) {as : List (Nat × Nat)} {n : Nat} (even : ∀ a ∈ as, a.2 % n = 0) (far : ∃ a ∈ as, a.2 ≥ 2 ^ 56) :
    ∃ va, c.addrTest as n = some (c.trapMem Cause.addrNoncanon va (maskOf ((as.filter fun a => decide (a.2 ≥ 2 ^ 56)).map (·.1)))) := by
  obtain ⟨a, rest, kept, -⟩ := exists_filter_cons (as := as) (p := fun a => decide (a.2 ≥ 2 ^ 56))
    (far.imp fun a h => ⟨h.1, decide_eq_true h.2⟩)
  have none_ : (as.filter fun a => decide (a.2 % n ≠ 0)) = [] := List.filter_eq_nil_iff.2 fun a ha => by simp [even a ha]
  refine ⟨a.2, ?_⟩
  unfold Ctx.addrTest
  dsimp only
  rw [none_, kept]

/-- What the tests refuse goes no further. -/
theorem reach_refused {c : Ctx} {as : List (Nat × Nat)} {n : Nat} {r : Res} (refused : c.addrTest as n = some r) (s : State)
    (rd wr sync watched : Bool) (k : State → List LaneAcc → Res) : c.reach s as n rd wr sync watched k = r := by
  unfold Ctx.reach; rw [refused]

/-- The lanes' addresses of a load or store of one element of each lane, or, of LDU and STU, of one for them all (R327, R329). -/
def Ctx.accessed (c : Ctx) (d x : Code) (z : BitVec 2) (o : BitVec 6) (i : Instr) : List (Nat × Nat) :=
  if i = .ldu d x z o ∨ i = .stu d x z o then (c.addrs x (o.toInt * c.size z)).take 1 else c.addrs x (o.toInt * c.size z)

/-- Each of the six answers what the tests of its addresses refuse. -/
theorem exec_of_addrTest {d x : Code} {z : BitVec 2} {o : BitVec 6} {i : Instr} {c : Ctx} {r : TrapReq} {s s' : State}
    (six : i ∈ [Instr.ld d x z o, .st d x z o, .ldu d x z o, .stu d x z o, .ldq d x z o, .str d x z o])
    (h : admission i s = .ok c s') (begins : c.rest? = none) (refused : c.addrTest (c.accessed d x z o i) (c.size z) = some (.trap r)) :
    TrapsWith i s c r := by
  have goes {as : List (Nat × Nat)} (own : c.accessed d x z o i = as) := reach_refused (own ▸ refused) s'
  simp only [List.mem_cons, List.not_mem_nil, or_false] at six
  rcases six with rfl | rfl | rfl | rfl | rfl | rfl
  · exact trapsWith_of_trap h rfl (goes (if_neg (by simp)) ..)
  · exact trapsWith_of_trap h rfl (by rw [Ctx.plainStore, begins]; exact goes (if_neg (by simp)) ..)
  · exact trapsWith_of_trap h rfl (goes (if_pos (.inl rfl)) ..)
  · exact trapsWith_of_trap h rfl (by rw [Ctx.plainStore, begins]; exact goes (if_pos (.inr rfl)) ..)
  · exact trapsWith_of_trap h rfl (goes (if_neg (by simp)) ..)
  · exact trapsWith_of_trap h rfl (by rw [begins]; exact goes (if_neg (by simp)) ..)
end Sys2Proof.Machine

namespace Sys2Proof.Proofs
open Sys2Proof.Machine Sys2Proof.Safety

/-- Settles O38: all six make the tests of R326 on their own lanes' addresses before anything else. -/
theorem misalignedAccessesTrap : Obligations.MisalignedAccessesTrap := by
  intro d x z o s s' c i n all as six h begins
  refine ⟨fun odd => ?_, fun even far => ?_⟩
  · obtain ⟨va, lowest, refused⟩ := addrTest_misaligned c odd
    exact ⟨va, _, exec_of_addrTest six h begins refused, lowest, fun l hl => getLsbD_maskOf_accs as (fun a => a.2 % n ≠ 0) hl⟩
  · obtain ⟨va, refused⟩ := addrTest_noncanonical c even far
    exact ⟨va, _, exec_of_addrTest six h begins refused, fun l hl => getLsbD_maskOf_accs as (fun a => a.2 ≥ 2 ^ 56) hl⟩
end Sys2Proof.Proofs
end

section
/-! SUPPORT. The home slices (R94–R106, R116, R117): what the shared operations of the coherence protocol leave as it was, and the bytes that a
write leaves at home. -/
namespace Sys2Proof.Machine
open Sys2Proof.Safety

/-! ## What keeps home data as it was -/

/-- Copies and buffers of the cores and dies, the directory, events in flight, open writes and the numbering are all that differs: no
byte or stamp at home, no watch, no held request and no team. -/
def CopiesOnly (s t : State) : Prop :=
  t = { s with seq := t.seq, free := t.free, pending := t.pending, dir := t.dir, dies := t.dies, cores := t.cores, openWrites := t.openWrites }

theorem CopiesOnly.trans {s t u : State} (h : CopiesOnly s t) (g : CopiesOnly t u) : CopiesOnly s u := by
  unfold CopiesOnly at *; rw [g, h]

theorem CopiesOnly.mem {s t : State} (h : CopiesOnly s t) : t.mem = s.mem := (congrArg State.mem h :)
theorem CopiesOnly.teams {s t : State} (h : CopiesOnly s t) : t.teams = s.teams := (congrArg State.teams h :)

theorem copiesOnly_modCore (s : State) (n : Nat) (f : Core → Core) : CopiesOnly s (s.modCore n f) := rfl
theorem copiesOnly_modDie (s : State) (n : Nat) (f : Die → Die) : CopiesOnly s (s.modDie n f) := rfl
theorem copiesOnly_setDir (s : State) (line : Nat) (e : DirEntry) : CopiesOnly s (s.setDir line e) := rfl
theorem copiesOnly_post (s : State) (e : Instr) : CopiesOnly s (s.post e) := rfl
theorem copiesOnly_postOnce (s : State) (e : Instr) : CopiesOnly s (s.postOnce e) := by unfold CopiesOnly; rw [State.postOnce_eq]

theorem copiesOnly_foldl {α : Type} {f : State → α → State} (step : ∀ s a, CopiesOnly s (f s a)) (as : List α) (s : State) :
    CopiesOnly s (as.foldl f s) :=
  List.foldlRecOn (motive := CopiesOnly s) as f rfl fun t h a _ => h.trans (step t a)

/-- Evicting what a slice holds too much of (R94) posts events. -/
theorem trimSlice_frame (s : State) (key : Nat) :
    s.trimSlice key = { s with pending := (s.trimSlice key).pending, free := (s.trimSlice key).free } := by
  unfold State.trimSlice
  dsimp only
  split
  · rfl
  · exact List.foldlRecOn (motive := fun t : State => t = { s with pending := t.pending, free := t.free }) _ _ rfl
      fun t h l _ => by rw [State.postOnce_eq, h]

theorem copiesOnly_trimSlice (s : State) (key : Nat) : CopiesOnly s (s.trimSlice key) := (trimSlice_frame s key).trans (by rw [trimSlice_frame])

@[simp] theorem trimSlice_at_dirOf (s : State) (key line : Nat) : (s.trimSlice key).dirOf line = s.dirOf line := by
  unfold State.dirOf; rw [trimSlice_frame]
@[simp] theorem trimSlice_at_die (s : State) (key k : Nat) : (s.trimSlice key).die k = s.die k := by
  unfold State.die; rw [trimSlice_frame]

/-- Words that leave an L1, with the event counted or not, change their core. -/
theorem settleLine_frame (s : State) (core line : Nat) (l : L1Line) :
    s.settleLine core line l = { s with cores := (s.settleLine core line l).cores } := by unfold State.settleLine; split <;> rfl
theorem dropWords_frame (s : State) (core line first count : Nat) :
    s.dropWords core line first count = { s with cores := (s.dropWords core line first count).cores } := by
  unfold State.dropWords
  cases s.l1? core line with
  | none => rfl
  | some l => exact settleLine_frame ..
theorem dropSpan_frame (s : State) (core line first count ctx : Nat) :
    s.dropSpan core line first count ctx = { s with cores := (s.dropSpan core line first count ctx).cores } := by
  unfold State.dropSpan; rw [dropWords_frame]; rfl
theorem unpin_frame (s : State) (core line id : Nat) : s.unpin core line id = { s with cores := (s.unpin core line id).cores } := by
  unfold State.unpin
  cases s.l1? core line with
  | none => rfl
  | some l => exact settleLine_frame ..

theorem copiesOnly_dropWords (s : State) (core line first count : Nat) : CopiesOnly s (s.dropWords core line first count) :=
  (dropWords_frame ..).trans (by rw [dropWords_frame])
theorem copiesOnly_dropSpan (s : State) (core line first count ctx : Nat) : CopiesOnly s (s.dropSpan core line first count ctx) :=
  (dropSpan_frame ..).trans (by rw [dropSpan_frame])
theorem copiesOnly_unpin (s : State) (core line id : Nat) : CopiesOnly s (s.unpin core line id) :=
  (unpin_frame ..).trans (by rw [unpin_frame])

/-! ## Invalidations (R104–R106, R116) -/

theorem copiesOnly_enterApply (s : State) (e : Nat) (x : ApplyEnt) : CopiesOnly s (s.enterApply e x) :=
  (copiesOnly_modDie s e _).trans (copiesOnly_postOnce ..)

theorem enterApply_apply (s : State) (e : Nat) (x : ApplyEnt) (k : Nat) :
    ((s.enterApply e x).die k).apply = (s.die k).apply ++ if e = k then [x] else [] := by
  rw [State.enterApply, State.postOnce_at_die, State.die_modDie]
  by_cases same : e = k
  · subst same; simp
  · simp [same]

theorem copiesOnly_sendInval (s : State) (o e line : Nat) (span : Nat × Nat) (stamp : Clock) (writer : Option Nat) (ctx : Nat) (write : Bool) :
    CopiesOnly s (s.sendInval o e line span stamp writer ctx write) := by
  unfold State.sendInval
  dsimp only
  split
  · exact (copiesOnly_modDie s o _).trans (copiesOnly_enterApply ..)
  · exact copiesOnly_enterApply ..

theorem sendInval_apply (s : State) (o e line : Nat) (span : Nat × Nat) (stamp : Clock) (writer : Option Nat) (ctx : Nat) (write : Bool) :
    ∃ x : ApplyEnt, x.line? = some line ∧ ∀ k, ((s.sendInval o e line span stamp writer ctx write).die k).apply =
      (s.die k).apply ++ if e = k then [x] else [] := by
  refine ⟨_, rfl, fun k => (enterApply_apply ..).trans (congrArg (· ++ _) ?_)⟩
  split
  · rw [State.die_modDie]; split
    · subst k; rfl
    · rfl
  · rfl


/-- An invalidation of a span reaches one target. -/
def State.spreadTo (s : State) (line : Nat) (span : Nat × Nat) (o : Nat) (stamp : Clock) (writer : Option Nat) (ctx : Nat) (write : Bool)
    (x : Sharer) : State :=
  match x with
  | .core n => if some n = writer then s else s.dropSpan n line span.1 span.2 ctx
  | .die d => s.sendInval o d line span stamp writer ctx write

section
variable (s : State) (line : Nat) (span : Nat × Nat) (o : Nat) (stamp : Clock) (writer : Option Nat) (ctx : Nat) (write : Bool)

theorem spread_eq : s.spread line span o stamp writer ctx write =
    (s.targets line).foldl (fun s x => s.spreadTo line span o stamp writer ctx write x) s := rfl

theorem copiesOnly_spreadTo (x : Sharer) : CopiesOnly s (s.spreadTo line span o stamp writer ctx write x) := by
  cases x with
  | core n =>
    unfold State.spreadTo
    dsimp only
    split
    · rfl
    · exact copiesOnly_dropSpan ..
  | die d => exact copiesOnly_sendInval ..

theorem copiesOnly_spread : CopiesOnly s (s.spread line span o stamp writer ctx write) :=
  copiesOnly_foldl (fun s x => copiesOnly_spreadTo s line span o stamp writer ctx write x) _ s

theorem copiesOnly_invalidate : CopiesOnly s (s.invalidate line span o stamp writer ctx) := by
  unfold State.invalidate
  dsimp only
  split
  · exact copiesOnly_spread ..
  · exact (copiesOnly_spread ..).trans (copiesOnly_setDir ..)

/-- What waits in an apply queue waits on while other targets are told. -/
theorem applyHolds_spreadTo {d line' : Nat} (x : Sharer) (holds : s.applyHolds d line' = true) :
    (s.spreadTo line span o stamp writer ctx write x).applyHolds d line' = true := by
  unfold State.applyHolds at holds ⊢
  cases x with
  | core n =>
    unfold State.spreadTo
    dsimp only
    split
    · exact holds
    · rw [dropSpan_frame]; exact holds
  | die e =>
    obtain ⟨y, -, queue⟩ := sendInval_apply s o e line span stamp writer ctx write
    show List.any ((s.sendInval o e line span stamp writer ctx write).die d).apply _ = true
    rw [queue, List.any_append, holds, Bool.true_or]

/-- An invalidation waits in the apply queue of each guest die that it goes to. -/
theorem applyHolds_spread {d : Nat} (target : .die d ∈ s.targets line) :
    (s.spread line span o stamp writer ctx write).applyHolds d line = true := by
  obtain ⟨before, after, split_⟩ := List.append_of_mem target
  rw [spread_eq, split_, List.foldl_append, List.foldl_cons]
  refine List.foldlRecOn (motive := fun t : State => t.applyHolds d line = true) after _ ?_
    fun t holds x _ => applyHolds_spreadTo t line span o stamp writer ctx write x holds
  obtain ⟨y, on, queue⟩ := sendInval_apply (before.foldl (fun s x => s.spreadTo line span o stamp writer ctx write x) s) o d line span
    stamp writer ctx write
  unfold State.applyHolds
  show List.any ((State.sendInval _ o d line span stamp writer ctx write).die d).apply _ = true
  rw [queue, List.any_append, if_pos rfl]
  simp [on]
end

/-! ## Bytes at home (R76, R94) -/

theorem not_fabric_of_hbm {pa : Nat} (hbm : isHbm pa = true) : isFabricAp pa = false := by
  have below : pa < Config.hbmBytes := of_decide_eq_true hbm
  have size : Config.hbmBytes < 0x8000000000000 := by decide
  unfold isFabricAp
  simp only [Bool.and_eq_false_iff, decide_eq_false_iff_not]
  omega

theorem homeByte_of_hbm (s : State) {pa : Nat} (hbm : isHbm pa = true) : s.homeByte pa = s.mem.read pa := by
  unfold State.homeByte
  rw [if_neg (by rw [not_fabric_of_hbm hbm]; decide)]
  rfl

/-- One byte performed at home. -/
def State.homePutByte (s : State) (p : Nat × Byte) : State :=
  if isFabricAp p.1 then s.modMgmt fun m => { m with peer := m.peer.put (s.peerKey p.1) p.2 } else { s with mem := s.mem.write p.1 p.2 }

theorem homePut_mem_eq (s : State) (bs : List (Nat × Byte)) : (s.homePut bs).mem = (bs.foldl State.homePutByte s).mem := by
  unfold State.homePut
  dsimp only
  split <;> rfl

/-- Bytes of HBM are written in memory. -/
theorem homePut_mem (s : State) {bs : List (Nat × Byte)} (hbm : ∀ p ∈ bs, isHbm p.1 = true) : (s.homePut bs).mem = s.mem.writeList bs := by
  rw [homePut_mem_eq]
  induction bs generalizing s with
  | nil => rfl
  | cons p bs ih =>
    obtain ⟨first, rest⟩ := List.forall_mem_cons.1 hbm
    rw [List.foldl_cons, ih _ rest, State.homePutByte, if_neg (by rw [not_fabric_of_hbm first]; decide)]
    rfl

/-- Performing bytes at home writes them, stamps their line, invalidates copies and evicts what is too much. -/
theorem performBytes_steps (s : State) (line : Nat) {bs : List (Nat × Byte)} (stamp : Clock) (o : Nat) (writer : Option Nat) (ctx : Nat)
    (some_ : ¬ bs.isEmpty = true) : ∃ (u : State) (key : Nat), u.mem = (s.homePut bs).mem ∧
      s.performBytes line bs stamp o writer ctx = (u.invalidate line (spanOf bs) o stamp writer ctx).trimSlice key := by
  unfold State.performBytes
  rw [if_neg some_]
  generalize s.homePut bs = v
  exact ⟨{ v with stamps := v.stamps.put line stamp }, _, rfl, rfl⟩

theorem performBytes_mem (s : State) (line : Nat) {bs : List (Nat × Byte)} (stamp : Clock) (o : Nat) (writer : Option Nat) (ctx : Nat)
    (hbm : ∀ p ∈ bs, isHbm p.1 = true) : (s.performBytes line bs stamp o writer ctx).mem = s.mem.writeList bs := by
  by_cases empty : bs.isEmpty = true
  · rw [State.performBytes, if_pos empty, List.isEmpty_iff.1 empty]; rfl
  · obtain ⟨u, key, wrote, steps⟩ := performBytes_steps s line stamp o writer ctx empty
    rw [steps, (copiesOnly_trimSlice ..).mem, (copiesOnly_invalidate ..).mem, wrote, homePut_mem s hbm]

theorem read_writeList_of_not_mem {bs : List (Nat × Byte)} (m : Memory) {a : Nat} (other : ∀ p ∈ bs, p.1 ≠ a) :
    (m.writeList bs).read a = m.read a := by
  induction bs generalizing m with
  | nil => rfl
  | cons p bs ih =>
    obtain ⟨first, rest⟩ := List.forall_mem_cons.1 other
    exact (ih (m.write p.1 p.2) rest).trans (by rw [Memory.read_write, if_neg first])

theorem read_writeList_of_mem {bs : List (Nat × Byte)} (m : Memory) (nodup : (bs.map (·.1)).Nodup) {p : Nat × Byte} (mem : p ∈ bs) :
    (m.writeList bs).read p.1 = p.2 := by
  induction bs generalizing m with
  | nil => cases mem
  | cons q bs ih =>
    obtain ⟨once, rest⟩ := List.nodup_cons.1 nodup
    rcases List.mem_cons.1 mem with rfl | mem
    · refine (read_writeList_of_not_mem (m.write p.1 p.2) fun q hq same => once ?_).trans (by rw [Memory.read_write, if_pos rfl])
      exact List.mem_map.2 ⟨q, hq, same⟩
    · exact ih (m.write q.1 q.2) rest mem

/-- What stands at home after a write of some bytes of HBM: those bytes, and every other one as before. -/
theorem written_home {s t : State} {bs : List (Nat × Byte)} (hbm : ∀ p ∈ bs, isHbm p.1 = true) (nodup : (bs.map (·.1)).Nodup)
    (wrote : t.mem = s.mem.writeList bs) :
    (∀ p ∈ bs, t.homeByte p.1 = p.2) ∧ ∀ pa, (∀ p ∈ bs, p.1 ≠ pa) → t.mem.read pa = s.mem.read pa := by
  rw [wrote]
  refine ⟨fun p hp => ?_, fun pa other => read_writeList_of_not_mem s.mem other⟩
  rw [homeByte_of_hbm t (hbm p hp), wrote]
  exact read_writeList_of_mem s.mem nodup hp

end Sys2Proof.Machine
end

section
/-! SUPPORT. A core's stores on their way (R91, R94, R101, R105, R106, R123), and the home's part of a write-through store. -/
namespace Sys2Proof.Machine
open Sys2Proof.Safety

/-! ## The stores of an instruction (R123, R419) -/

/-- Stores go in order until the posted-store table is full. -/
theorem storeLanes_sends (c : Ctx) {ws left : List LaneStore} {s t : State} {gone ids : List Nat}
    (h : c.storeLanes ws s gone = (ids, left, t)) : ∃ sent, ws = sent ++ left ∧ ids.length = gone.length + sent.length ∧
      (left ≠ [] → 256 ≤ (t.core c.core).posted.length) := by
  induction ws generalizing s gone with
  | nil => cases h; exact ⟨[], rfl, rfl, fun ne => absurd rfl ne⟩
  | cons a ws ih =>
    unfold Ctx.storeLanes at h
    split at h
    · rename_i full
      cases h
      exact ⟨[], rfl, rfl, fun _ => of_decide_eq_true (Bool.and_eq_true_iff.1 full).2⟩
    · obtain ⟨sent, whole, count, full⟩ := ih h
      refine ⟨a :: sent, by rw [whole]; rfl, ?_, full⟩
      rw [count, List.length_append, List.length_cons, List.length_cons, List.length_nil]
      omega

/-! ## A store to a page of DIE scope or wider (R82, R91, R105) -/

/-- Replacing a line (R105) keeps home data; whether one can be replaced is not a matter of the numbering. -/
theorem replaceOne_copiesOnly {s t : State} {core : Nat} {ls : Tab L1Line} (h : s.replaceOne core ls = some t) : CopiesOnly s t := by
  unfold State.replaceOne at h
  simp only [State.draw_fst, State.draw_snd] at h
  split at h
  · cases h
  · split at h <;> cases h <;> rfl

theorem makeRoom_copiesOnly {s t : State} {core line : Nat} (h : s.makeRoom core line = some t) : CopiesOnly s t := by
  unfold State.makeRoom at h
  dsimp only at h
  split at h
  · exact replaceOne_copiesOnly h
  split at h
  · exact replaceOne_copiesOnly h
  · cases h; rfl

theorem takeLine_copiesOnly {s t : State} {core line scope ctx : Nat} {l : L1Line} (h : s.takeLine core line scope ctx = some (l, t)) :
    CopiesOnly s t := by
  unfold State.takeLine at h
  split at h
  · cases h; rfl
  · obtain ⟨u, room, same⟩ := Option.map_eq_some_iff.1 h
    cases same
    exact makeRoom_copiesOnly room

theorem takeLine_of_l1 {s : State} {core line : Nat} {l : L1Line} (own : s.l1? core line = some l) (scope ctx : Nat) :
    s.takeLine core line scope ctx = some (l, s) := by unfold State.takeLine; rw [own]

theorem replaceOne_isSome_serial (s : State) (core : Nat) (ls : Tab L1Line) :
    (s.serial.2.replaceOne core ls).isSome = (s.replaceOne core ls).isSome := by
  unfold State.replaceOne
  simp only [State.draw_fst, State.draw_snd, State.serial_snd]
  split
  · rfl
  · split <;> rfl

/-- Taking a serial number takes no way of an L1. -/
theorem takeLine_isSome_serial (s : State) (core line scope ctx : Nat) :
    (s.serial.2.takeLine core line scope ctx).isSome = (s.takeLine core line scope ctx).isSome := by
  unfold State.takeLine
  show Option.isSome (match s.l1? core line with | some l => _ | none => _) = _
  cases s.l1? core line with
  | some l => rfl
  | none =>
    dsimp only
    rw [Option.isSome_map, Option.isSome_map]
    unfold State.makeRoom
    dsimp only
    rw [apply_ite Option.isSome, apply_ite Option.isSome, apply_ite Option.isSome, apply_ite Option.isSome, replaceOne_isSome_serial,
      replaceOne_isSome_serial]
    rfl

/-- Sending a store through posts its request, and keeps home data and teams (R105). -/
theorem sendThrough_sends (s : State) (core : Nat) (r : StoreReq) : CopiesOnly s (s.sendThrough core r) ∧
    ∃ b, Instr.writeThroughStore { r with sharer := b } ∈ (s.sendThrough core r).pending := by
  have posted (u : State) (q : StoreReq) : Instr.writeThroughStore q ∈ (u.post (.writeThroughStore q)).pending := by simp
  unfold State.sendThrough
  dsimp only
  cases s.l1? core r.line with
  | some l => exact ⟨rfl, _, posted _ _⟩
  | none =>
    dsimp only
    split
    · exact ⟨rfl, _, posted _ _⟩
    · cases room : s.takeLine core r.line r.scope r.ctx with
      | none => exact ⟨rfl, _, posted _ _⟩
      | some q => exact ⟨(takeLine_copiesOnly room).trans rfl, _, posted _ _⟩

/-- The request of a core's store. -/
def storeReq (s : State) (core ctx scope : Nat) (bs : List (Nat × Byte)) (posted : Option Nat) (stamp : Clock) : StoreReq where
  id := s.seq
  agent := .core core
  ctx := ctx
  scope := scope
  line := lineOf ((bs.map (·.1)).headD 0)
  bytes := bs
  sharer := false
  stamp := stamp
  posted := posted

/-- With nothing of its core's on the line that it would overtake, and a way free, a store that is not narrow goes to its home. -/
theorem coreStore_wide {s : State} {core ctx scope : Nat} {bs : List (Nat × Byte)} (posted : Option Nat) (stamp : Clock)
    (wide : Scope.die ≤ scope) (first : ∀ w ∈ (s.core core).waiting, w.line ≠ lineOf ((bs.map (·.1)).headD 0))
    (way : (s.takeLine core (lineOf ((bs.map (·.1)).headD 0)) scope ctx).isSome = true) :
    s.coreStore core ctx scope bs posted stamp =
      let u := s.serial.2.openWrite s.seq (dieOfCore core) posted.isSome
      let r := storeReq s core ctx scope bs posted stamp
      (s.seq, if scope = Scope.stream then u.post (.writeThroughStore r) else u.sendThrough core r) := by
  have narrow : decide (scope < Scope.die) = false := decide_eq_false (Nat.not_lt.2 wide)
  have waits : ((s.serial.2.core core).waiting.any fun w => decide (w.line = lineOf ((bs.map (·.1)).headD 0))) = false :=
    List.any_eq_false.2 fun w hw => by simpa using first w hw
  have room := takeLine_isSome_serial s core (lineOf ((bs.map (·.1)).headD 0)) scope ctx
  rw [way] at room
  unfold State.coreStore
  simp only [narrow, waits, Option.isNone_eq_false_iff.2 room, Bool.false_and, Bool.not_false, Bool.true_and, Bool.or_self, Bool.false_eq_true,
    ↓reduceIte]
  split <;> rfl

theorem coreStore_wide_sends {s t : State} {core ctx scope id : Nat} {bs : List (Nat × Byte)} {posted : Option Nat} {stamp : Clock}
    (h : s.coreStore core ctx scope bs posted stamp = (id, t)) (wide : Scope.die ≤ scope)
    (first : ∀ w ∈ (s.core core).waiting, w.line ≠ lineOf ((bs.map (·.1)).headD 0))
    (way : (s.takeLine core (lineOf ((bs.map (·.1)).headD 0)) scope ctx).isSome = true) :
    id = s.seq ∧ CopiesOnly s t ∧
      ∃ b, Instr.writeThroughStore { storeReq s core ctx scope bs posted stamp with sharer := b } ∈ t.pending := by
  rw [coreStore_wide posted stamp wide first way] at h
  dsimp only at h
  split at h <;> cases h
  · exact ⟨rfl, rfl, false, by simp [storeReq]⟩
  · obtain ⟨copies, sent⟩ := sendThrough_sends (s.serial.2.openWrite s.seq (dieOfCore core) posted.isSome) core
      (storeReq s core ctx scope bs posted stamp)
    exact ⟨rfl, CopiesOnly.trans (t := s.serial.2.openWrite s.seq (dieOfCore core) posted.isSome) rfl copies, sent⟩

/-! ## A write at its home (R106, R112, R113) -/

theorem gate_performs {s : State} {line : Nat} {addrs : List Nat} (free : s.heldOn line = none) (unwatched : s.watchHits addrs = [])
    (req : Instr) (perform : State → State) : s.gate line addrs req perform = perform s := by
  unfold State.gate
  rw [free, unwatched]
  rfl

/-- A line of HBM is whole. -/
theorem isHbm_of_lineOf {pa line : Nat} (hbm : isHbm (128 * line) = true) (on : lineOf pa = line) : isHbm pa = true := by
  have below : 128 * line < Config.hbmBytes := of_decide_eq_true hbm
  have whole : Config.hbmBytes = 128 * (Config.hbmBytes / 128) := by decide
  refine decide_eq_true ?_
  unfold lineOf at on
  omega

theorem goodStore_hbm {r : StoreReq} (good : goodStore r = true) (hbm : isHbm (128 * r.line) = true) : ∀ p ∈ r.bytes, isHbm p.1 = true := by
  unfold goodStore at good
  rw [Bool.and_eq_true] at good
  exact fun p hp => isHbm_of_lineOf hbm (of_decide_eq_true (List.all_eq_true.1 good.2 p hp))

theorem linkOf_hbm (s : State) {pa : Nat} (hbm : isHbm pa = true) : s.linkOf pa = none := by
  unfold State.linkOf
  rw [if_neg (by rw [not_fabric_of_hbm hbm]; decide)]

/-- Only a line in N has dirty words to publish (R106, R108). -/
theorem publish_of_not_narrow {s : State} {line : Nat} (st : (s.dirOf line).st ≠ .n) (demote : Bool) : s.publish line demote = s := by
  unfold State.publish; rw [if_pos st]
theorem publishFor_of_not_narrow {s : State} {line : Nat} (st : (s.dirOf line).st ≠ .n) (who : Agent) (scope : Nat) :
    s.publishFor line who scope = s := by
  unfold State.publishFor; rw [publish_of_not_narrow st, ite_self]

theorem copiesOnly_recordWriter (s : State) (c : Nat) (r : StoreReq) : CopiesOnly s (s.recordWriter c r) := by
  refine (copiesOnly_unpin s c r.line r.id).trans ?_
  unfold State.recordWriter
  dsimp only
  generalize s.unpin c r.line r.id = u
  split
  · rfl
  · split
    · exact copiesOnly_dropWords ..
    · rename_i e _
      have recorded := (copiesOnly_setDir u r.line e).trans (copiesOnly_trimSlice _ (u.sliceKey r.line))
      split
      · exact recorded
      · exact recorded.trans (copiesOnly_modDie ..)

/-- A store at its home: dirty words are published, the writer recorded, and the bytes performed. -/
theorem performStore_steps (s : State) (r : StoreReq) : ∃ (u : State) (writer : Option Nat),
    CopiesOnly ((s.request r.line r.ctx).publishFor r.line r.agent r.scope) u ∧
    (s.performStore r).mem = (u.performBytes r.line r.bytes r.stamp r.agent.dieOf writer r.ctx).mem := by
  unfold State.performStore
  dsimp only
  generalize (s.request r.line r.ctx).publishFor r.line r.agent r.scope = v
  cases r.core? with
  | none => exact ⟨v, _, rfl, rfl⟩
  | some c =>
    refine ⟨v.recordWriter c r, if r.scope = Scope.stream then none else some c, copiesOnly_recordWriter .., ?_⟩
    cases r.posted <;> rfl

theorem performStore_mem {s : State} {r : StoreReq} (st : (s.dirOf r.line).st ≠ .n) (hbm : ∀ p ∈ r.bytes, isHbm p.1 = true) :
    (s.performStore r).mem = s.mem.writeList r.bytes := by
  obtain ⟨u, writer, copies, wrote⟩ := performStore_steps s r
  rw [publishFor_of_not_narrow (s := s.request r.line r.ctx) st] at copies
  rw [wrote, performBytes_mem u r.line r.stamp _ writer r.ctx hbm, copies.mem]
  rfl

/-- A write-through store whose line is free, unwatched and not narrow writes its bytes at home. -/
theorem exec_writeThroughStore {s : State} {r : StoreReq} (good : goodStore r = true) (hbm : isHbm (128 * r.line) = true)
    (free : s.heldOn r.line = none) (unwatched : s.watchHits (r.bytes.map (·.1)) = []) :
    exec (.writeThroughStore r) s = .next (s.performStore r) := by
  refine (event_if_pos good).trans (congrArg Host.Outcome.next ?_)
  unfold State.homeStore
  rw [linkOf_hbm s hbm]
  exact gate_performs free unwatched _ _

end Sys2Proof.Machine

namespace Sys2Proof.Proofs
open Sys2Proof.Machine Sys2Proof.Safety

/-- Settles O33: the lanes' stores by induction along them, a wide store by the path it takes through its L1, and the home's write by
what each step of it leaves. -/
theorem storesTravelToTheirHomes : Obligations.StoresTravelToTheirHomes := by
  refine ⟨fun c ws left s t ids h => ?_, ?_, fun s r good hbm free unwatched st nodup => ?_⟩
  · obtain ⟨sent, whole, count, full⟩ := storeLanes_sends c h
    exact ⟨sent, whole, by simpa using count, full⟩
  · intro s t core ctx scope id bs posted stamp line h wide first way
    obtain ⟨number, copies, b, sent⟩ := coreStore_wide_sends h wide first way
    exact ⟨number, copies.mem, copies.teams, _, sent, number.symm, rfl, rfl, rfl, rfl, rfl, rfl⟩
  · have bytes := goodStore_hbm good hbm
    exact ⟨_, exec_writeThroughStore good hbm free unwatched, written_home bytes nodup (performStore_mem st bytes)⟩
end Sys2Proof.Proofs
end

section
/-! SUPPORT. The requests of the coherence protocol (R83, R95, R99, R102–R108, R112, R116, R117), each as one step. -/
namespace Sys2Proof.Machine
open Sys2Proof.Safety

/-! ## Fills (R105–R107, R427) -/

/-- A fill whose link does not hold it back is served, or waits. -/
theorem exec_gets {s : State} {q : LineReq} (good : goodLine q = true)
    (reached : (s.linkOf (128 * q.line)).map s.linkState = none ∨ (s.linkOf (128 * q.line)).map s.linkState = some .up) :
    exec (.gets q) s = .next (let before := s.drainOwn q.core (some q.line)
      (before.fillWords q.core q.line (spanMask q.first q.count) q.scope 0).getD (before.post (.gets q))) := by
  refine (event_if_neg (by simp [good])).trans (congrArg Host.Outcome.next ?_)
  rcases reached with link | link <;> rw [link]

/-- One over a link that is down is not served. -/
theorem exec_gets_down {s : State} {q : LineReq} (good : goodLine q = true)
    (down : (s.linkOf (128 * q.line)).map s.linkState = some .down) : exec (.gets q) s = .next s := by
  refine (event_if_neg (by simp [good])).trans (congrArg Host.Outcome.next ?_)
  rw [down]

/-! ## Counting a request (R208) moves no line to another slice -/

theorem addCount_keeps (d : Die) (j n : Nat) : (d.addCount j n).apcache = d.apcache ∧
    ∀ a < 0x900, (d.addCount j n).csr.getD a 0 = d.csr.getD a 0 := by
  refine ⟨rfl, fun a low => ?_⟩
  unfold Die.addCount
  dsimp only
  rw [Tab.getD_store, if_neg (by omega)]

theorem dpmc_keeps (s : State) (die event n : Nat) (ctxs : List Nat) (k : Nat) :
    ((s.dpmc die event n ctxs).die k).apcache = (s.die k).apcache ∧
    ∀ a < 0x900, ((s.dpmc die event n ctxs).die k).csr.getD a 0 = (s.die k).csr.getD a 0 := by
  unfold State.dpmc
  rw [State.die_modDie]
  split
  · rename_i same
    subst same
    refine List.foldlRecOn (motive := fun d : Die => d.apcache = (s.die die).apcache ∧ ∀ a < 0x900, d.csr.getD a 0 = (s.die die).csr.getD a 0)
      (List.range 64) _ ⟨rfl, fun _ _ => rfl⟩ fun d kept j _ => ?_
    split
    · obtain ⟨cache, csr⟩ := addCount_keeps d j n
      exact ⟨cache.trans kept.1, fun a low => (csr a low).trans (kept.2 a low)⟩
    · exact kept
  · exact ⟨rfl, fun _ _ => rfl⟩

theorem homeDie_dpmc (s : State) (die event n : Nat) (ctxs : List Nat) (pa : Nat) :
    (s.dpmc die event n ctxs).homeDie pa = s.homeDie pa := by
  have entry (idx : Nat) : (s.dpmc die event n ctxs).apEntry 0 idx = s.apEntry 0 idx := by
    obtain ⟨cache, csr⟩ := dpmc_keeps s die event n ctxs 0
    unfold State.apEntry
    rw [cache, csr _ (by decide), csr _ (by decide)]
    rfl
  unfold State.homeDie
  rw [entry]

theorem watchHits_request (s : State) (line ctx : Nat) (addrs : List Nat) : (s.request line ctx).watchHits addrs = s.watchHits addrs := by
  unfold State.watchHits State.sliceKey State.request
  simp only [homeDie_dpmc]
  rfl

/-! ## Narrow-grant requests (R104–R107) -/

/-- What a guest slice that a request came by records of it. -/
def State.noteGuest (s : State) (x : Sharer) (line : Nat) (f : DirEntry → DirEntry) : State :=
  match x with
  | .core _ => s
  | .die d => (s.modDie d fun y =>
      let g := y.guests.getD line GuestCopy.empty
      { y with guests := y.guests.put line { g with dir := f g.dir } }).trimSlice (32 * d + sliceOf (128 * line))

theorem copiesOnly_noteGuest (s : State) (x : Sharer) (line : Nat) (f : DirEntry → DirEntry) : CopiesOnly s (s.noteGuest x line f) := by
  cases x with
  | core n => rfl
  | die d =>
    unfold State.noteGuest
    dsimp only
    exact (copiesOnly_modDie s d _).trans (copiesOnly_trimSlice ..)

@[simp] theorem noteGuest_at_dirOf (s : State) (x : Sharer) (line : Nat) (f : DirEntry → DirEntry) (l : Nat) :
    (s.noteGuest x line f).dirOf l = s.dirOf l := by
  cases x with
  | core n => rfl
  | die d =>
    unfold State.noteGuest
    dsimp only
    rw [trimSlice_at_dirOf, State.modDie_at_dirOf]

theorem guest_noteGuest (s : State) (d line : Nat) (f : DirEntry → DirEntry) : ∃ g : GuestCopy,
    (s.noteGuest (.die d) line f).guest? d line = some { g with dir := f g.dir } := by
  refine ⟨(s.die d).guests.getD line GuestCopy.empty, ?_⟩
  unfold State.guest? State.noteGuest
  dsimp only
  rw [trimSlice_at_die, State.die_modDie_self]
  exact Tab.get?_put_self ..

/-- A guest slice does not stand against a grant. -/
def State.guestAgrees (s : State) (q : LineReq) : Prop :=
  ∀ d g, s.sharerFor q.core q.line = .die d → s.guest? d q.line = some g → g.dir.grantable (.core q.core) = true

theorem homeNreq_grants {s : State} {q : LineReq} (unwatched : ((s.ownBacks q.core q.line).dirOf q.line).w = false)
    (grantable : ((s.ownBacks q.core q.line).dirOf q.line).grantable ((s.ownBacks q.core q.line).sharerFor q.core q.line) = true)
    (agrees : (s.ownBacks q.core q.line).guestAgrees q) (free : (s.ownBacks q.core q.line).heldOn q.line = none) :
    let s0 := s.ownBacks q.core q.line
    let x := s0.sharerFor q.core q.line
    ∃ ctx key, s.homeNreq q = (((((s0.request q.line ctx).setDir q.line ((s0.dirOf q.line).grant x)).trimSlice key).noteGuest x q.line
      fun g => g.grant (.core q.core)).post (.ngrant q.core q.line)) := by
  unfold State.homeNreq
  dsimp only
  generalize s.ownBacks q.core q.line = s0 at *
  rw [if_pos]
  · unfold State.noteGuest
    cases s0.sharerFor q.core q.line <;> exact ⟨_, _, rfl⟩
  · unfold State.guestAgrees at agrees
    have free' (ctx : Nat) : (s0.request q.line ctx).heldOn q.line = none := free
    simp only [unwatched, grantable, free', Bool.not_false, Bool.true_and, Option.isNone_none, Bool.and_true]
    cases who : s0.sharerFor q.core q.line with
    | core n => rfl
    | die d =>
      dsimp only
      cases held : s0.guest? d q.line with
      | none => rfl
      | some g => exact agrees d g who held

theorem mem_narrow_grant (e : DirEntry) (x : Sharer) : x ∈ (e.grant x).narrow := by
  unfold DirEntry.grant
  dsimp only
  split
  · rename_i named; simpa using named
  · simp

theorem grantable_of_pointer {e : DirEntry} {x : Sharer} (exact_ : e.coarse = false) (pointer : e.ptrs.length < 4 ∨ x ∈ e.ptrs) :
    e.grantable x = true := by
  simpa [DirEntry.grantable, exact_] using pointer

/-- The cores of a line's narrow holders, those of a guest copy among them. -/
theorem mem_narrowCores_of_core {s : State} {line core : Nat} (named : .core core ∈ (s.dirOf line).narrow) : core ∈ s.narrowCores line :=
  List.mem_flatMap.2 ⟨.core core, named, by simp⟩
theorem mem_narrowCores_of_die {s : State} {line core d : Nat} {g : GuestCopy} (named : .die d ∈ (s.dirOf line).narrow)
    (guest : s.guest? d line = some g) (behind : .core core ∈ g.dir.narrow) : core ∈ s.narrowCores line := by
  refine List.mem_flatMap.2 ⟨.die d, named, ?_⟩
  simp only [guest]
  exact List.mem_filterMap.2 ⟨.core core, behind, rfl⟩

theorem sharerFor_cases (s : State) (core line : Nat) : s.sharerFor core line = .core core ∨ ∃ d, s.sharerFor core line = .die d := by
  unfold State.sharerFor; split
  · exact .inl rfl
  · exact .inr ⟨_, rfl⟩

/-- NGRANT: home and guest slice record the holder, and the grant is on its way. -/
theorem nreq_grants {s : State} {q : LineReq} (good : goodLine q = true) (unwatched : ((s.ownBacks q.core q.line).dirOf q.line).w = false)
    (grantable : ((s.ownBacks q.core q.line).dirOf q.line).grantable ((s.ownBacks q.core q.line).sharerFor q.core q.line) = true)
    (agrees : (s.ownBacks q.core q.line).guestAgrees q) (free : (s.ownBacks q.core q.line).heldOn q.line = none) :
    ∃ t, Leads (.nreq q) s t ∧ (t.dirOf q.line).st = .n ∧
      (s.ownBacks q.core q.line).sharerFor q.core q.line ∈ (t.dirOf q.line).narrow ∧ q.core ∈ t.narrowCores q.line ∧
      .ngrant q.core q.line ∈ t.pending ∧ t.mem = (s.ownBacks q.core q.line).mem := by
  obtain ⟨ctx, key, grants⟩ := homeNreq_grants unwatched grantable agrees free
  refine ⟨_, event_if_pos good, ?_⟩
  rw [grants]
  generalize s.ownBacks q.core q.line = s0 at *
  generalize recorded : ((s0.request q.line ctx).setDir q.line ((s0.dirOf q.line).grant (s0.sharerFor q.core q.line))).trimSlice key = u
  have entry : u.dirOf q.line = (s0.dirOf q.line).grant (s0.sharerFor q.core q.line) := by
    rw [← recorded, trimSlice_at_dirOf, State.dirOf_setDir_self]
  have mem : u.mem = s0.mem := by rw [← recorded, (copiesOnly_trimSlice ..).mem]; rfl
  have holder := mem_narrow_grant (s0.dirOf q.line) (s0.sharerFor q.core q.line)
  simp only [State.post_at_dirOf, noteGuest_at_dirOf, entry, State.post_mem, (copiesOnly_noteGuest ..).mem, mem, State.post_pending,
    List.mem_append, List.mem_singleton, or_true, and_true]
  refine ⟨rfl, holder, ?_⟩
  rcases sharerFor_cases s0 q.core q.line with who | ⟨d, who⟩
  · rw [who] at holder entry ⊢
    exact mem_narrowCores_of_core (by rw [State.post_at_dirOf, noteGuest_at_dirOf, entry]; exact holder)
  · rw [who] at holder entry ⊢
    obtain ⟨g, guest⟩ := guest_noteGuest u d q.line fun g => g.grant (.core q.core)
    exact mem_narrowCores_of_die (by rw [State.post_at_dirOf, noteGuest_at_dirOf, entry]; exact holder)
      (by rw [State.guest?, State.post_at_die]; exact guest) (mem_narrow_grant ..)

theorem copiesOnly_recordAt (s : State) (line : Nat) (x : Sharer) : CopiesOnly s ((s.recordAt line x).getD s) := by
  unfold State.recordAt
  cases (s.dirOf line).share x with
  | none => rfl
  | some e =>
    rw [Option.map_some, Option.getD_some]
    exact (copiesOnly_setDir ..).trans (copiesOnly_trimSlice ..)

theorem homeNreq_writes_through {s : State} {q : LineReq} (watched : ((s.ownBacks q.core q.line).dirOf q.line).w = true)
    (free : (s.ownBacks q.core q.line).heldOn q.line = none)
    (unhit : (s.ownBacks q.core q.line).watchHits ((List.range (4 * q.count)).map fun i => 128 * q.line + 4 * q.first + i) = []) :
    let s0 := s.ownBacks q.core q.line
    let x := s0.sharerFor q.core q.line
    ∃ ctx f, s.homeNreq q = ((((s0.request q.line ctx).recordAt q.line x).getD (s0.request q.line ctx)).noteGuest x q.line f).post
      (.wtgrant q.core q.line) := by
  unfold State.homeNreq
  dsimp only
  generalize s.ownBacks q.core q.line = s0 at *
  have free' (ctx : Nat) : (s0.request q.line ctx).heldOn q.line = none := free
  rw [if_neg (by simp [watched]), gate_performs (free' _) ((watchHits_request ..).trans unhit)]
  unfold State.noteGuest
  cases s0.sharerFor q.core q.line <;> exact ⟨_, fun g => (g.share (.core q.core)).getD g, rfl⟩

/-- WTGRANT, for a line that is watched but not in the words asked for (R112). -/
theorem nreq_writes_through {s : State} {q : LineReq} (good : goodLine q = true)
    (watched : ((s.ownBacks q.core q.line).dirOf q.line).w = true) (free : (s.ownBacks q.core q.line).heldOn q.line = none)
    (unhit : (s.ownBacks q.core q.line).watchHits ((List.range (4 * q.count)).map fun i => 128 * q.line + 4 * q.first + i) = []) :
    ∃ t, Leads (.nreq q) s t ∧ .wtgrant q.core q.line ∈ t.pending ∧ t.mem = (s.ownBacks q.core q.line).mem := by
  obtain ⟨ctx, f, grants⟩ := homeNreq_writes_through watched free unhit
  refine ⟨_, event_if_pos good, ?_⟩
  rw [grants, State.post_mem, (copiesOnly_noteGuest ..).mem, (copiesOnly_recordAt ..).mem]
  exact ⟨by simp, rfl⟩

end Sys2Proof.Machine
end

section
/-! SUPPORT. The L1's part of the coherence protocol (R90, R105): grants taken, and words invalidated. -/
namespace Sys2Proof.Machine
open Sys2Proof.Safety

/-! ## Grants (R105) -/

theorem l1_setL1 (s : State) (core line : Nat) (l : L1Line) : (s.setL1 core line l).l1? core line = some l := by
  unfold State.l1? State.setL1
  rw [State.core_modCore_self]
  exact Tab.get?_put_self ..

/-- Home data is as it was, a core's L1 holds a line for which `p` is true, and the stores that wait in it are `waiting`. -/
structure LineHeld (p : L1Line → Prop) (core line : Nat) (waiting : List WaitingStore) (s t : State) : Prop where
  copies : CopiesOnly s t
  waits : (t.core core).waiting = waiting
  own : ∃ l, t.l1? core line = some l ∧ p l

theorem LineHeld.setL1 {p : L1Line → Prop} {core line : Nat} {waiting : List WaitingStore} {s t : State}
    (h : LineHeld p core line waiting s t) {l : L1Line} (hl : p l) : LineHeld p core line waiting s (t.setL1 core line l) where
  copies := h.copies.trans (copiesOnly_modCore ..)
  waits := by rw [State.setL1, State.core_modCore_self]; exact h.waits
  own := ⟨l, l1_setL1 .., hl⟩

theorem LineHeld.post {p : L1Line → Prop} {core line : Nat} {waiting : List WaitingStore} {s t : State}
    (h : LineHeld p core line waiting s t) (e : Instr) : LineHeld p core line waiting s (t.post e) where
  copies := h.copies.trans (copiesOnly_post ..)
  waits := h.waits
  own := h.own

theorem LineHeld.closeWrite {p : L1Line → Prop} {core line : Nat} {waiting : List WaitingStore} {s t : State}
    (h : LineHeld p core line waiting s t) (id : Nat) : LineHeld p core line waiting s (t.closeWrite id) where
  copies := h.copies.trans rfl
  waits := h.waits
  own := h.own

/-- The line of an L1, of which `p` is true, once its waiting stores have left the core's list. -/
theorem lineHeld_served {p : L1Line → Prop} (s : State) (core line : Nat) {l : L1Line} (hl : p l) :
    LineHeld p core line ((s.core core).waiting.filter fun w => decide (w.line ≠ line)) s
      ((s.setL1 core line l).modCore core fun c => { c with waiting := c.waiting.filter fun w => decide (w.line ≠ line) }) where
  copies := (copiesOnly_modCore ..).trans (copiesOnly_modCore ..)
  waits := by rw [State.core_modCore_self, State.setL1, State.core_modCore_self]
  own := ⟨l, by unfold State.l1?; rw [State.core_modCore_self]; exact l1_setL1 .., hl⟩

theorem LineHeld.unwaited {p : L1Line → Prop} {core line : Nat} {s t u : State}
    (h : LineHeld p core line ((u.core core).waiting.filter fun w => decide (w.line ≠ line)) s t) :
    ∀ w ∈ (t.core core).waiting, w.line ≠ line := by
  rw [h.waits]
  exact fun w hw => of_decide_eq_true (List.mem_filter.1 hw).2

/-- No word is fetched where none is missing. -/
theorem fillWords_of_held {s : State} {core line : Nat} {l : L1Line} (own : s.l1? core line = some l) {words : BitVec 32}
    (held : words &&& ~~~l.readable = 0) (scope ctx : Nat) : s.fillWords core line words scope ctx = some s := by
  unfold State.fillWords
  simp only [own, held]
  rfl

theorem and_eq_zero_iff {x m : BitVec 32} : x &&& m = 0 ↔ ∀ i, x.getLsbD i = true → m.getLsbD i = false := by
  refine ⟨fun h i hx => ?_, fun h => BitVec.eq_of_getLsbD_eq fun i _ => ?_⟩
  · have bit := congrArg (·.getLsbD i) h
    simpa [hx] using bit
  · simpa using h i

/-- The words that some waiting stores write in part are held where each one's are. -/
theorem foldl_words_held (f : WaitingStore → BitVec 32) (m : BitVec 32) (ws : List WaitingStore) (each : ∀ w ∈ ws, f w &&& m = 0) :
    ws.foldl (fun m w => m ||| f w) 0 &&& m = 0 := by
  refine List.foldlRecOn (motive := fun a : BitVec 32 => a &&& m = 0) ws _ (by simp) fun a ha w hw => ?_
  rw [and_eq_zero_iff] at *
  intro i hi
  rw [BitVec.getLsbD_or, Bool.or_eq_true] at hi
  exact hi.elim (ha i) (and_eq_zero_iff.1 (each w hw) i)

/-- NGRANT at a core that holds the line and every word its waiting stores write in part. -/
theorem takeGrant_held {s : State} {core line : Nat} {k : L1Line} (stands : s.grantStands core line = true)
    (own : s.l1? core line = some k)
    (held : ∀ w ∈ (s.core core).waiting, w.line = line → touchedWords w.bytes &&& ~~~(wholeWords w.bytes) &&& ~~~k.readable = 0) :
    LineHeld (fun l => l.st = .n) core line ((s.core core).waiting.filter fun w => decide (w.line ≠ line)) s (s.takeGrant core line) := by
  have served := lineHeld_served (p := fun l => l.st = .n) s core line (l := { k with st := .n, wt := false }) rfl
  unfold State.takeGrant
  rw [stands, takeLine_of_l1 own]
  simp only [Bool.not_true, Bool.false_eq_true, ↓reduceIte]
  have waits : ((s.setL1 core line { k with st := .n, wt := false }).core core).waiting = (s.core core).waiting := by
    rw [State.setL1, State.core_modCore_self]
  have filled := fillWords_of_held (l1_setL1 s core line { k with st := .n, wt := false })
    (foldl_words_held (fun w => touchedWords w.bytes &&& ~~~(wholeWords w.bytes)) (~~~k.readable)
      (((s.setL1 core line { k with st := .n, wt := false }).core core).waitingOn line)
      fun w hw => held w (waits ▸ (List.mem_filter.1 hw).1) (of_decide_eq_true (List.mem_filter.1 hw).2))
  generalize s.setL1 core line { k with st := .n, wt := false } = u at *
  simp only [filled]
  refine LineHeld.post (List.foldlRecOn (motive := LineHeld _ core line _ s) _ _ served fun t h w _ => LineHeld.closeWrite ?_ _) _
  split
  · rename_i l mine
    obtain ⟨l', mine', narrow⟩ := h.own
    cases mine.symm.trans mine'
    exact h.setL1 narrow
  · exact h

theorem ngrant_taken {s : State} {core line : Nat} {k : L1Line} (within : core < Config.cores) (stands : s.grantStands core line = true)
    (own : s.l1? core line = some k)
    (held : ∀ w ∈ (s.core core).waiting, w.line = line → touchedWords w.bytes &&& ~~~(wholeWords w.bytes) &&& ~~~k.readable = 0) :
    ∃ t l, Leads (.ngrant core line) s t ∧ t.l1? core line = some l ∧ l.st = .n ∧ (∀ w ∈ (t.core core).waiting, w.line ≠ line) ∧
      t.mem = s.mem := by
  have taken := takeGrant_held stands own held
  obtain ⟨l, mine, narrow⟩ := taken.own
  exact ⟨_, l, event_if_pos within, mine, narrow, taken.unwaited, taken.copies.mem⟩

/-- A store sent through from a line that the L1 holds leaves it there. -/
theorem LineHeld.sendThrough {p : L1Line → Prop} {core line : Nat} {waiting : List WaitingStore} {s t : State}
    (h : LineHeld p core line waiting s t) {r : StoreReq} (on : r.line = line) (pinned : ∀ l, p l → p (State.sendThrough.pin r l)) :
    LineHeld p core line waiting s (t.sendThrough core r) := by
  subst on
  obtain ⟨l, mine, hl⟩ := h.own
  unfold State.sendThrough
  rw [mine]
  exact (h.setL1 (pinned l hl)).post _

/-- WTGRANT at a core that holds the line. -/
theorem takeWtGrant_held {s : State} {core line : Nat} {k : L1Line} (own : s.l1? core line = some k) :
    LineHeld (fun l => l.wt = true) core line ((s.core core).waiting.filter fun w => decide (w.line ≠ line)) s (s.takeWtGrant core line) := by
  have served : LineHeld (fun l => l.wt = true) core line ((s.core core).waiting.filter fun w => decide (w.line ≠ line)) s
      ((s.modCore core fun c => { c with waiting := c.waiting.filter fun w => decide (w.line ≠ line) }).setL1 core line { k with wt := true }) := by
    refine ⟨(copiesOnly_modCore ..).trans (copiesOnly_modCore ..), ?_, _, l1_setL1 .., rfl⟩
    rw [State.setL1, State.core_modCore_self, State.core_modCore_self]
  unfold State.takeWtGrant
  rw [takeLine_of_l1 own]
  exact List.foldlRecOn (motive := LineHeld _ core line _ s) _ _ served fun t h w _ => h.sendThrough rfl fun l hl => hl

theorem wtgrant_taken {s : State} {core line : Nat} {k : L1Line} (within : core < Config.cores) (own : s.l1? core line = some k) :
    ∃ t l, Leads (.wtgrant core line) s t ∧ t.l1? core line = some l ∧ l.wt = true ∧ (∀ w ∈ (t.core core).waiting, w.line ≠ line) ∧
      t.mem = s.mem := by
  have taken := takeWtGrant_held own
  obtain ⟨l, mine, through⟩ := taken.own
  exact ⟨_, l, event_if_pos within, mine, through, taken.unwaited, taken.copies.mem⟩

/-! ## Invalidations (R105) -/

theorem l1_settleLine {s : State} {core line : Nat} {l x : L1Line} (after : (s.settleLine core line l).l1? core line = some x) : x = l := by
  unfold State.settleLine at after
  split at after
  · rw [State.l1?, State.dropL1, State.core_modCore_self] at after
    exact absurd after (by simp)
  · rw [l1_setL1] at after
    exact (Option.some.inj after).symm

/-- After an invalidation no clean word of the span can be read. -/
theorem dropWords_unreadable {s : State} {core line first count : Nat} {x : L1Line}
    (after : (s.dropWords core line first count).l1? core line = some x) : x.readable &&& spanMask first count &&& ~~~x.dirty = 0 := by
  unfold State.dropWords at after
  cases own : s.l1? core line with
  | none => simp only [own] at after; cases after
  | some l =>
    simp only [own] at after
    rw [l1_settleLine after]
    generalize (if dieOfCore core = s.homeDie (line * 128) then (0 : BitVec 32) else l.pinned) = away
    refine BitVec.eq_of_getLsbD_eq fun i hi => ?_
    simp only [L1Line.readable, BitVec.getLsbD_and, BitVec.getLsbD_not, BitVec.getLsbD_or, hi]
    grind

theorem invalidation_leads {s : State} {q : LineReq} (good : goodLine q = true) : ∃ t, Leads (.invalidation q) s t ∧ t.mem = s.mem ∧
    ∀ x, t.l1? q.core q.line = some x → x.readable &&& spanMask q.first q.count &&& ~~~x.dirty = 0 :=
  ⟨_, event_if_pos good, (copiesOnly_dropSpan ..).mem, fun _ after => dropWords_unreadable after⟩

end Sys2Proof.Machine
end

section
/-! SUPPORT. Writes at home other than stores: write-backs (R106) and the bank ALU (R95, R97, R335, R337). -/
namespace Sys2Proof.Machine
open Sys2Proof.Safety

/-! ## Write-backs (R106, R112) -/

theorem closeWrite_mem (s : State) (id : Nat) : (s.closeWrite id).mem = s.mem := rfl
theorem request_mem (s : State) (line ctx : Nat) : (s.request line ctx).mem = s.mem := rfl

/-- A write-back that keeps its grant writes its bytes at home. -/
theorem performBack_mem {s : State} {r : StoreReq} (hbm : ∀ p ∈ r.bytes, isHbm p.1 = true) :
    (s.performBack r false).mem = s.mem.writeList r.bytes := by
  unfold State.performBack
  dsimp only
  rw [if_neg Bool.false_ne_true, closeWrite_mem, performBytes_mem _ _ _ _ _ _ hbm, request_mem]

theorem writeBack_leads {s : State} {r : StoreReq} (good : goodStore r = true) (hbm : isHbm (128 * r.line) = true)
    (free : s.heldOn r.line = none) (unwatched : s.watchHits (r.bytes.map (·.1)) = []) (nodup : (r.bytes.map (·.1)).Nodup) :
    ∃ t, Leads (.writeBack r false) s t ∧ (∀ p ∈ r.bytes, t.homeByte p.1 = p.2) ∧
      ∀ pa, (∀ p ∈ r.bytes, p.1 ≠ pa) → t.mem.read pa = s.mem.read pa := by
  have bytes := goodStore_hbm good hbm
  refine ⟨s.performBack r false, ?_, written_home bytes nodup (performBack_mem bytes)⟩
  exact (event_if_pos (by simp [good])).trans (congrArg Host.Outcome.next (gate_performs free unwatched _ _))

/-! ## Numbers in memory (R5) -/

theorem leNat_natLe (n x : Nat) : leNat (natLe n x) = x % 2 ^ (8 * n) := by
  induction n generalizing x with
  | zero => simp [natLe, leNat, Nat.mod_one]
  | succ n ih =>
    rw [natLe, leNat, ih, BitVec.toNat_ofNat, Nat.mul_succ, Nat.add_comm (8 * n), Nat.pow_add, Nat.mod_mul]

theorem leNat_lt (bs : List Byte) : leNat bs < 2 ^ (8 * bs.length) := by
  induction bs with
  | nil => simp [leNat]
  | cons b bs ih =>
    have := b.isLt
    rw [leNat, List.length_cons, Nat.mul_succ, Nat.add_comm (8 * _), Nat.pow_add]
    omega

theorem readRun_length (rd : Nat → Byte) (a n : Nat) : (readRun rd a n).length = n := by rw [readRun_eq_map]; simp

theorem readRun_congr {f g : Nat → Byte} {a n : Nat} (same : ∀ pa, a ≤ pa → pa < a + n → f pa = g pa) : readRun f a n = readRun g a n := by
  rw [readRun_eq_map, readRun_eq_map]
  refine List.map_congr_left fun i hi => same _ (Nat.le_add_right ..) ?_
  have := List.mem_range.1 hi
  omega

theorem mem_atAddr {a : Nat} {bs : List Byte} {p : Nat × Byte} (mem : p ∈ atAddr a bs) : a ≤ p.1 ∧ p.1 < a + bs.length := by
  induction bs generalizing a with
  | nil => cases mem
  | cons b bs ih =>
    rw [List.length_cons]
    rcases List.mem_cons.1 mem with rfl | mem
    · dsimp only; omega
    · have := ih mem; omega

theorem atAddr_nodup (a : Nat) (bs : List Byte) : ((atAddr a bs).map (·.1)).Nodup := by
  induction bs generalizing a with
  | nil => exact List.nodup_nil
  | cons b bs ih =>
    refine List.nodup_cons.2 ⟨fun twice => ?_, ih (a + 1)⟩
    obtain ⟨p, mem, same⟩ := List.mem_map.1 twice
    have := mem_atAddr mem
    dsimp only at same
    omega

/-- A reader that gives each byte of a run gives the run. -/
theorem readRun_of_atAddr {rd : Nat → Byte} {a : Nat} {bs : List Byte} (each : ∀ p ∈ atAddr a bs, rd p.1 = p.2) :
    readRun rd a bs.length = bs := by
  induction bs generalizing a with
  | nil => rfl
  | cons b bs ih =>
    obtain ⟨first, rest⟩ := List.forall_mem_cons.1 each
    rw [List.length_cons, readRun, ih rest, first]

/-! ## The bank ALU -/

/-- A lane whose burst cannot be read does nothing (R97). -/
theorem bankLane_bad {s : State} {r : BankReq} {l : BankLane} (bad : s.badAt l.addr (bankBytes r.ty) = true) : s.bankLane r l = (0, s) := by
  unfold State.bankLane
  dsimp only
  rw [if_pos bad]

/-- The bytes of an aligned access of HBM lie in it. -/
theorem bank_hbm {a ty pa : Nat} (hbm : isHbm a = true) (aligned : a % bankBytes ty = 0) (low : a ≤ pa) (high : pa < a + bankBytes ty) :
    isHbm pa = true := by
  have below : a < Config.hbmBytes := of_decide_eq_true hbm
  have whole : Config.hbmBytes = 8 * (Config.hbmBytes / 8) := by decide
  refine decide_eq_true ?_
  have width : bankBytes ty = 8 ∨ bankBytes ty = 2 ∨ bankBytes ty = 4 := by
    unfold bankBytes
    split
    · exact .inl rfl
    · split
      · exact .inr (.inl rfl)
      · exact .inr (.inr rfl)
  rcases width with w | w | w <;> rw [w] at aligned high <;> omega

/-- One lane leaves its new value at its address, and every other byte as it was. -/
theorem bankLane_writes {s : State} {r : BankReq} {l : BankLane} (hbm : isHbm l.addr = true) (aligned : l.addr % bankBytes r.ty = 0)
    (good : s.badAt l.addr (bankBytes r.ty) = false) :
    let w := bankBytes r.ty
    let t := (s.bankLane r l).2
    leNat (readRun t.homeByte l.addr w) =
      bankNew r.op r.ty (leNat (readRun s.homeByte l.addr w)) (l.operand.toNat % 2 ^ (8 * w)) l.expect.toNat % 2 ^ (8 * w) ∧
    ∀ pa, pa < l.addr ∨ l.addr + w ≤ pa → t.mem.read pa = s.mem.read pa := by
  dsimp only
  unfold State.bankLane
  dsimp only
  rw [if_neg (by rw [good]; decide)]
  generalize held : leNat (readRun s.homeByte l.addr (bankBytes r.ty)) = old
  have range : old < 2 ^ (8 * bankBytes r.ty) := by
    have := leNat_lt (readRun s.homeByte l.addr (bankBytes r.ty))
    rwa [held, readRun_length] at this
  split
  · rename_i fails
    rw [Bool.and_eq_true, decide_eq_true_eq, decide_eq_true_eq] at fails
    obtain ⟨cas, differs⟩ := fails
    have kept : bankNew r.op r.ty old (l.operand.toNat % 2 ^ (8 * bankBytes r.ty)) l.expect.toNat = old := by
      unfold bankNew
      dsimp only
      rw [if_pos cas, if_neg differs]
    exact ⟨by rw [held, kept, Nat.mod_eq_of_lt range], fun _ _ => rfl⟩
  · generalize bankNew r.op r.ty old (l.operand.toNat % 2 ^ (8 * bankBytes r.ty)) l.expect.toNat = new
    have within : ∀ p ∈ atAddr l.addr (natLe (bankBytes r.ty) new), l.addr ≤ p.1 ∧ p.1 < l.addr + bankBytes r.ty := fun p hp => by
      have := mem_atAddr hp
      rwa [natLe_length] at this
    have bytes : ∀ p ∈ atAddr l.addr (natLe (bankBytes r.ty) new), isHbm p.1 = true := fun p hp =>
      bank_hbm hbm aligned (within p hp).1 (within p hp).2
    obtain ⟨written, others⟩ := written_home bytes (atAddr_nodup ..)
      (performBytes_mem s (lineOf l.addr) r.stamp r.agent.dieOf none r.ctx bytes)
    have run := readRun_of_atAddr written
    rw [natLe_length] at run
    refine ⟨by rw [run, leNat_natLe], fun pa outside => others pa fun p hp same => ?_⟩
    have := within p hp
    omega

theorem bankLanes_one (s : State) (r : BankReq) (l : BankLane) : (s.bankLanes r [l]).2 = (s.bankLane r l).2 := rfl
theorem returnOld_mem (s : State) (ret : Option (Nat × Nat × Nat)) (old : Nat) (stamp : Clock) (bad : Bool) :
    (s.returnOld ret old stamp bad).mem = s.mem := by cases ret <;> rfl

theorem answer_mem (s : State) (port : Nat) (a : PeerAnswer) : (s.answer port a).mem = s.mem := rfl

/-- A request of one lane is that lane's operation, with answers. -/
theorem homeBank_mem {s : State} {b : BankReq} {l : BankLane} (one : b.lanes = [l]) (free : s.heldOn (lineOf l.addr) = none)
    (unwatched : s.watchHits b.addrs = []) (st : (s.dirOf (lineOf l.addr)).st ≠ .n) (plain : b.graph = false) :
    (s.homeBank b).mem = ((s.request (lineOf l.addr) b.ctx).bankLane b l).2.mem := by
  have quiet : (s.request (lineOf l.addr) b.ctx).publish (lineOf l.addr) false = s.request (lineOf l.addr) b.ctx :=
    publish_of_not_narrow (s := s.request (lineOf l.addr) b.ctx) st false
  unfold State.homeBank
  simp only [one, gate_performs free unwatched, quiet, plain, Bool.not_false, ↓reduceIte]
  cases b.peer with
  | none => rw [returnOld_mem, closeWrite_mem, bankLanes_one]
  | some port => rw [answer_mem, returnOld_mem, closeWrite_mem, bankLanes_one]

/-- Bytes of HBM are read alike where memory is the same. -/
theorem readRun_homeByte {s t : State} {a n : Nat} (hbm : ∀ pa, a ≤ pa → pa < a + n → isHbm pa = true) (same : t.mem = s.mem) :
    readRun t.homeByte a n = readRun s.homeByte a n :=
  readRun_congr fun pa low high => by rw [homeByte_of_hbm t (hbm pa low high), homeByte_of_hbm s (hbm pa low high), same]

theorem goodBank_aligned {b : BankReq} {l : BankLane} (good : goodBank b = true) (one : b.lanes = [l]) : l.addr % bankBytes b.ty = 0 := by
  unfold goodBank at good
  rw [one, Bool.and_eq_true, List.all_cons, Bool.and_eq_true, Bool.and_eq_true, Bool.and_eq_true] at good
  exact of_decide_eq_true good.2.1.1.2

section
variable {s : State} {b : BankReq} {l : BankLane} (good : goodBank b = true) (one : b.lanes = [l]) (hbm : isHbm l.addr = true)
  (free : s.heldOn (lineOf l.addr) = none) (unwatched : s.watchHits b.addrs = []) (st : (s.dirOf (lineOf l.addr)).st ≠ .n)
  (plain : b.graph = false)
include good one free unwatched st plain

theorem bankAluOperation_bad (bad : s.badAt l.addr (bankBytes b.ty) = true) : ∃ t, Leads (.bankAluOperation b) s t ∧ t.mem = s.mem := by
  refine ⟨_, event_if_pos good, ?_⟩
  rw [homeBank_mem one free unwatched st plain, bankLane_bad (s := s.request (lineOf l.addr) b.ctx) bad]
  rfl

include hbm in
theorem bankAluOperation_writes (readable : s.badAt l.addr (bankBytes b.ty) = false) : ∃ t, Leads (.bankAluOperation b) s t ∧
    leNat (readRun t.homeByte l.addr (bankBytes b.ty)) = bankNew b.op b.ty (leNat (readRun s.homeByte l.addr (bankBytes b.ty)))
      (l.operand.toNat % 2 ^ (8 * bankBytes b.ty)) l.expect.toNat % 2 ^ (8 * bankBytes b.ty) ∧
    ∀ pa, pa < l.addr ∨ l.addr + bankBytes b.ty ≤ pa → t.mem.read pa = s.mem.read pa := by
  have aligned := goodBank_aligned good one
  have bytes : ∀ pa, l.addr ≤ pa → pa < l.addr + bankBytes b.ty → isHbm pa = true := fun pa => bank_hbm hbm aligned
  have mem := homeBank_mem one free unwatched st plain
  obtain ⟨new, others⟩ := bankLane_writes (s := s.request (lineOf l.addr) b.ctx) hbm aligned readable
  refine ⟨_, event_if_pos good, ?_, fun pa outside => ?_⟩
  · rw [readRun_homeByte bytes mem, new, readRun_homeByte bytes (request_mem s (lineOf l.addr) b.ctx)]
  · rw [mem, others pa outside, request_mem]
end

end Sys2Proof.Machine
end

section
/-! SUPPORT. Apply queues (R107, R116, R117), evictions (R103, R107) and forced publish (R108). -/
namespace Sys2Proof.Machine
open Sys2Proof.Safety

/-! ## Markers and invalidations in the apply queues -/

theorem releaseMarker_leads (s : State) {src die : Nat} (n : BitVec 48) (st : Clock) (count : Nat) (from_ : src < Config.dies)
    (to_ : die < Config.dies) : ∃ t, Leads (.releaseMarker src die n st count) s t ∧
      (t.die die).apply = (s.die die).apply ++ [.marker src n st count] ∧ .applyEntry die ∈ t.pending ∧ t.mem = s.mem := by
  refine ⟨_, event_if_pos (by simp [from_, to_]), ?_, State.mem_postOnce .., (copiesOnly_enterApply ..).mem⟩
  rw [State.enterMarker, enterApply_apply, if_pos rfl]

/-- An invalidation of every L1 of a die changes cores. -/
theorem dropDie_frame (s : State) (die line first count : Nat) (writer : Option Nat) (ctx : Nat) :
    s.dropDie die line first count writer ctx = { s with cores := (s.dropDie die line first count writer ctx).cores } :=
  List.foldlRecOn (motive := fun t : State => t = { s with cores := t.cores }) _ _ rfl fun t h n _ => by rw [dropSpan_frame, h]

theorem die_dropDie (s : State) (die line first count : Nat) (writer : Option Nat) (ctx k : Nat) :
    (s.dropDie die line first count writer ctx).die k = s.die k := by unfold State.die; rw [dropDie_frame]

theorem die_modGuest_self (s : State) (d line : Nat) (f : GuestCopy → GuestCopy) :
    (s.modGuest d line f).die d = { s.die d with guests := (s.die d).guests.modify line f } := State.die_modDie_self ..

/-- An invalidation that is applied on a die drops words there, and the die's guest copy loses the span. -/
theorem applyInval_steps (s : State) (e line : Nat) (span : Nat × Nat) (writer : Option Nat) (ctx : Nat) :
    ∃ (first count : Nat) (f : GuestCopy → GuestCopy),
      s.applyInval e line span writer ctx = (s.dropDie e line first count writer ctx).modGuest e line f ∧
      ∀ g, (f g).valid = g.valid &&& ~~~(spanMask span.1 span.2) := by
  unfold State.applyInval
  exact ⟨_, _, _, rfl, fun _ => rfl⟩

theorem copiesOnly_applyInval (s : State) (e line : Nat) (span : Nat × Nat) (writer : Option Nat) (ctx : Nat) :
    CopiesOnly s (s.applyInval e line span writer ctx) := by
  obtain ⟨first, count, f, steps, -⟩ := applyInval_steps s e line span writer ctx
  have dropped : CopiesOnly s (s.dropDie e line first count writer ctx) := (dropDie_frame ..).trans (by rw [dropDie_frame])
  rw [steps]
  exact dropped.trans (copiesOnly_modDie ..)

theorem die_applyInval (s : State) (e line : Nat) (span : Nat × Nat) (writer : Option Nat) (ctx : Nat) : ∃ f : GuestCopy → GuestCopy,
    (s.applyInval e line span writer ctx).die e = { s.die e with guests := (s.die e).guests.modify line f } ∧
    ∀ g, (f g).valid = g.valid &&& ~~~(spanMask span.1 span.2) := by
  obtain ⟨first, count, f, steps, valid⟩ := applyInval_steps s e line span writer ctx
  exact ⟨f, by rw [steps, die_modGuest_self, die_dropDie], valid⟩

/-- The guest copy that an invalidation leaves serves no word of the span. -/
theorem guest_applyInval {s : State} {e line : Nat} {span : Nat × Nat} {writer : Option Nat} {ctx : Nat} {g : GuestCopy}
    (after : (s.applyInval e line span writer ctx).guest? e line = some g) : g.valid &&& spanMask span.1 span.2 = 0 := by
  obtain ⟨f, die, valid⟩ := die_applyInval s e line span writer ctx
  rw [State.guest?, die, Tab.get?_modify, if_pos rfl] at after
  obtain ⟨g, -, rfl⟩ := Option.map_eq_some_iff.1 after
  rw [valid, and_eq_zero_iff]
  intro i hi
  simp only [BitVec.getLsbD_and, BitVec.getLsbD_not, Bool.and_eq_true, Bool.not_eq_true'] at hi
  exact hi.2.2

/-- What an entry of die `e`'s apply queue does once it is taken out of the queue. -/
def State.applyEntry (s : State) (e : Nat) (x : ApplyEnt) : State :=
  match x with
  | .marker o n _ _ => s.modDie e fun d => { d with clock := d.clock.put o n, applied := d.applied.put o 0 }
  | .inval o _ line first count w ctx counted =>
    (if counted then s.modDie e fun d => { d with applied := d.applied.put o (d.applied.getD o 0 + 1) } else s).applyInval e line
      (first, count) w ctx

theorem applyOne_picked {s : State} {e : Nat} {x : ApplyEnt} {rest : List ApplyEnt}
    (picked : pickApply (s.die e) e [] (s.die e).apply = some (x, rest)) :
    s.applyOne e = some ((s.modDie e fun d => { d with apply := rest }).applyEntry e x) := by
  unfold State.applyOne
  simp only [picked]
  cases x <;> rfl

/-- An entry changes copies, and not the queue it was taken from. -/
theorem applyEntry_keeps (s : State) (e : Nat) (x : ApplyEnt) :
    CopiesOnly s (s.applyEntry e x) ∧ ((s.applyEntry e x).die e).apply = (s.die e).apply := by
  cases x with
  | marker o n st count =>
    unfold State.applyEntry
    dsimp only
    exact ⟨copiesOnly_modDie .., by rw [State.die_modDie_self]⟩
  | inval o st line first count w ctx counted =>
    unfold State.applyEntry
    dsimp only
    generalize before : (if counted then s.modDie e _ else s) = u
    have kept : CopiesOnly s u ∧ (u.die e).apply = (s.die e).apply := by
      rw [← before]
      split
      · exact ⟨copiesOnly_modDie .., by rw [State.die_modDie_self]⟩
      · exact ⟨rfl, rfl⟩
    obtain ⟨f, die, -⟩ := die_applyInval u e line (first, count) w ctx
    exact ⟨kept.1.trans (copiesOnly_applyInval ..), by rw [die]; exact kept.2⟩

/-- The next entry may follow. -/
def State.applyNext (s : State) (die : Nat) : State := if (s.die die).apply.isEmpty then s else s.postOnce (.applyEntry die)

theorem applyNext_keeps (s : State) (die : Nat) : (s.applyNext die).mem = s.mem ∧ ∀ k, (s.applyNext die).die k = s.die k := by
  unfold State.applyNext
  split
  · exact ⟨rfl, fun _ => rfl⟩
  · exact ⟨State.postOnce_mem .., State.postOnce_at_die _ _⟩

theorem exec_applyEntry (s : State) (die : Nat) :
    exec (.applyEntry die) s = .next (match s.applyOne die with | none => s | some t => t.applyNext die) := by
  show Host.Outcome.next _ = _
  cases s.applyOne die <;> rfl

theorem applyEntry_waits {s : State} {die : Nat} (none_ : pickApply (s.die die) die [] (s.die die).apply = none) :
    Leads (.applyEntry die) s s := by
  have idle : s.applyOne die = none := by unfold State.applyOne; simp only [none_]
  rw [Leads, exec_applyEntry, idle]

theorem applyEntry_leads {s : State} {die : Nat} {x : ApplyEnt} {rest : List ApplyEnt}
    (picked : pickApply (s.die die) die [] (s.die die).apply = some (x, rest)) : ∃ t, Leads (.applyEntry die) s t ∧
      (t.die die).apply = rest ∧ t.mem = s.mem ∧ (∀ o m c k, x = .marker o m c k → (t.die die).clock = (s.die die).clock.put o m) ∧
      ∀ o c ln f j w cx n, x = .inval o c ln f j w cx n → ∀ g, t.guest? die ln = some g → g.valid &&& spanMask f j = 0 := by
  have taken : ((s.modDie die fun d => { d with apply := rest }).die die) = { s.die die with apply := rest } := State.die_modDie_self ..
  have mem : (s.modDie die fun d => { d with apply := rest }).mem = s.mem := State.modDie_mem ..
  have step : Leads (.applyEntry die) s (((s.modDie die fun d => { d with apply := rest }).applyEntry die x).applyNext die) := by
    rw [Leads, exec_applyEntry, applyOne_picked picked]
  generalize s.modDie die (fun d => { d with apply := rest }) = u at taken mem step
  obtain ⟨copies, queue⟩ := applyEntry_keeps u die x
  obtain ⟨mem', dies⟩ := applyNext_keeps (u.applyEntry die x) die
  refine ⟨_, step, by rw [dies, queue, taken], by rw [mem', copies.mem, mem], ?_, ?_⟩
  · rintro o m c k rfl
    rw [dies, State.applyEntry, State.die_modDie_self, taken]
  · rintro o c ln f j w cx n rfl g after
    rw [State.guest?, dies] at after
    exact guest_applyInval after

/-! ## Evictions and forced publish -/

theorem demote_of_not_narrow {s : State} {line : Nat} (st : (s.dirOf line).st ≠ .n) : s.demote line = s := by
  unfold State.demote; rw [if_pos st]

/-- A forced publish with demotion leaves no grant recorded. -/
theorem publish_demotes (s : State) (line : Nat) : ((s.publish line true).dirOf line).st ≠ .n := by
  unfold State.publish
  split
  · assumption
  · dsimp only
    rw [if_pos rfl]
    generalize List.foldl _ _ _ = u
    show ((u.setDir line (u.dirOf line).demoted).dirOf line).st ≠ .n
    rw [State.dirOf_setDir_self, DirEntry.demoted]
    dsimp only
    split
    · decide
    · assumption

theorem demote_demotes (s : State) (line : Nat) : ((s.demote line).dirOf line).st ≠ .n := by
  unfold State.demote
  split
  · assumption
  · exact publish_demotes _ _

/-- An evicted home line has no sharer and no stamp of its own. -/
theorem homeEvict_entry (s : State) (line : Nat) :
    (∃ w, (s.homeEvict line).dirOf line = { DirEntry.empty with w := w }) ∧ (s.homeEvict line).stamps.get? line = none := by
  unfold State.homeEvict
  dsimp only
  generalize State.spread _ _ _ _ _ _ _ _ = u
  refine ⟨⟨(u.dirOf line).w, ?_⟩, Tab.get?_del_self ..⟩
  unfold State.dirOf
  dsimp only
  cases (Tab.getD u.dir line DirEntry.empty).w with
  | true => rw [if_pos rfl, Tab.getD_put_self]
  | false => rw [if_neg Bool.false_ne_true, Tab.getD_del, if_pos rfl]; rfl

/-- Where it was not narrow, the copies are told, and home data stays. -/
theorem homeEvict_tells {s : State} {line : Nat} (st : (s.dirOf line).st ≠ .n) : ∃ stamp,
    let u := s.spread line (0, 32) (s.homeDie (line * 128)) stamp none 64 false
    (s.homeEvict line).mem = u.mem ∧ ∀ k, (s.homeEvict line).die k = u.die k := by
  unfold State.homeEvict
  dsimp only
  rw [demote_of_not_narrow st]
  exact ⟨_, rfl, fun _ => rfl⟩

theorem homeEviction_leads {s : State} {line : Nat} (there : populated (128 * line) = true) : ∃ t, Leads (.homeEviction line) s t ∧
    (t.dirOf line).narrow = [] ∧ (t.dirOf line).coarse = false ∧ (t.dirOf line).st = .u ∧ (t.dirOf line).ptrs = [] ∧
    t.stamps.get? line = none ∧
    ((s.dirOf line).st ≠ .n → t.mem = s.mem ∧ ∀ d, .die d ∈ s.sharersOf line → t.applyHolds d line = true) := by
  obtain ⟨⟨w, entry⟩, stamp⟩ := homeEvict_entry s line
  refine ⟨_, event_if_pos there, by rw [entry]; rfl, by rw [entry]; rfl, by rw [entry]; rfl, by rw [entry]; rfl, stamp, fun st => ?_⟩
  obtain ⟨stamp, mem, dies⟩ := homeEvict_tells st
  refine ⟨by rw [mem, (copiesOnly_spread ..).mem], fun d sharer => ?_⟩
  have target : .die d ∈ s.targets line := List.mem_eraseDups.2 (List.mem_append_left _ sharer)
  unfold State.applyHolds
  rw [dies]
  exact applyHolds_spread s line _ _ _ _ _ _ target

/-- An evicted guest copy is gone. -/
theorem guestEvict_gone (s : State) (die line : Nat) : ((s.guestEvict die line).die die).guests.get? line = none := by
  unfold State.guestEvict
  cases held : s.guest? die line with
  | none =>
    dsimp only
    exact held
  | some g =>
    dsimp only
    generalize State.dropDie _ _ _ _ _ _ _ = u
    rw [State.setDir_at_die, State.die_modDie_self]
    exact Tab.get?_del_self _ _

/-! ## Page walks (R80, R83) -/

theorem exec_pageWalk (s : State) {core : Nat} (ctx va : Nat) (wr fetch : Bool) (within : core < Config.cores) :
    exec (.pageWalk core ctx va wr fetch) s = .next (match s.walk (dieOfCore core) ctx va wr fetch with
      | (.inr _, s) => s
      | (.inl t, s) => s.installTlb core t) :=
  event_if_neg (Nat.not_le.2 within)


theorem guestEviction_leads (s : State) (die line : Nat) : ∃ t, Leads (.guestEviction die line) s t ∧ (t.die die).guests.get? line = none :=
  ⟨s.guestEvict die line, rfl, guestEvict_gone s die line⟩
theorem forcedPublish_leads (s : State) (line : Nat) : ∃ t, Leads (.forcedPublish line true) s t ∧ (t.dirOf line).st ≠ .n :=
  ⟨s.demote line, event_if_pos rfl, demote_demotes s line⟩
theorem forcedPublish_idle {s : State} {line : Nat} (st : (s.dirOf line).st ≠ .n) (demote : Bool) : Leads (.forcedPublish line demote) s s := by
  show Host.Outcome.next _ = _
  rw [demote_of_not_narrow st, publish_of_not_narrow st, ite_self]
theorem ngrant_asks {s : State} {core line : Nat} (within : core < Config.cores) (falls : s.grantStands core line = false) :
    Leads (.ngrant core line) s (s.askGrant core line) := by
  refine (event_if_pos within).trans (congrArg Host.Outcome.next ?_)
  unfold State.takeGrant
  rw [falls]
  rfl
end Sys2Proof.Machine

namespace Sys2Proof.Proofs
open Sys2Proof.Machine Sys2Proof.Safety

/-- Settles O59, clause by clause: each request is one operation of the home, of an L1 or of an apply queue. -/
theorem coherenceRequests : Obligations.CoherenceRequests := by
  intro s s1 q r b l k core die line src ctx va n st count wr fetch s0 e who span
  refine ⟨?_, exec_gets_down, ?_, ngrant_asks, ngrant_taken, wtgrant_taken, writeBack_leads, invalidation_leads, ?_,
    releaseMarker_leads s n st count, applyEntry_waits, fun x rest => applyEntry_leads, homeEviction_leads, guestEviction_leads s die line,
    fun narrow => forcedPublish_idle narrow wr, forcedPublish_leads s line, ?_, ?_⟩
  · intro good reached before fills
    rw [Leads, Leads, exec_gets good reached]
    exact ⟨fun served => congrArg (fun o : Option State => Host.Outcome.next (o.getD _)) served,
      fun waits => congrArg (fun o : Option State => Host.Outcome.next (o.getD _)) waits⟩
  · intro good free
    exact ⟨fun unwatched exact_ pointer agrees => nreq_grants good unwatched (grantable_of_pointer exact_ pointer) agrees free,
      fun watched unhit => nreq_writes_through good watched free unhit⟩
  · intro good one hbm free unwatched narrow plain w old
    exact ⟨bankAluOperation_bad good one free unwatched narrow plain, bankAluOperation_writes good one hbm free unwatched narrow plain⟩
  · intro within tl walked
    rw [Leads, exec_pageWalk s ctx va wr fetch within, walked]
  · intro within cause walked
    rw [Leads, exec_pageWalk s ctx va wr fetch within, walked]
end Sys2Proof.Proofs
end

section
/-! SUPPORT. Cards, graph nodes, tile definitions and matrix tasks (R43, R86, R96, R135–R137, R177, R179, R191–R194, R358, R366–R370, R430,
R431): what each event of the engines leads to. -/
namespace Sys2Proof.Machine
open Sys2Proof.Safety

/-! ## Cards (R86, R136, R192, R193, R370) -/

/-- A card whose context has no image waiting on its cluster is not away. -/
theorem cardAway_of_home {s : State} {k : Card} (home : k.ofTeam = false ∨ s.image? k.ctx k.clu = none) : s.cardAway k = false := by
  rcases home with other | here
  · simp [State.cardAway, other]
  · simp [State.cardAway, here]

theorem State.mem_postOnce_of_mem {s : State} {d : Instr} (posted : d ∈ s.pending) (e : Instr) : d ∈ (s.postOnce e).pending := by
  unfold State.postOnce
  split
  · exact posted
  · exact List.mem_append_left _ posted

@[simp] theorem State.wake_cards (s : State) : s.wake.cards = s.cards := rfl
theorem bits_low (x w : Nat) : bits x 0 w = x % 2 ^ w := rfl

theorem cards_get?_modCard_self (s : State) (id : Nat) (f : Card → Card) : (s.modCard id f).cards.get? id = (s.cards.get? id).map f :=
  (Tab.get?_modify ..).trans (if_pos rfl)

/-- A card that conflicts with no earlier one of its stream runs, its first transfer posted and, of a collective, its timeout. -/
theorem exec_cardStart {s : State} {id : Nat} {k : Card} (found : s.cards.get? id = some k) (waits : k.st = .waiting)
    (home : s.cardAway k = false) (clear : ∀ p ∈ s.tracker k.stream, p.2.order < k.order → p.2.conflicts k = false) :
    let begun := (s.modCard id fun k => { k with st := .running, began := s.ns }).post (.cardTransfer id)
    exec (.cardStart id) s = .next (if cardEngine k.img.toNat = 3 then begun.postOnce (.collectiveTimeout id) else begun) := by
  have unblocked : ((s.tracker k.stream).any fun p => decide (p.2.order < k.order) && p.2.conflicts k) = false := by
    simpa [List.any_eq_false] using fun i q listed => clear (i, q) listed
  show execCardStart id s = _
  simp only [execCardStart, event, found, waits, home, unblocked, ne_eq, not_true_eq_false, decide_false, Bool.or_self, Bool.false_eq_true, if_false]

theorem cardStart_leads {s : State} {id : Nat} {k : Card} (found : s.cards.get? id = some k) (waits : k.st = .waiting)
    (home : k.ofTeam = false ∨ s.image? k.ctx k.clu = none)
    (clear : ∀ p ∈ s.tracker k.stream, p.2.order < k.order → p.2.conflicts k = false) : ∃ t, Leads (.cardStart id) s t ∧
      t.cards.get? id = some { k with st := .running, began := s.ns } ∧ .cardTransfer id ∈ t.pending ∧ t.mem = s.mem := by
  let begun := (s.modCard id fun k => { k with st := .running, began := s.ns }).post (.cardTransfer id)
  have runs : begun.cards.get? id = some { k with st := .running, began := s.ns } := by
    rw [State.post_cards, cards_get?_modCard_self, found, Option.map_some]
  have posted : Instr.cardTransfer id ∈ begun.pending := List.mem_append_right _ (List.mem_singleton_self _)
  refine ⟨_, exec_cardStart found waits (cardAway_of_home home) clear, ?_⟩
  split
  · exact ⟨by rw [State.postOnce_cards, runs], State.mem_postOnce_of_mem posted _, by rw [State.postOnce_mem]; rfl⟩
  · exact ⟨runs, posted, rfl⟩

/-- One transfer of a card, by its engine. -/
def State.transfer (s : State) (k : Card) : Moved × State :=
  if cardEngine k.img.toNat = 1 then s.copyStep k else if cardEngine k.img.toNat = 2 then s.gatherStep k else s.colStep k

theorem cardTransfer_leads {s : State} {id : Nat} {k : Card} (s1 : State) (cause : Byte) (found : s.cards.get? id = some k)
    (runs : k.st = .running) :
    (∀ k', s.transfer k = (.ok k', s1) →
      Leads (.cardTransfer id) s (({ s1 with cards := s1.cards.put id k' } : State).post (.cardTransfer id))) ∧
    (s.transfer k = (.finished, s1) → Leads (.cardTransfer id) s (s1.endCard id 0)) ∧
    (∀ st, s.transfer k = (.stop st, s1) → Leads (.cardTransfer id) s (s1.endCard id st)) ∧
    (∀ wr va, s.transfer k = (.fault cause wr va, s1) → cardReplay k.img.toNat = false →
      Leads (.cardTransfer id) s (s1.endCard id cause)) := by
  have opened : exec (.cardTransfer id) s = execCardTransfer id s := rfl
  unfold State.transfer
  simp only [Leads, opened, execCardTransfer, event, found, runs]
  exact ⟨fun k' moved => by simp only [moved], fun moved => by simp only [moved], fun st moved => by simp only [moved],
    fun wr va moved plain => by simp only [moved, plain, Bool.not_false, if_true]⟩

/-- A team's card that names no signal and no arrival word leaves only its status (R192). -/
theorem cardComplete_leads {s : State} {id : Nat} {k : Card} {st : Byte} (found : s.cards.get? id = some k) (ends : k.st = .ending st)
    (home : s.settleAll.cardAway k = false) :
    ((k.stores.any s.settleAll.writeOpen = true ∨ s.settleAll.unapplied (dieOfClu k.clu) = true) →
      Leads (.cardComplete id) s (s.settleAll.post (.cardComplete id))) ∧
    (k.stores.any s.settleAll.writeOpen = false → s.settleAll.unapplied (dieOfClu k.clu) = false → cardSigen k.img.toNat = false →
      cardArren k.img.toNat = false → (∃ tm, k.stream = .team tm) → k.packet = none → Leads (.cardComplete id) s
        (if s.settleAll.awaited id then s.settleAll.modCard id fun k => { k with st := .done st, stores := [] }
          else { s.settleAll with cards := s.settleAll.cards.del id })) := by
  have opened : exec (.cardComplete id) s = execCardComplete id s := rfl
  simp only [Leads, opened, execCardComplete, event, found, ends, home, Bool.false_eq_true, if_false]
  refine ⟨fun waits => ?_, fun performed applied unsignalled silent ⟨tm, ofTeam⟩ alone => ?_⟩
  · rw [if_pos (by simpa only [Bool.or_eq_true] using waits)]
  · simp only [performed, applied, State.cardSignalled, unsignalled, silent, ofTeam, alone, Bool.or_self, Bool.not_false, Bool.false_eq_true,
      if_false, if_true]

/-! ## Collectives (R430, R431) -/

section
variable {s : State} {id : Nat} {k : Card} (found : s.cards.get? id = some k) (live : k.live = true) (col : cardEngine k.img.toNat = 3)
include found live col

theorem collectiveTimeout_leads (deaf : ∃ r < colRanks k.img.toNat, r ≠ colRank k.img.toNat ∧ k.heard.get? r = none)
    (late : k.began + 100000000 ≤ s.ns) : Leads (.collectiveTimeout id) s (s.wake.endCard id Cause.peerAbort) := by
  have unheard : ((List.range (colRanks k.img.toNat)).all fun r => r = colRank k.img.toNat || (k.heard.get? r).isSome) = false := by
    obtain ⟨r, ranked, other, none⟩ := deaf
    exact List.all_eq_false.2 ⟨r, List.mem_range.2 ranked, by simp [other, none]⟩
  show execCollectiveTimeout id s = _
  simp only [execCollectiveTimeout, event, found, live, col, unheard, late, ne_eq, not_true_eq_false, decide_false, Bool.not_true,
    Bool.or_self, Bool.false_eq_true, if_false, if_true]

variable {rank : Nat} (ranked : rank < colRanks k.img.toNat) (other : rank ≠ colRank k.img.toNat)
include ranked other

/-- A peer's data is taken once, from a rank of the same collective whose parameters agree. -/
theorem collectiveData_leads (head : PeerHead) (bs : List Byte) :
    let here := s.wake.modMgmt fun m => { m with lastFabric := s.ns }
    let mine := cardHead k.img.toNat
    (head.tag ≠ mine.tag ∨ (k.heard.get? rank).isSome = true → Leads (.collectivePeerMessage id rank (.data head bs)) s here) ∧
    (head.tag = mine.tag → k.heard.get? rank = none →
      (headsDiffer head mine = true ∨ bs.length ≠ (cardFoot k.img.toNat 0).len →
        Leads (.collectivePeerMessage id rank (.data head bs)) s (here.endCard id Cause.cardInvalid)) ∧
      (headsDiffer head mine = false → bs.length = (cardFoot k.img.toNat 0).len →
        Leads (.collectivePeerMessage id rank (.data head bs)) s (here.modCard id fun k => { k with heard := k.heard.put rank bs }))) := by
  intro here mine
  have opened : exec (.collectivePeerMessage id rank (.data head bs)) s = .next (
      if head.tag ≠ mine.tag || (k.heard.get? rank).isSome then here
      else if headsDiffer head mine || decide (bs.length ≠ (cardFoot k.img.toNat 0).len) then here.endCard id Cause.cardInvalid
      else here.modCard id fun k => { k with heard := k.heard.put rank bs }) := by
    show execCollectivePeerMessage id rank (.data head bs) s = _
    simp [execCollectivePeerMessage, event, here, mine, found, live, col, Nat.not_le.2 ranked, other]
  rw [Leads, Leads, Leads, opened]
  refine ⟨fun foreign => by rw [if_pos (by simpa using foreign)], fun same fresh => ⟨fun differs => ?_, fun agrees length => ?_⟩⟩
  · rw [if_neg (by simp [same, fresh]), if_pos (by simpa using differs)]
  · rw [if_neg (by simp [same, fresh]), if_neg (by simp [agrees, length])]

theorem collectiveAbort_leads (tag : Nat) :
    let here := s.wake.modMgmt fun m => { m with lastFabric := s.ns }
    Leads (.collectivePeerMessage id rank (.abort tag)) s
      (if tag = (cardHead k.img.toNat).tag then here.endCard id Cause.peerAbort else here) := by
  show execCollectivePeerMessage id rank (.abort tag) s = _
  simp [execCollectivePeerMessage, event, found, live, col, Nat.not_le.2 ranked, other]
end

/-! ## Graph nodes (R43, R191) -/

theorem nodeRetire_leads {s : State} {ctx n : Nat} {node : Node} (found : (s.ctx ctx).nodes.get? n = some node) :
    (node.due = true → Leads (.nodeRetire ctx n) s (s.dispatchNode ctx n node)) ∧
    (node.due = false → node.fail ≠ 0 → Leads (.nodeRetire ctx n) s (s.retireNode ctx n node none).2) ∧
    (node.due = false → node.fail = 0 → (0 < node.left ∨ node.gdone = true) → Leads (.nodeRetire ctx n) s s) ∧
    (node.due = false → node.fail = 0 → node.left = 0 → node.gdone = false → Leads (.nodeRetire ctx n) s
      (if s.settleAll.allVisible = true then (s.settleAll.retireNode ctx n node none).2 else s.settleAll.post (.nodeRetire ctx n))) := by
  have opened : exec (.nodeRetire ctx n) s = execNodeRetire ctx n s := rfl
  simp only [Leads, opened, execNodeRetire, event, found]
  refine ⟨fun due => by rw [if_pos due], fun undue fails => ?_, fun undue sound unfinished => ?_, fun undue sound done plain => ?_⟩
  · rw [if_neg (by simp [undue]), if_pos fails]
  · rw [if_neg (by simp [undue]), if_neg (by simp [sound]), if_pos (by simpa using unfinished)]
  · rw [if_neg (by simp [undue]), if_neg (by simp [sound]), if_neg (by simp [done, plain])]
    rfl

/-! ## Tile definitions and reads (R177, R179, R358) -/

theorem tileDefinitionComplete_leads {s : State} {clu name : Nat} {h : Shape} {img : List Byte}
    (formed : (s.name clu name).defn = some (.image h img)) (pends : (s.name clu name).st = .pending) :
    Leads (.tileDefinitionComplete clu name) s (s.placeValue clu name (s.name clu name) h img) := by
  show execTileDefinitionComplete clu name s = _
  simp only [execTileDefinitionComplete, event, formed, pends, if_true]

theorem tileReadComplete_leads {s : State} (s1 : State) {clu name x : Nat} {e : TileStore} {img : List Byte} {ids : List Nat}
    (found : s.tstores.get? x = some e) (fresh : e.started = false) (home : s.image? e.ctx e.clu = none) :
    let nm := s.name clu name
    let md := Desc.ofNat e.desc.toNat
    s.tileData clu name nm = .ok img →
    s.engineStores clu e.ctx (piecesOf e.va md.runs) (convertImage nm.shape { md.shape with orient := md.orient } img) [] = (.inl ids, s1) →
    Leads (.tileReadComplete clu name x) s
      (({ s1 with tstores := s1.tstores.put x { e with started := true, stores := ids } } : State).endRead clu name) := by
  intro nm md held written
  show execTileReadComplete clu name x s = _
  simp only [execTileReadComplete, event, found, fresh, home, Option.isSome_none, Bool.or_self, Bool.false_eq_true, if_false]
  simp only [nm, md] at held written
  simp only [held, written]

/-! ## Matrix tasks (R96, R366–R368) -/

/-- The first ready task of its cluster, an engine's bank freed for it, runs there unless its operands' shapes do not fit. -/
theorem tileTaskDispatch_leads {s s1 : State} {id core e : Nat} {task : Task} (found : s.tasks.get? id = some task)
    (ready : task.st = .ready) (bank : s.freeBank task.clu core = some e)
    (first : ∀ p ∈ s.tasks, p.2.clu = task.clu → p.2.st = .ready → task.serial ≤ p.2.serial)
    (emptied : s.emptyBank task.clu e = some s1) :
    let ha := (s1.operand task task.a).1
    let hb := (s1.operand task task.b).1
    let hc := (s1.operand task task.c).1
    let fp64 := decide (ha.fmt = 1)
    let fits := macShapes (task.ctl.toNat % 2 ^ 12) ha hb (if task.ctl.getLsbD 14 then none else some hc)
    (fits = false → Leads (.tileTaskDispatch id core) s (s1.failTask id Cause.tileShape)) ∧
    (fits = true → ∀ acc s2, s1.firstCells task (if fp64 then 64 else 128) (if fp64 then 32 else 64) = .ok acc →
      s1.stage task.clu (handleName task.b.toNat) e = .ok s2 → Leads (.tileTaskDispatch id core) s
        (({ s2 with tasks := s2.tasks.put id { task with st := .running e, fp64 := fp64, acc := acc } } : State).post (.tileStepBlock id))) := by
  have inTurn : (s.tasks.all fun p => !(p.2.clu = task.clu && p.2.st = .ready && decide (p.2.serial < task.serial))) = true := by
    refine List.all_eq_true.2 fun p listed => ?_
    rw [Bool.not_eq_true', Bool.eq_false_iff]
    intro earlier
    simp only [Bool.and_eq_true, decide_eq_true_eq] at earlier
    obtain ⟨⟨here, waits⟩, before⟩ := earlier
    exact Nat.not_lt.2 (first p listed here waits) before
  have opened : exec (.tileTaskDispatch id core) s = execTileTaskDispatch id core s := rfl
  simp only [Leads, opened, execTileTaskDispatch, event, found, ready, bank, inTurn, emptied, bits_low, ne_eq, not_true_eq_false, Bool.not_true,
    Bool.false_eq_true, if_false]
  refine ⟨fun misfit => by simp only [misfit, Bool.not_false, if_true], fun fit acc s2 cells staged => ?_⟩
  by_cases double : (s1.operand task task.a).1.fmt = 1
  · simp only [double, decide_true, if_true] at cells ⊢
    simp only [fit, cells, staged, Bool.not_true, Bool.false_eq_true, if_false]
  · simp only [double, decide_false, Bool.false_eq_true, if_false] at cells ⊢
    simp only [fit, cells, staged, Bool.not_true, Bool.false_eq_true, if_false]

theorem tileStepBlock_leads {s s1 : State} {id e : Nat} {task : Task} (found : s.tasks.get? id = some task) (runs : task.st = .running e)
    (ha : Shape) (ia : List Byte) (g : Staged) (staged : s.stage task.clu (handleName task.b.toNat) e = .ok s1)
    (read : s1.operand task task.a = (ha, .ok ia)) (copy : (s1.core e).garnet.find? (fun g => g.name = handleName task.b.toNat) = some g) :
    let depth := macDepth (macRow ha.fmt)
    let acc := task.block ha ia g.slice
    ∃ s2 : State, s2 = { s1 with cores := s2.cores } ∧
      ((task.step + 32 / depth) * depth < task.ctl.toNat % 2 ^ 12 → Leads (.tileStepBlock id) s
        (({ s2 with tasks := s2.tasks.put id { task with acc := acc, step := task.step + 32 / depth } } : State).post (.tileStepBlock id))) ∧
      (task.ctl.toNat % 2 ^ 12 ≤ (task.step + 32 / depth) * depth → Leads (.tileStepBlock id) s (s2.finishTask id task e acc)) := by
  intro depth acc
  refine ⟨(s1.pmc e 0x13 (32 / depth) task.ctx).pmc e 0x12 (32 / depth * macCycles ha.fmt) task.ctx, rfl, ?_⟩
  have opened : exec (.tileStepBlock id) s = execTileStepBlock id s := rfl
  simp only [Leads, opened, execTileStepBlock, event, found, runs, staged, read, copy]
  exact ⟨fun more => congrArg _ (if_pos more), fun last => congrArg _ (if_neg (Nat.not_lt.2 last))⟩
end Sys2Proof.Machine

namespace Sys2Proof.Proofs
open Sys2Proof.Machine Sys2Proof.Safety

/-- Settles O58, event by event. -/
theorem engineEvents : Obligations.EngineEvents := by
  intro s s1 id rank clu name core ctx n x k bs cause head tag
  exact ⟨cardStart_leads, cardTransfer_leads s1 cause, fun st found ends => cardComplete_leads found ends,
    fun found live col => ⟨collectiveTimeout_leads found live col, fun ranked other =>
      ⟨(collectiveData_leads found live col ranked other head bs).1, (collectiveData_leads found live col ranked other head bs).2,
        collectiveAbort_leads found live col ranked other tag⟩⟩,
    fun node => nodeRetire_leads, fun h img => tileDefinitionComplete_leads, event_if_pos, event_if_neg,
    fun e found fresh home img ids => tileReadComplete_leads s1 found fresh home,
    fun task e => tileTaskDispatch_leads, fun task e found runs ha ia g => tileStepBlock_leads found runs ha ia g⟩
end Sys2Proof.Proofs
end

section
/-! SUPPORT. QFREE and the ports of other groups (R145, R347). A context that leaves a cluster takes its queues along in its image and frees
their numbers, while its saved teams keep their port bindings for the restore (R410); another context may then configure a queue of the same
number. -/
namespace Sys2Proof.Machine
open Sys2Proof.Safety

/-- An instruction's own effect on the other teams is one, whatever state it is said to complete from: completion leaves them as they were
(R63). -/
theorem completes_other_team {i : Instr} {s t u : State} {c : Ctx} (ht : Completes i s c t) (hu : Completes i s c u) {k : Nat}
    (other : k ≠ c.tid) : t.team? k = u.team? k := by
  have same : c.retire t none false = c.retire u none false := Host.Outcome.next.inj (ht.symm.trans hu)
  obtain ⟨-, -, keepsT, -⟩ := retire_retireOnly c t none false
  obtain ⟨-, -, keepsU, -⟩ := retire_retireOnly c u none false
  rw [← keepsT k other, same, keepsU k other]

/-- QFREE frees the queue that its selector names, and the records of a feed queue are no longer to be popped. -/
theorem qfree_completes {x sel : Code} {s s' : State} {c : Ctx} {n : Nat} {q : Queue} (h : admission (.qfree x sel) s = .ok c s')
    (acts : c.active ≠ 0) (selects : c.selector s' x sel = .inl n) (listed : (s'.clu c.clu).queues.get? n = some q) :
    Completes (.qfree x sel) s c (((s'.freeQueue c.clu n).loseFeeds c.clu (feedKey q n)).post (.groupAdmission c.clu)) := by
  have act : c.acts = true := decide_eq_true acts
  refine completes_of_done h rfl ?_
  rw [Ctx.onQueue, Ctx.ifActs, if_pos act, selects]
  dsimp only
  rw [listed]
end Sys2Proof.Machine

namespace Sys2Proof.Proofs
open Sys2Proof.Machine Sys2Proof.Safety

/-- Queue 3 of cluster 0, of group 1. -/
def sharedQueue : Queue := ⟨kindU32, false, 0, 0, 4, 0, 0, 0, false, 1⟩
/-- A team of context 1 that is saved, its port 0 bound to the queue 3 that its own group, 2, had on the cluster. -/
def savedTeam : Team := { placedTeam 0 with ctx := 1, group := 2, place := .saved, ports := [(0, 3)] }
/-- A team of group 1 about to issue, on whose port 0 the cluster's present queue 3 is, beside that saved team. -/
def sharedNumberState : State :=
  { State.reset with
    focus := some ⟨0, 0, 0x10004, 15, false, true⟩,
    teams := [(0, { placedTeam 0 with group := 1, ports := [(0, 3)] }), (1, savedTeam)],
    clus := [(0, { Cluster.reset with queues := [(3, sharedQueue)] })] }

/-- QFREE of port 0 passes the shared checks there, and frees queue 3 with the saved team's port as it was. -/
theorem qfree_keeps_saved_port : ∃ (c : Ctx) (t : State), admission (.qfree 0 0) sharedNumberState = .ok c sharedNumberState ∧
    c.active ≠ 0 ∧ c.selector sharedNumberState 0 0 = .inl 3 ∧ (sharedNumberState.clu c.clu).queues.get? 3 = some sharedQueue ∧
    Completes (.qfree 0 0) sharedNumberState c t ∧ 1 ≠ c.tid ∧ cluOfCore savedTeam.core = c.clu ∧ t.team? 1 = some savedTeam := by
  have acts : firstLanes 32 &&& Team.guardMask savedTeam ≠ 0 := by decide +kernel
  exact ⟨_, _, rfl, acts, rfl, rfl, qfree_completes rfl acts rfl rfl, by decide, rfl, rfl⟩

/-- Refutes O41: QFREE unbinds the ports of its queue's group alone, so a saved team of another context keeps a port with the same number,
which names a queue of its image. -/
theorem not_queueConfigurationAndTransitions : ¬ Obligations.QueueConfigurationAndTransitions := by
  rintro ⟨-, -, transitions⟩
  obtain ⟨c, t, admitted, acts, selects, listed, freed, other, here, kept⟩ := qfree_keeps_saved_port
  obtain ⟨-, -, onQueue, -⟩ := transitions 0 0 0 0 sharedNumberState sharedNumberState c acts
  obtain ⟨u, completes, -, -, unbound, -⟩ := (onQueue 3 sharedQueue selects listed).1 admitted
  exact unbound 1 savedTeam ((completes_other_team completes freed other).trans kept) here rfl 0 rfl
end Sys2Proof.Proofs
end

section
/-! SUPPORT. Entries of queues (R144–R150), QTRY (R349) and QOFFR (R350). -/
namespace Sys2Proof.Machine
open Sys2Proof.Safety

/-! ## The ring of a queue (R144) -/

/-- A run of the local store reads back as it was written (R87). -/
theorem lread_lwrite (s : State) (core a : Nat) (bs : List Byte) : (s.lwrite core a bs).lread core a bs.length = bs := by
  rw [State.lread, readRun_eq_map]
  refine List.ext_getElem (by simp) fun i _ hi => ?_
  rw [List.getElem_map, List.getElem_range]
  refine (localByte_lwrite_inside s core a hi).trans ?_
  rw [List.getD_eq_getElem?_getD, List.getElem?_eq_getElem hi, Option.getD_some]

section
variable {s : State} {clu n : Nat} {q : Queue} (listed : (s.clu clu).queues.get? n = some q)
include listed

theorem popEntry_empty (empty : q.count = 0) : s.popEntry clu n = (List.replicate (entryBytes q.kind) 0, s) := by
  rw [State.popEntry, listed]; exact if_pos empty

theorem popEntry_held (held : q.count ≠ 0) : s.popEntry clu n =
    (s.lread (queueCore clu q) (q.base + q.head * entryBytes q.kind) (entryBytes q.kind), s.modClu clu fun c =>
      { c with queues := c.queues.put n { q with head := (q.head + 1) % q.depth, count := q.count - 1 },
               qserial := c.qserial.put n (c.qserial.getD n 0 + 1) }) := by
  rw [State.popEntry, listed]; exact if_neg held

theorem popEntry_mem : (s.popEntry clu n).2.mem = s.mem := by
  by_cases empty : q.count = 0
  · rw [popEntry_empty listed empty]
  · rw [popEntry_held listed empty]; rfl

theorem pushEntry_listed (bs : List Byte) : s.pushEntry clu n bs =
    (s.lwrite (queueCore clu q) (q.base + q.tail * entryBytes q.kind) bs).modClu clu fun c =>
      { c with queues := c.queues.put n { q with tail := (q.tail + 1) % q.depth, count := q.count + 1 },
               qserial := c.qserial.put n (c.qserial.getD n 0 + 1) } := by
  rw [State.pushEntry, listed]

theorem queue_pushEntry (bs : List Byte) :
    ((s.pushEntry clu n bs).clu clu).queues.get? n = some { q with tail := (q.tail + 1) % q.depth, count := q.count + 1 } := by
  rw [pushEntry_listed listed, State.clu_modClu_self, Tab.get?_put_self]

theorem queue_popEntry (held : q.count ≠ 0) :
    ((s.popEntry clu n).2.clu clu).queues.get? n = some { q with head := (q.head + 1) % q.depth, count := q.count - 1 } := by
  rw [popEntry_held listed held, State.clu_modClu_self, Tab.get?_put_self]

/-- What is pushed where HEAD and TAIL meet, as they do in an empty ring, is the next entry out. -/
theorem popEntry_pushEntry {bs : List Byte} (length : bs.length = entryBytes q.kind) (meet : q.head = q.tail) :
    ((s.pushEntry clu n bs).popEntry clu n).1 = bs := by
  rw [popEntry_held (queue_pushEntry listed bs) (Nat.succ_ne_zero q.count), pushEntry_listed listed]
  show (s.lwrite (queueCore clu q) (q.base + q.tail * entryBytes q.kind) bs).lread (queueCore clu q)
    (q.base + q.head * entryBytes q.kind) (entryBytes q.kind) = bs
  rw [meet, ← length, lread_lwrite]
end

/-! ## What QTRY and QOFFR answer -/

/-- A predicate written lane by lane is written from a mask that has each acting lane's bit (R52). -/
theorem putP_mask (c : Ctx) (r : Nat) (f : Nat → Bool) :
    ∃ m, (∀ s, c.putP s r f = c.modTeam s fun u => u.putPred c.active r m) ∧ ∀ l ∈ c.lanes, m.getLsbD l = f l := by
  refine ⟨maskOf (c.lanes.filter f), fun s => rfl, fun l acts => Bool.eq_iff_iff.2 ?_⟩
  rw [maskOf, getLsbD_foldl_lanes _ _ (lanesOf_lt acts), List.mem_filter]
  simp [acts]

/-- An answer with a further change of the state where the instruction is done. -/
def Res.andThen (r : Res) (f : State → State) : Res :=
  match r with
  | .done t => .done (f t)
  | r => r

theorem Res.andThen_done (t : State) (f : State → State) : (Res.done t).andThen f = .done (f t) := rfl

/-- QTRY's pop: one occurrence (R146), whose words go to D. -/
def Ctx.tryPop (c : Ctx) (n : Nat) (d : Code) (t : State) : State :=
  c.modTeam (t.popOcc c.clu n c.words).2 fun u => u.putReg c.lanes d false (delivered (t.popOcc c.clu n c.words).1)

section
variable {d x : Code} {p : BitVec 4} {e : BitVec 1} {q : BitVec 4} {s s' : State} {c : Ctx} {n : Nat} {k : Queue}

/-- A port without a queue traps with its number, whatever comes after the pops. -/
theorem unbound_traps (unbound : c.queue q.toNat = none) {i : Instr} (try_or_offer : i = .qtry d p e q ∨ i = .qoffr p x q)
    (h : admission i s = .ok c s') : Traps i s c Cause.queueUnbound (q.setWidth 32) none := by
  rcases try_or_offer with rfl | rfl <;> exact trapsWith_of_trap h rfl (by rw [unbound]; rfl)

section
variable (bound : c.queue q.toNat = some (n, k))
include bound

theorem qtry_kind (h : admission (.qtry d p e q) s = .ok c s') (lanes : k.kind = kindL32) (single : Code.uniformDst d = true) :
    Traps (.qtry d p e q) s c Cause.queueKind (q.setWidth 32) none := by
  refine trapsWith_of_trap h rfl ?_
  dsimp only
  rw [bound]
  exact if_pos (by simp [lanes, single])

/-- QTRY on a queue that it may have: it takes what it needs, what is left of a CLOSED queue, or nothing. -/
theorem qtry_answers (h : admission (.qtry d p e q) s = .ok c s') (fits : k.kind ≠ kindL32 ∨ Code.uniformDst d = false)
    (unlocked : s'.queueLocked c.clu n = false) : Completes (.qtry d p e q) s c (
      if k.count ≥ occEntries k c.words then c.putP (c.tryPop n d s') p.toNat fun _ => decide (e = 0)
      else if k.closed then c.putP (c.tryPop n d (c.modTeam s' fun u => u.raise statusEos)) p.toNat fun _ => decide (e = 1)
      else c.putP s' p.toNat fun _ => false) := by
  have kind : ¬ (decide (k.kind = kindL32) && Code.uniformDst d) = true := by
    rw [Bool.and_eq_true, decide_eq_true_eq]
    exact fun ⟨lanes, single⟩ => fits.elim (· lanes) (by simp [single])
  refine completes_of_done h rfl ?_
  dsimp only
  rw [bound]
  dsimp only
  rw [if_neg kind, if_neg (by simp [unlocked]), ← apply_ite Res.done, ← apply_ite Res.done]
  rfl

/-- The kind rules of a push come first, the value's among them (R147). -/
theorem qoffr_kind (h : admission (.qoffr p x q) s = .ok c s')
    (broken : (k.kind ≠ kindL32 ∧ Code.perLane x = true) ∨
      (k.kind = kindTname ∧ 2 ^ 16 ≤ ((c.b false x c.lane0).setWidth 32 : Word).toNat)) :
    Traps (.qoffr p x q) s c Cause.queueKind (q.setWidth 32) none := by
  refine trapsWith_of_trap h rfl ?_
  rw [bound]
  dsimp only
  split
  · rfl
  · rename_i source
    rw [if_pos]
    · rfl
    · rcases broken with lanes | value
      · exact absurd (by simpa using lanes) source
      · simpa using value

/-- QOFFR past its kind rules, on a queue that no instruction keeps to itself: CLOSED, then room, then the push. -/
theorem qoffr_answers (h : admission (.qoffr p x q) s = .ok c s')
    (fits : k.kind = kindL32 ∨ (Code.perLane x = false ∧
      (k.kind = kindTname → ((c.b false x c.lane0).setWidth 32 : Word).toNat < 2 ^ 16)))
    (unlocked : s'.queueLocked c.clu n = false) : exec (.qoffr p x q) s = .next (c.conclude (
      if k.closed then c.trap Cause.queueClosedPush (q.setWidth 32)
      else if k.depth - k.count < occEntries k c.words then .done (c.putP s' p.toNat fun _ => false)
      else (c.push s' q.toNat fun l => c.b false x l).andThen fun t => c.putP t p.toNat fun _ => true)) := by
  have source : ¬ (decide (k.kind ≠ kindL32) && Code.perLane x) = true := by
    rw [Bool.and_eq_true, decide_eq_true_eq]
    exact fun ⟨other, lanes⟩ => fits.elim other fun ⟨single, _⟩ => by simp [single] at lanes
  have value : ¬ (decide (k.kind = kindTname) && decide (((c.b false x c.lane0).setWidth 32 : Word).toNat ≥ 2 ^ 16)) = true := by
    rw [Bool.and_eq_true, decide_eq_true_eq, decide_eq_true_eq]
    rintro ⟨name, large⟩
    rcases fits with lanes | ⟨-, small⟩
    · exact absurd (lanes.symm.trans name) (by decide)
    · exact absurd (small name) (Nat.not_lt.2 large)
  refine (exec_of_ok h rfl).trans (congrArg (fun r => Host.Outcome.next (c.conclude r)) ?_)
  rw [bound]
  exact (if_neg source).trans ((if_neg value).trans (if_neg (by simp [unlocked])))
end
end
end Sys2Proof.Machine

namespace Sys2Proof.Proofs
open Sys2Proof.Machine Sys2Proof.Safety

/-- Settles O40: the ring by what a push and a pop leave of it, QTRY and QOFFR by what they answer in each case. -/
theorem queueEntriesMoveInOrder : Obligations.QueueEntriesMoveInOrder := by
  refine ⟨fun s clu n q bs listed length _ => ⟨popEntry_empty listed, queue_pushEntry listed bs,
      fun held => ⟨queue_popEntry listed held, by rw [popEntry_held listed held]⟩, fun _ => popEntry_pushEntry listed length,
      by rw [pushEntry_listed listed]; rfl, by rw [pushEntry_listed listed]; rfl, popEntry_mem listed⟩,
    fun d x p e q s s' c unbound i => unbound_traps unbound, ?_⟩
  intro d x p e q s s' c n k bound
  dsimp only
  refine ⟨qtry_kind bound, fun h => ⟨qoffr_kind bound h, fun fits unlocked closed => ?_⟩, fun h fits unlocked => ⟨fun enough => ?_,
    fun few opened => ?_, fun few closed => ?_⟩, fun h fits unlocked opened => ⟨fun full => ?_, fun room t pushed => ?_⟩⟩
  · rw [Traps, TrapsWith, qoffr_answers bound h fits unlocked, if_pos closed, ← (admission_ctx h).2.2.2.1]; rfl
  · obtain ⟨m, put, bits⟩ := putP_mask c p.toNat fun _ => decide (e = 0)
    have answer := qtry_answers bound h fits unlocked
    rw [if_pos enough, put] at answer
    exact ⟨m, answer, bits⟩
  · obtain ⟨m, put, bits⟩ := putP_mask c p.toNat fun _ => false
    have answer := qtry_answers bound h fits unlocked
    rw [if_neg (Nat.not_le.2 few), if_neg (by simp [opened]), put] at answer
    exact ⟨m, answer, bits⟩
  · obtain ⟨m, put, bits⟩ := putP_mask c p.toNat fun _ => decide (e = 1)
    have answer := qtry_answers bound h fits unlocked
    rw [if_neg (Nat.not_le.2 few), if_pos closed, put] at answer
    exact ⟨m, answer, bits⟩
  · obtain ⟨m, put, bits⟩ := putP_mask c p.toNat fun _ => false
    have answer := qoffr_answers bound h fits unlocked
    rw [if_neg (by simp [opened]), if_pos full, put] at answer
    exact ⟨m, answer, bits⟩
  · obtain ⟨m, put, bits⟩ := putP_mask c p.toNat fun _ => true
    have answer := qoffr_answers bound h fits unlocked
    rw [if_neg (by simp [opened]), if_neg (Nat.not_lt.2 room), pushed, Res.andThen_done, put] at answer
    exact ⟨m, answer, bits⟩
end Sys2Proof.Proofs
end

section
/-! SUPPORT. The host's queues and packets (R155–R162, R425): what each of their events leads to. -/
namespace Sys2Proof.Machine
open Sys2Proof.Safety

/-! ## Descriptors (R155, R159) -/

theorem Tab.put_put {α : Type} (t : Tab α) (k : Nat) (a b : α) : (t.put k a).put k b = t.put k b := by
  induction t with
  | nil => simp [Tab.put]
  | cons p t ih =>
    obtain ⟨i, x⟩ := p
    rcases Nat.lt_trichotomy k i with before | rfl | after
    · simp [Tab.put, before, Nat.ne_of_gt before]
    · simp [Tab.put]
    · simp [Tab.put, Nat.ne_of_lt after, Nat.not_lt.2 (Nat.le_of_lt after), ih]

theorem cmd_modCmdq (s : State) (q : Nat) (f : CmdQueue → CmdQueue) : (s.modCmdq q f).mgmt.cmd q = f (s.mgmt.cmd q) :=
  Tab.getD_put_self s.mgmt.cmdq q _ _
theorem cpl_modCpl (s : State) (q : Nat) (f : CplQueue → CplQueue) : (s.modCpl q f).mgmt.cpl q = f (s.mgmt.cpl q) :=
  Tab.getD_put_self s.mgmt.cplq q _ _

/-- Two changes of a descriptor are one. -/
theorem modCmdq_modCmdq (s : State) (q : Nat) (f g : CmdQueue → CmdQueue) :
    (s.modCmdq q f).modCmdq q g = s.modCmdq q fun c => g (f c) := by
  have change : g ((s.modCmdq q f).mgmt.cmd q) = g (f (s.mgmt.cmd q)) := congrArg g (cmd_modCmdq s q f)
  rw [State.modCmdq, State.modMgmt, change]
  simp only [State.modCmdq, State.modMgmt, Tab.put_put]

/-- Only what a change makes of the descriptor as it stands counts. -/
theorem modCmdq_congr (s : State) (q : Nat) {f g : CmdQueue → CmdQueue} (same : f (s.mgmt.cmd q) = g (s.mgmt.cmd q)) :
    s.modCmdq q f = s.modCmdq q g := by
  simp only [State.modCmdq, State.modMgmt, same]

/-! ## Doorbells and queue states (R155, R425) -/

/-- The descriptor with a doorbell's move of WRIDX acted on, or waiting for the host writes received before it. -/
def CmdQueue.doorbell (w : Word) (ids : List Nat) (isOpen : Nat → Bool) (c : CmdQueue) : CmdQueue :=
  if ids.any isOpen then { c with bells := [⟨0, some w, ids⟩] } else { c with wridx := w, bells := [] }

/-- A doorbell that no earlier move waits before. -/
theorem ringBell_idle {s : State} {q : Nat} (w : Word) (idle : (s.mgmt.cmd q).bells = []) : s.ringBell q w =
    let t := s.wake.modCmdq q (CmdQueue.doorbell w s.hostIds s.writeOpen)
    (if (t.mgmt.cmd q).bells.isEmpty then t else t.postOnce (.markerPacket q)).pokeQueue q := by
  have acted : (s.wake.modCmdq q fun c => { c with bells := c.bells ++ [⟨0, some w, s.hostIds⟩] }).modCmdq q
      (fun c => c.act s.writeOpen c.bells) = s.wake.modCmdq q (CmdQueue.doorbell w s.hostIds s.writeOpen) := by
    rw [modCmdq_modCmdq]
    refine modCmdq_congr _ _ ?_
    have idle' : (s.wake.mgmt.cmd q).bells = [] := idle
    simp only [idle', List.nil_append, CmdQueue.act, CmdQueue.ring1, CmdQueue.doorbell]
  rw [State.ringBell, State.pokeBells]
  exact congrArg (fun t : State => (if (t.mgmt.cmd q).bells.isEmpty then t else t.postOnce (.markerPacket q)).pokeQueue q) acted

section
variable {s : State} {q : Nat} (owned : (s.funcOfQueue q).isSome = true)
include owned

theorem not_unowned : ¬ (s.funcOfQueue q).isNone = true := Bool.eq_false_iff.1 (Option.isNone_eq_false_iff.2 owned)

theorem exec_doorbell (w : Word) : exec (.doorbell q w) s = .next (s.ringBell q w) := event_if_neg (not_unowned owned)

theorem doorbell_acts (w : Word) (idle : (s.mgmt.cmd q).bells = []) (written : s.hostIds.any s.writeOpen = false) :
    Leads (.doorbell q w) s ((s.wake.modCmdq q fun c => { c with wridx := w, bells := [] }).pokeQueue q) := by
  have acts : CmdQueue.doorbell w s.hostIds s.writeOpen = fun c => { c with wridx := w, bells := [] } :=
    funext fun c => if_neg (by simp [written])
  rw [Leads, exec_doorbell owned, ringBell_idle w idle, acts]
  simp only [cmd_modCmdq, List.isEmpty_nil, if_true]

theorem doorbell_waits (w : Word) (idle : (s.mgmt.cmd q).bells = []) (unwritten : s.hostIds.any s.writeOpen = true) :
    Leads (.doorbell q w) s
      (((s.wake.modCmdq q fun c => { c with bells := [⟨0, some w, s.hostIds⟩] }).postOnce (.markerPacket q)).pokeQueue q) := by
  have waits : CmdQueue.doorbell w s.hostIds s.writeOpen = fun c => { c with bells := [⟨0, some w, s.hostIds⟩] } :=
    funext fun c => if_pos unwritten
  rw [Leads, exec_doorbell owned, ringBell_idle w idle, waits]
  simp only [cmd_modCmdq, List.isEmpty_cons, Bool.false_eq_true, if_false]

theorem queueDisable_leads : Leads (.queueDisable q) s (s.modCmdq q fun c => { c with st := 0 }) := event_if_neg (not_unowned owned)
theorem queueAbortWrite_leads : Leads (.queueAbortWrite q) s (s.modCmdq q fun c => { c with st := 2 }) := event_if_neg (not_unowned owned)
end

theorem queueEnable_leads {s : State} {q : Nat} (own : s.queueOwn q = true) (halted : (s.mgmt.cmd q).st ≠ 1) :
    Leads (.queueEnable q) s (s.modCmdq q fun c => { c.rung with st := 1, rdidx := c.rung.wridx }) :=
  event_if_neg (by simp [own, halted])

/-! ## The BAR2 window (R425) -/

theorem hostWindowWrite_leads {s : State} {fn off pa : Nat} {bs : List Byte} (inside : s.window fn off bs.length = some pa) :
    Leads (.hostWindowWrite fn off bs) s (s.outsideWrite s.hostHeld 0 hostCtx (atAddr pa bs)).2 := by
  show execHostWindowWrite fn off bs s = _
  rw [execHostWindowWrite, inside]; rfl

theorem hostWindowWrite_outside {s : State} {fn off : Nat} {bs : List Byte} (outside : s.window fn off bs.length = none) :
    Leads (.hostWindowWrite fn off bs) s s := by
  show execHostWindowWrite fn off bs s = _
  rw [execHostWindowWrite, outside]; rfl

/-- A write that waits behind a held one changes no memory. -/
theorem outsideWrite_behind_mem (s : State) (behind : Nat × Held) (die ctx : Nat) (bs : List (Nat × Byte)) :
    (s.outsideWrite (some behind) die ctx bs).2.mem = s.mem := by
  unfold State.outsideWrite
  exact List.foldlRecOn (motive := fun t : List Nat × State => t.2.mem = s.mem) (linePieces bs) _ rfl fun _ ht _ _ => ht

theorem hostWindowWrite_held {s : State} {fn off pa : Nat} {bs : List Byte} (inside : s.window fn off bs.length = some pa)
    (held : s.hostHeld.isSome = true) : ∃ t, Leads (.hostWindowWrite fn off bs) s t ∧ t.mem = s.mem := by
  obtain ⟨behind, found⟩ := Option.isSome_iff_exists.1 held
  exact ⟨_, hostWindowWrite_leads inside, by rw [found, outsideWrite_behind_mem]⟩

/-- A read gives what stands at home once the lines are published, or nothing where a burst is bad. -/
theorem hostWindowRead_leads {s : State} {fn off n pa : Nat} (inside : s.window fn off n = some pa) : ∃ t, Leads (.hostWindowRead fn off n) s t ∧
    t.mgmt.readData = if t.badAt pa n then [] else readRun t.homeByte pa n := by
  let u := (linesOf pa n).foldl (fun s l => s.engineLine hostCtx l) s
  refine ⟨u.modMgmt fun m => { m with readData := if u.badAt pa n then [] else readRun u.homeByte pa n }, ?_, rfl⟩
  show execHostWindowRead fn off n s = _
  rw [execHostWindowRead, inside]; rfl

theorem hostWindowRead_outside {s : State} {fn off n : Nat} (outside : s.window fn off n = none) :
    Leads (.hostWindowRead fn off n) s (s.modMgmt fun m => { m with readData := [] }) := by
  show execHostWindowRead fn off n s = _
  rw [execHostWindowRead, outside]; rfl

/-! ## Completion queues (R159, R160) -/

theorem cpl_interrupt (s : State) (q : Nat) : (s.interrupt q).mgmt.cpl q = { s.mgmt.cpl q with pendingN := 0 } :=
  cpl_modCpl s q fun c => { c with pendingN := 0 }

/-- Raising an interrupt, or setting its timer, leaves the ring and what waits for it. -/
theorem interruptTest_keeps (s : State) (q : Nat) : ((s.interruptTest q).mgmt.cpl q).tail = (s.mgmt.cpl q).tail ∧
    ((s.interruptTest q).mgmt.cpl q).waiting = (s.mgmt.cpl q).waiting ∧ (s.interruptTest q).mem = s.mem := by
  unfold State.interruptTest
  dsimp only
  split
  · exact ⟨rfl, rfl, rfl⟩
  · split
    · exact ⟨by rw [cpl_interrupt], by rw [cpl_interrupt], rfl⟩
    · simp

theorem cqHeadWrite_leads (s : State) (q : Nat) (w : Word) : ∃ t, Leads (.cqHeadWrite q w) s t ∧ (t.mgmt.cpl q).head = w ∧
    (t.mgmt.cpl q).waiting = (s.mgmt.cpl q).waiting ∧ t.mem = s.mem := by
  have moved := cpl_modCpl s q fun c => { c with head := w }
  refine ⟨_, rfl, ?_⟩
  dsimp only
  split
  · exact ⟨by rw [moved], by rw [moved], rfl⟩
  · simp only [State.postOnce_mgmt, State.postOnce_mem, moved]; exact ⟨trivial, trivial, rfl⟩

theorem cqRingReset_base (s : State) (q : Nat) (v : DWord) : ∃ t, Leads (.cqRingReset q false v) s t ∧
    (t.mgmt.cpl q).base = v.setWidth 56 ∧ (t.mgmt.cpl q).tail = 0 := by
  have reset := cpl_modCpl s q fun c => { c with base := v.setWidth 56, tail := 0 }
  exact ⟨_, event_if_neg Bool.false_ne_true, by rw [reset], by rw [reset]⟩

theorem cqRingReset_size (s : State) (q : Nat) {v : DWord} (legal : v.toNat % 16 ≤ 10) : ∃ t, Leads (.cqRingReset q true v) s t ∧
    (t.mgmt.cpl q).size = v.toNat % 16 ∧ (t.mgmt.cpl q).tail = 0 := by
  have reset := cpl_modCpl s q fun c => { c with size := v.toNat % 16, tail := 0 }
  exact ⟨_, (event_if_pos rfl).trans (event_if_pos legal), by rw [reset], by rw [reset]⟩

section
variable {s : State} {q : Nat} {e : BitVec 128} {rest : List (BitVec 128)} (waits : (s.mgmt.cpl q).waiting = e :: rest)
include waits

theorem completionEntryPost_full (full : (s.mgmt.cpl q).ring ≤ ((s.mgmt.cpl q).tail - (s.mgmt.cpl q).head).toNat) :
    Leads (.completionEntryPost q) s s := by
  show execCompletionEntryPost q s = _
  unfold execCompletionEntryPost
  dsimp only
  rw [waits]
  exact event_if_pos full

theorem completionEntryPost_writes (s1 : State) (room : ((s.mgmt.cpl q).tail - (s.mgmt.cpl q).head).toNat < (s.mgmt.cpl q).ring)
    (wrote : (s.engineWrite 0 64 (atAddr (s.mgmt.cpl q).slot (natLe 16 (e.toNat + (s.mgmt.cpl q).phase * 2 ^ 127)))).2 = s1) :
    ∃ t, Leads (.completionEntryPost q) s t ∧ (t.mgmt.cpl q).tail = (s1.mgmt.cpl q).tail + 1 ∧ (t.mgmt.cpl q).waiting = rest ∧
      t.mem = s1.mem := by
  let posted := s1.modCpl q fun c => { c with
    waiting := rest, tail := c.tail + 1, pendingN := c.pendingN + 1, pendingSince := if c.pendingN = 0 then s1.ns else c.pendingSince }
  have entered : posted.mgmt.cpl q = _ := cpl_modCpl s1 q _
  obtain ⟨tail, waiting, mem⟩ := interruptTest_keeps posted q
  rw [entered] at tail waiting
  refine ⟨if rest.isEmpty then posted.interruptTest q else (posted.interruptTest q).postOnce (.completionEntryPost q), ?_, ?_⟩
  · show execCompletionEntryPost q s = _
    unfold execCompletionEntryPost
    dsimp only
    rw [waits]
    refine (event_if_neg (Nat.not_le.2 room)).trans ?_
    rw [wrote]
  · split
    · exact ⟨tail, waiting, mem⟩
    · rw [State.postOnce_mgmt, State.postOnce_mem]; exact ⟨tail, waiting, mem⟩
end

theorem cqInterruptTimer_leads {s : State} {q : Nat} (enabled : (s.mgmt.cpl q).en = true) (pends : (s.mgmt.cpl q).pendingN ≠ 0)
    (due : (s.mgmt.cpl q).pendingSince + 1000 * (s.mgmt.cpl q).timer ≤ s.ns) : ∃ t, Leads (.cqInterruptTimer q) s t ∧
    (t.mgmt.cpl q).pendingN = 0 ∧ t.mgmt.msix = ((s.funcOfQueue q).getD 0, (s.mgmt.cpl q).vector) :: s.mgmt.msix := by
  refine ⟨s.wake.interrupt q, ?_, by rw [cpl_interrupt], ?_⟩
  · exact (event_if_neg (by simp [enabled, pends])).trans (event_if_pos due)
  · show (_, ((s.wake.modCpl q fun c => { c with pendingN := 0 }).mgmt.cpl q).vector) :: _ = _
    rw [cpl_modCpl]; rfl

/-! ## Packets (R33, R156–R158) -/

section
variable {s s1 s2 : State} {q idx p type : Nat} (next : s.nextPacket q = (some p, s1)) (starts : s1.startPacket q p = (idx, s2))
include next starts

/-- A well-formed packet of the type runs its work, and the next one may start. -/
theorem startType_runs (ok : packetOk p = true) (same : pType p = type) (k : State → Nat → Nat → State) :
    s.startType q type k = (k s2 idx p).pokeQueue q := by
  unfold State.startType
  rw [next]
  dsimp only
  rw [if_neg (by simp [same]), if_neg (by simp [ok]), starts]

/-- A malformed packet of the type aborts its queue. -/
theorem startType_malformed (bad : packetOk p = false) (same : pType p = type) (k : State → Nat → Nat → State) :
    s.startType q type k = s2.abortPacket q idx Cause.cmdInvalid minusOne := by
  unfold State.startType
  rw [next]
  dsimp only
  rw [if_neg (by simp [same]), if_pos (by simp [bad]), starts]
  rfl

theorem workPacket_malformed (bad : packetOk p = false) (work : pType p = 1) :
    Leads (.workPacket q) s (s2.abortPacket q idx Cause.cmdInvalid minusOne) :=
  congrArg Host.Outcome.next (startType_malformed next starts bad work _)

variable (ok : packetOk p = true)
include ok

theorem workPacket_leads (work : pType p = 1) : Leads (.workPacket q) s ((s2.post (.workRecordAppend q idx)).pokeQueue q) :=
  congrArg Host.Outcome.next (startType_runs next starts ok work _)

theorem waitPacket_leads (wait : pType p = 2) : Leads (.waitPacket q) s ((s2.post (.waitSignalRead q idx)).pokeQueue q) :=
  congrArg Host.Outcome.next (startType_runs next starts ok wait _)

theorem copyPacket_leads (copy : pType p = 4) (room : s.trackerFull (.queue q) = false) {s3 : State} {img : List Byte}
    (read : s2.frontRead (s2.mgmt.cmd q).ctx (bits p 64 64) 128 = (.inl img, s3)) (sound : cardOk (leNat img) 0 0 = true) :
    Leads (.copyPacket q) s
      ((s3.submitCard (.queue q) (s2.mgmt.cmd q).ctx 0 0 0 0 0 (bits p 64 64) (leNat img) (some (q, idx))).2.pokeQueue q) := by
  refine (event_if_neg (by simp [room])).trans (congrArg Host.Outcome.next ((startType_runs next starts ok copy _).trans ?_))
  dsimp only
  rw [read]
  dsimp only
  rw [if_pos sound]

theorem graphPacket_leads (graph : pType p = 5) (alone : (s.mgmt.cmd q).started = []) {s3 : State} {a sc : Nat}
    (found : s2.frontXlat (s.mgmt.cmd q).ctx (bits p 64 64) true = (.ok a sc, s3)) : Leads (.graphPacket q) s
      ((s3.settleAll.sendDecrement (.die 0) 0 (s.mgmt.cmd q).ctx (bits p 64 64) a Scope.package (some (q, idx))).2.pokeQueue q) := by
  show execGraphPacket q s = _
  rw [execGraphPacket, alone]
  refine congrArg Host.Outcome.next ((startType_runs next starts ok graph _).trans ?_)
  rw [found]
end

/-- Where no packet has aborted its queue there is none to close. -/
theorem closeAborted_none {s : State} {q : Nat} (sound : ∀ x ∈ (s.mgmt.cmd q).started, x.aborted = none) : s.closeAborted q = s := by
  have none_ : ((s.mgmt.cmd q).started.any fun p => p.aborted.isSome) = false :=
    List.any_eq_false.2 fun x hx => by simp [sound x hx]
  unfold State.closeAborted
  dsimp only
  rw [List.filter_eq_nil_iff.2 fun x hx => by rw [sound x hx]; exact Bool.false_ne_true]
  exact if_neg (by simp [none_])

/-- Once a queue's moves of WRIDX are all acted on, MARKER_PACKET lets the next packet start, unless that is again a MARKER. -/
theorem markerPacket_leads {s s1 s2 : State} {q idx p : Nat} (next : s.nextPacket q = (some p, s1)) (starts : s1.startPacket q p = (idx, s2))
    (ok : packetOk p = true) (marker : pType p = 6) (sound : ∀ x ∈ (s.mgmt.cmd q).started, x.aborted = none) :
    let t := (s2.finishMarkers q ((s2.mgmt.cmd q).started.length + 1)).pokeQueue q
    ((t.mgmt.cmd q).bells = [] → Leads (.markerPacket q) s t ∨ Leads (.markerPacket q) s (t.pokeQueue q)) ∧
    ((t.mgmt.cmd q).bells ≠ [] → Leads (.markerPacket q) s (t.pokeBells q)) := by
  intro t
  have opened : exec (.markerPacket q) s = execMarkerPacket q s := rfl
  have runs : (s.startType q 6 fun s _ _ => s.finishMarkers q ((s.mgmt.cmd q).started.length + 1)) = t :=
    startType_runs next starts ok marker _
  simp only [Leads, opened, execMarkerPacket, closeAborted_none sound, runs, event]
  refine ⟨fun acted => ?_, fun waits => ?_⟩
  · rw [acted, if_pos List.isEmpty_nil]
    split
    · split
      · exact .inl rfl
      · exact .inr rfl
    · exact .inl rfl
  · rw [if_neg (by simp [waits])]

/-- With no SIGNAL of its own in flight, SIGNAL_PACKET starts the next one once what was written before is visible. -/
theorem signalPacket_looks {s : State} {q : Nat} (fresh : ∀ x ∈ (s.mgmt.cmd q).started, x.done = false) : exec (.signalPacket q) s =
    .next (if !s.settleAll.allVisible then s.settleAll.postOnce (.signalPacket q)
      else s.settleAll.startType q 3 fun s idx p => s.sendSignal q idx p) := by
  show execSignalPacket q s = _
  unfold execSignalPacket
  dsimp only
  rw [List.filter_eq_nil_iff.2 fun x hx => by simp [fresh x hx]]
  rfl

theorem signalPacket_leads {s : State} (s1 s2 : State) {q : Nat} (idx p : Nat) (fresh : ∀ x ∈ (s.mgmt.cmd q).started, x.done = false) :
    (s.settleAll.allVisible = false → Leads (.signalPacket q) s (s.settleAll.postOnce (.signalPacket q))) ∧
    (s.settleAll.allVisible = true → s.settleAll.nextPacket q = (some p, s1) → s1.startPacket q p = (idx, s2) → packetOk p = true →
      pType p = 3 → Leads (.signalPacket q) s ((s2.sendSignal q idx p).pokeQueue q)) := by
  rw [Leads, Leads, signalPacket_looks fresh]
  refine ⟨fun hidden => by rw [if_pos (by simp [hidden])], fun visible next starts ok signal => ?_⟩
  rw [if_neg (by simp [visible]), startType_runs next starts ok signal]

section
variable {s s1 : State} {q idx : Nat} {k : Started} (started : s.started? q idx = some k)
include started

/-- The next record of a WORK packet, once it is read: a rejected one ends the packet, a good one joins its ring where that has room. -/
theorem workRecordAppend_leads (s2 : State) {r : List Byte} (work : pType k.header.toNat = 1)
    (read : s.frontRead (s.mgmt.cmd q).ctx (bits k.body.toNat 64 64 + 64 * k.appended) 64 = (.inl r, s1)) :
    (s1.recordOk (s.mgmt.cmd q).ctx (leNat r) = (false, s2) →
      Leads (.workRecordAppend q idx) s (s2.finishPacket q idx Cause.workInvalid)) ∧
    (s1.recordOk (s.mgmt.cmd q).ctx (leNat r) = (true, s2) → s2.ringsFit (s.mgmt.cmd q).ctx [leNat r] = true →
      let s3 := (s2.appendRecord (s.mgmt.cmd q).ctx (leNat r) (.packet q idx)).modStarted q idx fun p => { p with appended := p.appended + 1 }
      Leads (.workRecordAppend q idx) s
        (if k.appended + 1 < bits k.body.toNat 128 32 then s3.post (.workRecordAppend q idx) else s3.finishPacket q idx 0)) := by
  have opened : exec (.workRecordAppend q idx) s = execWorkRecordAppend q idx s := rfl
  simp only [Leads, opened, execWorkRecordAppend, event, started, work, read, ne_eq, not_true_eq_false, if_false]
  exact ⟨fun rejected => by simp only [rejected], fun good room => by simp only [good, room, Bool.not_true, Bool.false_eq_true, if_false]⟩

/-- A WAIT by what its entries say when they are read. -/
theorem waitSignalRead_leads (s1 : State) (v : DWord) (wait : pType k.header.toNat = 2) :
    let r := s.waitEntries (s.mgmt.cmd q).ctx k.body.toNat (List.range 6) .met
    (r = (.met, s1) → Leads (.waitSignalRead q idx) s (s1.settleAll.finishPacket q idx 0)) ∧
    (r = (.notYet, s1) → Leads (.waitSignalRead q idx) s (s1.post (.waitSignalRead q idx))) ∧
    (r = (.negative v, s1) → Leads (.waitSignalRead q idx) s (s1.abortPacket q idx Cause.peerAbort v)) ∧
    (∀ cause, r = (.fault cause, s1) → Leads (.waitSignalRead q idx) s (s1.abortPacket q idx cause minusOne)) := by
  have opened : exec (.waitSignalRead q idx) s = execWaitSignalRead q idx s := rfl
  simp only [Leads, opened, execWaitSignalRead, event, started, wait, ne_eq, not_true_eq_false, if_false]
  exact ⟨fun met => by simp only [met], fun notYet => by simp only [notYet], fun negative => by simp only [negative],
    fun cause fault => by simp only [fault]⟩
end

/-! ## Service calls (R161, R162, log 44) -/

theorem svcRequestRoom_leads {s : State} {ctx : Nat} (within : ctx < 64) (idle : (s.ctx ctx).calls = []) :
    Leads (.svcRequestRoom ctx) s (s.modCtx ctx fun c => { c with room := 1024, requests := [] }) := by
  refine (event_if_neg (Nat.not_le.2 within)).trans ?_
  dsimp only
  rw [State.ctx_modCtx_self, idle]
  rfl

/-- The state with a reply entry in its slot of the context's ring, the settled state being `s`. -/
def State.replyTaken (s : State) (ctx : Nat) (entry : BitVec 128) : State :=
  (s.homePut (atAddr (replySlot ctx ((s.ctx ctx).nextReply % 65536)) (natLe 16 entry.toNat))).modCtx ctx
    fun c => { c with nextReply := (s.ctx ctx).nextReply % 65536 + 1 }

/-- A call with a lane's reply, entry `n` of the ring, and the note that its job is posted where that was the last one. -/
def SvcCall.answered (k : SvcCall) (lane n : Nat) : SvcCall :=
  { k with replies := k.replies.put lane n, posted := k.posted || { k with replies := k.replies.put lane n }.complete && !k.posted }

/-- The state in which a call has a lane's reply, and its job is posted, with cluster `clu`, where that was the last one (R383). -/
def State.replyKept (s : State) (ctx call : Nat) (k : SvcCall) (lane n clu : Nat) : State :=
  let u := s.modCtx ctx fun c => { c with calls := c.calls.put call (k.answered lane n) }
  if { k with replies := k.replies.put lane n }.complete && !k.posted then
    u.postJob (dieOfClu clu) 2 (BitVec.ofNat 32 call) (BitVec.ofNat 32 (ctx + 64 * clu)) 0 k.team k.path none
  else u

/-- The job changes no context and no memory. -/
theorem replyKept_call (s : State) (ctx call : Nat) (k : SvcCall) (lane n clu : Nat) :
    ((s.replyKept ctx call k lane n clu).ctx ctx).calls.get? call = some (k.answered lane n) ∧ (s.replyKept ctx call k lane n clu).mem = s.mem := by
  have kept : ((s.modCtx ctx fun c => { c with calls := c.calls.put call (k.answered lane n) }).ctx ctx).calls.get? call =
      some (k.answered lane n) := by
    rw [State.ctx_modCtx_self]; exact Tab.get?_put_self ..
  unfold State.replyKept
  dsimp only
  split
  · exact ⟨kept, rfl⟩
  · exact ⟨kept, rfl⟩

theorem replies_answered (k : SvcCall) (lane n : Nat) : (k.answered lane n).replies.get? lane = some n := Tab.get?_put_self ..

section
variable {s : State} {ctx : Nat} (entry : BitVec 128) (within : ctx < 64)
include within

/-- A reply waits for the host writes received before it, for their invalidations on die 0 and for its slot. -/
theorem svcReply_waits (waits : s.settleAll.hostIds ≠ [] ∨ s.settleAll.unapplied 0 = true ∨
    (s.settleAll.ctx ctx).replyHeld ((s.settleAll.ctx ctx).nextReply % 65536) = true) :
    Leads (.svcReply ctx entry) s (s.settleAll.post (.svcReply ctx entry)) := by
  refine (event_if_neg (Nat.not_le.2 within)).trans (congrArg Host.Outcome.next (if_pos ?_))
  simpa [or_assoc] using waits

variable (taken : ¬ (s.settleAll.hostIds ≠ [] ∨ s.settleAll.unapplied 0 = true ∨
    (s.settleAll.ctx ctx).replyHeld ((s.settleAll.ctx ctx).nextReply % 65536) = true))
include taken

/-- A reply that is taken counts as an error unless it is one for a lane of a call that is out; then the call keeps it, in place of an
earlier one of that lane. -/
theorem svcReply_taken :
    let t0 := s.settleAll.replyTaken ctx entry
    let call := bits entry.toNat 0 32
    let lane := bits entry.toNat 32 16
    ((∀ k, (t0.ctx ctx).calls.get? call = some k → lane ∉ k.lanes ∨ k.sent = false) →
      Leads (.svcReply ctx entry) s (t0.countCtx 0 ctx 0x872)) ∧
    ∀ k, (t0.ctx ctx).calls.get? call = some k → lane ∈ k.lanes → k.sent = true → ∃ t k', Leads (.svcReply ctx entry) s t ∧
      (t.ctx ctx).calls.get? call = some k' ∧ k'.replies.get? lane = some ((s.settleAll.ctx ctx).nextReply % 65536) ∧ t.mem = t0.mem := by
  intro t0 call lane
  have opened : exec (.svcReply ctx entry) s = execSvcReply ctx entry s := rfl
  have goes : (!s.settleAll.hostIds.isEmpty || s.settleAll.unapplied 0 ||
      (s.settleAll.ctx ctx).replyHeld ((s.settleAll.ctx ctx).nextReply % 65536)) = false := by
    simpa [and_assoc] using taken
  have written : (s.settleAll.homePut (atAddr (replySlot ctx ((s.settleAll.ctx ctx).nextReply % 65536)) (natLe 16 entry.toNat))).modCtx ctx
      (fun c => { c with nextReply := (s.settleAll.ctx ctx).nextReply % 65536 + 1 }) = t0 := rfl
  have number : bits entry.toNat 0 32 = call := rfl
  have place : bits entry.toNat 32 16 = lane := rfl
  simp only [Leads, opened, execSvcReply, event, ge_iff_le, Nat.not_le.2 within, goes, Bool.false_eq_true, if_false, written, number, place]
  generalize (s.settleAll.ctx ctx).nextReply % 65536 = m
  clear_value t0 call lane
  refine ⟨fun stray => ?_, fun k found asked sent => ?_⟩
  · split
    · rfl
    · rename_i k found
      rw [if_pos]
      rcases stray k found with other | unsent
      · simp [other]
      · simp [unsent]
  · rw [found]
    dsimp only
    rw [if_neg (by simp [sent, asked])]
    refine ⟨t0.replyKept ctx call k lane m _, k.answered lane m, rfl, ?_, replies_answered k lane m, ?_⟩
    · exact (replyKept_call t0 ctx call k lane m _).1
    · exact (replyKept_call t0 ctx call k lane m _).2
end
end Sys2Proof.Machine

namespace Sys2Proof.Proofs
open Sys2Proof.Machine Sys2Proof.Safety

/-- Settles O56, event by event. -/
theorem hostQueuesAndPackets : Obligations.HostQueuesAndPackets := by
  intro s s1 s2 q idx p ctx w v entry fn off pa bs n
  dsimp only
  refine ⟨fun owned => ⟨doorbell_acts owned w, doorbell_waits owned w, queueDisable_leads owned, queueAbortWrite_leads owned⟩,
    queueEnable_leads, fun inside free => ?_, hostWindowWrite_held, hostWindowWrite_outside, hostWindowRead_leads, hostWindowRead_outside,
    cqHeadWrite_leads s q w, cqRingReset_base s q v, cqRingReset_size s q,
    fun e rest waits => ⟨completionEntryPost_full waits, completionEntryPost_writes waits s1⟩, cqInterruptTimer_leads,
    fun next starts ok => ⟨workPacket_leads next starts ok, waitPacket_leads next starts ok,
      fun copy room s3 img => copyPacket_leads next starts ok copy room, fun graph alone s3 a sc => graphPacket_leads next starts ok graph alone,
      markerPacket_leads next starts ok⟩,
    signalPacket_leads s1 s2 idx p, workPacket_malformed, fun k r started => workRecordAppend_leads started s2,
    fun k started => waitSignalRead_leads started s1 v, svcRequestRoom_leads, fun within => ⟨svcReply_waits entry within, fun taken => ?_⟩⟩
  · have wrote := hostWindowWrite_leads inside
    rw [free] at wrote
    exact wrote
  · exact svcReply_taken entry within taken
end Sys2Proof.Proofs
end

section
/-! SUPPORT -/
namespace Sys2Proof
open BitVec

/-! ### A word by its opcode and fields (R234) -/

theorem opOf_packWord (op a b c : BitVec 8) : opOf (packWord op a b c) = op.toNat := congrArg BitVec.toNat <|
  (extractLsb'_append_eq_of_le (by decide)).trans <| (extractLsb'_append_eq_of_le (by decide)).trans extractLsb'_append_eq_left
theorem fieldA_packWord (op a b c : BitVec 8) : fieldA (packWord op a b c) = a :=
  (extractLsb'_append_eq_of_le (by decide)).trans <| (extractLsb'_append_eq_of_le (by decide)).trans extractLsb'_append_eq_right
theorem fieldB_packWord (op a b c : BitVec 8) : fieldB (packWord op a b c) = b :=
  (extractLsb'_append_eq_of_le (by decide)).trans extractLsb'_append_eq_right
theorem fieldC_packWord (op a b c : BitVec 8) : fieldC (packWord op a b c) = c := extractLsb'_append_eq_right

theorem decode_packWord (op a b c : BitVec 8) : decode (packWord op a b c) = decodeFields op.toNat a b c := by
  rw [decode, opOf_packWord, fieldA_packWord, fieldB_packWord, fieldC_packWord]

/-- A word is its opcode and its fields (R234). -/
theorem packWord_fields (w : Word) : packWord (w.extractLsb' 24 8) (fieldA w) (fieldB w) (fieldC w) = w := by
  have ab : w.extractLsb' 24 8 ++ fieldA w = w.extractLsb' 16 16 := extractLsb'_append_extractLsb'_eq_extractLsb' rfl
  have abc : w.extractLsb' 16 16 ++ fieldB w = w.extractLsb' 8 24 := extractLsb'_append_extractLsb'_eq_extractLsb' rfl
  have all : w.extractLsb' 8 24 ++ fieldC w = w.extractLsb' 0 32 := extractLsb'_append_extractLsb'_eq_extractLsb' rfl
  rw [packWord, ab, abc, all, extractLsb'_eq_self]

/-! ### The forms of a field

What is written in a field passes the decoder's test and is read back, and a byte that passes the test is what is written for what
is read from it. -/

/-- A predicate's code is 0xB in bits [7:4] and its number below (R236). -/
@[simp] theorem predicateField :
    (∀ p : BitVec 4, HAnd.hAnd (α := BitVec 8) (0xB#4 ++ p) 0xF0#8 = 0xB0#8 ∧ extractLsb' (n := 8) 0 4 (0xB#4 ++ p) = p) ∧
    ∀ x : BitVec 8, x &&& 0xF0 = 0xB0 → 0xB#4 ++ x.extractLsb' 0 4 = x := by decide
/-- The code of an s register is 4 in bits [7:5] and its number below (R236). -/
@[simp] theorem scalarField :
    (∀ r : BitVec 5, HAnd.hAnd (α := BitVec 8) (0x4#3 ++ r) 0xE0#8 = 0x80#8 ∧ extractLsb' (n := 8) 0 5 (0x4#3 ++ r) = r) ∧
    ∀ x : BitVec 8, x &&& 0xE0 = 0x80 → 0x4#3 ++ x.extractLsb' 0 5 = x := by decide
/-- The counter of a TICKET whose bit 7 says that its job is done. -/
@[simp] theorem ticketDoneField :
    (∀ k : BitVec 4, HAnd.hAnd (α := BitVec 8) (0x8#4 ++ k) 0xF0#8 = 0x80#8 ∧ extractLsb' (n := 8) 0 4 (0x8#4 ++ k) = k) ∧
    ∀ x : BitVec 8, x &&& 0xF0 = 0x80 → 0x8#4 ++ x.extractLsb' 0 4 = x := by decide
/-- A number of 7 bits under reserved bits, which are 0; the shorter ones follow. -/
@[simp] theorem lowField7 :
    (∀ k : BitVec 7, HAnd.hAnd (α := BitVec 8) (0x0#1 ++ k) 0x80#8 = 0x00#8 ∧ extractLsb' (n := 8) 0 7 (0x0#1 ++ k) = k) ∧
    ∀ x : BitVec 8, x &&& 0x80 = 0x00 → 0x0#1 ++ x.extractLsb' 0 7 = x := by decide
@[simp] theorem lowField6 :
    (∀ k : BitVec 6, HAnd.hAnd (α := BitVec 8) (0x0#2 ++ k) 0xC0#8 = 0x00#8 ∧ extractLsb' (n := 8) 0 6 (0x0#2 ++ k) = k) ∧
    ∀ x : BitVec 8, x &&& 0xC0 = 0x00 → 0x0#2 ++ x.extractLsb' 0 6 = x := by decide
@[simp] theorem lowField5 :
    (∀ k : BitVec 5, HAnd.hAnd (α := BitVec 8) (0x0#3 ++ k) 0xE0#8 = 0x00#8 ∧ extractLsb' (n := 8) 0 5 (0x0#3 ++ k) = k) ∧
    ∀ x : BitVec 8, x &&& 0xE0 = 0x00 → 0x0#3 ++ x.extractLsb' 0 5 = x := by decide
@[simp] theorem lowField4 :
    (∀ k : BitVec 4, HAnd.hAnd (α := BitVec 8) (0x0#4 ++ k) 0xF0#8 = 0x00#8 ∧ extractLsb' (n := 8) 0 4 (0x0#4 ++ k) = k) ∧
    ∀ x : BitVec 8, x &&& 0xF0 = 0x00 → 0x0#4 ++ x.extractLsb' 0 4 = x := by decide
@[simp] theorem lowField3 :
    (∀ k : BitVec 3, HAnd.hAnd (α := BitVec 8) (0x0#5 ++ k) 0xF8#8 = 0x00#8 ∧ extractLsb' (n := 8) 0 3 (0x0#5 ++ k) = k) ∧
    ∀ x : BitVec 8, x &&& 0xF8 = 0x00 → 0x0#5 ++ x.extractLsb' 0 3 = x := by decide
@[simp] theorem lowField2 :
    (∀ k : BitVec 2, HAnd.hAnd (α := BitVec 8) (0x0#6 ++ k) 0xFC#8 = 0x00#8 ∧ extractLsb' (n := 8) 0 2 (0x0#6 ++ k) = k) ∧
    ∀ x : BitVec 8, x &&& 0xFC = 0x00 → 0x0#6 ++ x.extractLsb' 0 2 = x := by decide
@[simp] theorem lowField1 :
    (∀ k : BitVec 1, HAnd.hAnd (α := BitVec 8) (0x0#7 ++ k) 0xFE#8 = 0x00#8 ∧ extractLsb' (n := 8) 0 1 (0x0#7 ++ k) = k) ∧
    ∀ x : BitVec 8, x &&& 0xFE = 0x00 → 0x0#7 ++ x.extractLsb' 0 1 = x := by decide
/-- Field C of a memory access: every byte is a scale and an offset. -/
@[simp] theorem scaleOffsetField :
    (∀ (s : BitVec 2) (o : BitVec 6), extractLsb' (n := 8) 6 2 (s ++ o) = s ∧ extractLsb' (n := 8) 0 6 (s ++ o) = o) ∧
    ∀ x : BitVec 8, x.extractLsb' 6 2 ++ x.extractLsb' 0 6 = x := by decide
/-- Field C of LDP. -/
@[simp] theorem ldpField :
    (∀ s w : BitVec 2, HAnd.hAnd (α := BitVec 8) (0x0#4 ++ s ++ w) 0xF0#8 = 0x00#8 ∧
      extractLsb' (n := 8) 2 2 (0x0#4 ++ s ++ w) = s ∧ extractLsb' (n := 8) 0 2 (0x0#4 ++ s ++ w) = w) ∧
    ∀ x : BitVec 8, x &&& 0xF0 = 0x00 → 0x0#4 ++ x.extractLsb' 2 2 ++ x.extractLsb' 0 2 = x := by decide
/-- Field C of ACNT. -/
@[simp] theorem acntField :
    (∀ w r : BitVec 1, HAnd.hAnd (α := BitVec 8) (0x0#6 ++ w ++ r) 0xFC#8 = 0x00#8 ∧
      extractLsb' (n := 8) 1 1 (0x0#6 ++ w ++ r) = w ∧ extractLsb' (n := 8) 0 1 (0x0#6 ++ w ++ r) = r) ∧
    ∀ x : BitVec 8, x &&& 0xFC = 0x00 → 0x0#6 ++ x.extractLsb' 1 1 ++ x.extractLsb' 0 1 = x := by decide
/-- Field C of REDU. -/
@[simp] theorem reduField :
    (∀ (w : BitVec 1) (o : BitVec 4), HAnd.hAnd (α := BitVec 8) (0x0#3 ++ w ++ o) 0xE0#8 = 0x00#8 ∧
      extractLsb' (n := 8) 4 1 (0x0#3 ++ w ++ o) = w ∧ extractLsb' (n := 8) 0 4 (0x0#3 ++ w ++ o) = o) ∧
    ∀ x : BitVec 8, x &&& 0xE0 = 0x00 → 0x0#3 ++ x.extractLsb' 4 1 ++ x.extractLsb' 0 4 = x := by decide
/-- Field C of SCAN, ATOM and ATOMR. -/
@[simp] theorem scanField :
    (∀ (e w : BitVec 1) (o : BitVec 4), HAnd.hAnd (α := BitVec 8) (0x0#2 ++ e ++ w ++ o) 0xC0#8 = 0x00#8 ∧
      extractLsb' (n := 8) 5 1 (0x0#2 ++ e ++ w ++ o) = e ∧ extractLsb' (n := 8) 4 1 (0x0#2 ++ e ++ w ++ o) = w ∧
      extractLsb' (n := 8) 0 4 (0x0#2 ++ e ++ w ++ o) = o) ∧
    ∀ x : BitVec 8, x &&& 0xC0 = 0x00 → 0x0#2 ++ x.extractLsb' 5 1 ++ x.extractLsb' 4 1 ++ x.extractLsb' 0 4 = x := by decide
/-- Field C of CAS. -/
@[simp] theorem casField :
    (∀ r q : BitVec 1, HAnd.hAnd (α := BitVec 8) (0x0#2 ++ r ++ q ++ 0x0#4) 0xCF#8 = 0x00#8 ∧
      extractLsb' (n := 8) 5 1 (0x0#2 ++ r ++ q ++ 0x0#4) = r ∧ extractLsb' (n := 8) 4 1 (0x0#2 ++ r ++ q ++ 0x0#4) = q) ∧
    ∀ x : BitVec 8, x &&& 0xCF = 0x00 → 0x0#2 ++ x.extractLsb' 5 1 ++ x.extractLsb' 4 1 ++ 0x0#4 = x := by decide
/-- Field C of QTRY. -/
@[simp] theorem qtryField :
    (∀ (e : BitVec 1) (q : BitVec 4), HAnd.hAnd (α := BitVec 8) (0x0#2 ++ e ++ 0x0#1 ++ q) 0xD0#8 = 0x00#8 ∧
      extractLsb' (n := 8) 5 1 (0x0#2 ++ e ++ 0x0#1 ++ q) = e ∧ extractLsb' (n := 8) 0 4 (0x0#2 ++ e ++ 0x0#1 ++ q) = q) ∧
    ∀ x : BitVec 8, x &&& 0xD0 = 0x00 → 0x0#2 ++ x.extractLsb' 5 1 ++ 0x0#1 ++ x.extractLsb' 0 4 = x := by decide
/-- Field C of THINT. -/
@[simp] theorem thintField :
    (∀ (c : BitVec 4) (h : BitVec 3), HAnd.hAnd (α := BitVec 8) (0x0#1 ++ c ++ h) 0x80#8 = 0x00#8 ∧
      extractLsb' (n := 8) 3 4 (0x0#1 ++ c ++ h) = c ∧ extractLsb' (n := 8) 0 3 (0x0#1 ++ c ++ h) = h) ∧
    ∀ x : BitVec 8, x &&& 0x80 = 0x00 → 0x0#1 ++ x.extractLsb' 3 4 ++ x.extractLsb' 0 3 = x := by decide
/-- Field C of GARM. -/
@[simp] theorem garmField :
    (∀ r : BitVec 1, HAnd.hAnd (α := BitVec 8) (0x0#2 ++ r ++ 0x0#5) 0xDF#8 = 0x00#8 ∧ extractLsb' (n := 8) 5 1 (0x0#2 ++ r ++ 0x0#5) = r) ∧
    ∀ x : BitVec 8, x &&& 0xDF = 0x00 → 0x0#2 ++ x.extractLsb' 5 1 ++ 0x0#5 = x := by decide
/-- Field C of SIGA. -/
@[simp] theorem sigaField :
    (∀ (r : BitVec 1) (o : BitVec 2), HAnd.hAnd (α := BitVec 8) (0x0#2 ++ r ++ 0x0#3 ++ o) 0xDC#8 = 0x00#8 ∧
      extractLsb' (n := 8) 5 1 (0x0#2 ++ r ++ 0x0#3 ++ o) = r ∧ extractLsb' (n := 8) 0 2 (0x0#2 ++ r ++ 0x0#3 ++ o) = o) ∧
    ∀ x : BitVec 8, x &&& 0xDC = 0x00 → 0x0#2 ++ x.extractLsb' 5 1 ++ 0x0#3 ++ x.extractLsb' 0 2 = x := by decide

/-- A 16-bit immediate in fields B and C. -/
@[simp] theorem immediate16 : (∀ i : BitVec 16, i.extractLsb' 8 8 ++ i.extractLsb' 0 8 = i) ∧
    ∀ b c : BitVec 8, extractLsb' (n := 16) 8 8 (b ++ c) = b ∧ extractLsb' (n := 16) 0 8 (b ++ c) = c :=
  ⟨fun _ => extractLsb'_append_extractLsb', fun _ _ => ⟨extractLsb'_append_eq_left, extractLsb'_append_eq_right⟩⟩
/-- A 24-bit immediate in all three. -/
@[simp] theorem immediate24 : (∀ i : BitVec 24, i.extractLsb' 16 8 ++ i.extractLsb' 8 8 ++ i.extractLsb' 0 8 = i) ∧
    ∀ a b c : BitVec 8, extractLsb' (n := 24) 16 8 (a ++ b ++ c) = a ∧ extractLsb' (n := 24) 8 8 (a ++ b ++ c) = b ∧
      extractLsb' (n := 24) 0 8 (a ++ b ++ c) = c := by
  refine ⟨fun i => ?_, fun a b c => ⟨?_, ?_, extractLsb'_append_eq_right⟩⟩
  · have high : i.extractLsb' 16 8 ++ i.extractLsb' 8 8 = i.extractLsb' 8 16 := extractLsb'_append_extractLsb'_eq_extractLsb' rfl
    rw [high]
    exact extractLsb'_append_extractLsb'
  · exact (extractLsb'_append_eq_of_le (by decide)).trans extractLsb'_append_eq_left
  · exact (extractLsb'_append_eq_of_le (by decide)).trans extractLsb'_append_eq_right
/-- A CSR's number, its upper 4 bits in field B. -/
@[simp] theorem csrNumber : (∀ c : BitVec 12, c.extractLsb' 8 4 ++ c.extractLsb' 0 8 = c) ∧
    ∀ (h : BitVec 4) (c : BitVec 8), extractLsb' (n := 12) 8 4 (h ++ c) = h ∧ extractLsb' (n := 12) 0 8 (h ++ c) = c :=
  ⟨fun _ => extractLsb'_append_extractLsb', fun _ _ => ⟨extractLsb'_append_eq_left, extractLsb'_append_eq_right⟩⟩
/-- An s register's code is not the 0 by which FWCALL's two forms are told apart. -/
theorem scalar_ne_zero : ∀ r : BitVec 5, (0x4#3 ++ r : BitVec 8) ≠ 0#8 := by decide

/-! ### Both directions -/

/-- A word's opcode picks the row of its instruction, whose tests its fields pass. -/
theorem decode_encode {i : Instr} {w : Word} (h : encode i = some w) : decode w = some i := by
  cases i <;> cases h
  all_goals
    rw [decode_packWord]
    simp [decodeFields, decodeControl, decodeInteger, decodePredicate, decodeFloat, decodeCross, decodeMemory, decodeQueueTile, decodeSystem,
      scalar_ne_zero]

/-- Whatever instruction is read from an opcode and fields, the word of these is its word. -/
def Encodes (op a b c : BitVec 8) (x : Option Instr) : Prop := ∀ i, x = some i → encode i = some (packWord op a b c)

section
variable {op a b c : BitVec 8} {x y : Option Instr}

/-- A row of the table is met by its own opcode only. -/
theorem Encodes.row {k : Nat} (here : Encodes (BitVec.ofNat 8 k) a b c x) (later : Encodes op a b c y) :
    Encodes op a b c (if op.toNat = k then x else y) := by
  split
  · rename_i same
    rw [← same, BitVec.ofNat_toNat, BitVec.setWidth_eq] at here
    exact here
  · exact later

theorem Encodes.test {p : Prop} [Decidable p] (here : p → Encodes op a b c x) (later : Encodes op a b c y) :
    Encodes op a b c (if p then x else y) := by
  split
  · exact here ‹_›
  · exact later

theorem Encodes.unassigned : Encodes op a b c none := fun _ h => nomatch h

/-- A row that is met is right where the fields that it reads are written back as they were. -/
theorem Encodes.word {i : Instr} {a' b' c' : BitVec 8} (word : encode i = some (packWord op a' b' c')) (ha : a' = a) (hb : b' = b)
    (hc : c' = c) : Encodes op a b c (some i) := by
  rintro _ ⟨⟩
  rw [word, ha, hb, hc]
end

/-- The decoder row by row: the opcode, the fields' tests, and what is read from the fields. -/
theorem encodes_decodeFields (op a b c : BitVec 8) : Encodes op a b c (decodeFields op.toNat a b c) := by
  unfold decodeFields decodeControl decodeInteger decodePredicate decodeFloat decodeCross decodeMemory decodeQueueTile decodeSystem
  repeat' with_reducible first
    | refine Encodes.row ?_ ?_
    | refine Encodes.test (fun _ => ?_) ?_
    | exact Encodes.unassigned
  all_goals refine Encodes.word rfl ?_ ?_ ?_
  all_goals simp_all

theorem encode_decode {w : Word} {i : Instr} (h : decode w = some i) : encode i = some w := by
  rw [encodes_decodeFields _ _ _ _ i h, packWord_fields]
end Sys2Proof

namespace Sys2Proof.Proofs

/-- Settles O4: each field that `encode` writes passes its test in `decode` and is read back. -/
theorem decodeOfEncode : Obligations.DecodeOfEncode := fun _ _ => decode_encode

/-- Settles O5: each row of `decode` accounts for every bit of its word; the word of ILL is no exception. -/
theorem encodeOfDecode : Obligations.EncodeOfDecode := fun _ _ h _ => encode_decode h

/-- Settles O3: each word is the one its instruction has. -/
theorem wordsDecode : Obligations.WordsDecode :=
  ⟨decode_encode rfl, decode_encode rfl, decode_encode rfl, decode_encode rfl, decode_encode rfl, decode_encode rfl, decode_encode rfl,
    decode_encode rfl, decode_encode rfl, decode_encode rfl, decode_encode rfl, decode_encode rfl, decode_encode rfl, decode_encode rfl⟩
end Sys2Proof.Proofs
end

section
/-! SUPPORT -/
namespace Sys2Proof.Machine
open Sys2Proof.Safety

section
variable {n : Info} {t : Team} {p : Path}

/-- The test of step 3 of R247 in plain terms (R246, R343). -/
theorem privileged_iff : Privileged n t p ↔
    ((n.priv = 1 && !t.fw) || (n.priv = 2 && !t.fw && p.win ≠ .trap) || (n.noFw && t.fw)) = false := by
  unfold Privileged
  cases t.fw <;> cases n.noFw <;> simp

/-- The view of a CSR in plain terms (R71). -/
theorem csrInView_iff (k : Nat) : csrInView t.fw (p.win = .trap) k = true ↔ t.fw = true ∨ k < 0x400 ∨ (p.win = .trap ∧ k < 0x800) := by
  simp [csrInView, or_assoc]

theorem privFault_of_not_privileged (unprivileged : ¬ Privileged n t p) (w : Word) : n.privFault t p w = some w := by
  rw [privileged_iff, Bool.not_eq_false] at unprivileged
  rw [Info.privFault, if_pos unprivileged]

theorem privFault_of_privileged (privileged : Privileged n t p) (w : Word) : n.privFault t p w =
    n.csr.bind fun k => if csrInView t.fw (p.win = .trap) k then none else some (BitVec.ofNat 32 k) := by
  rw [privileged_iff] at privileged
  rw [Info.privFault, privileged, if_neg Bool.false_ne_true]
  cases n.csr <;> rfl

theorem privFault_of_not_inView (privileged : Privileged n t p) (hidden : ¬ InView n t p) (w : Word) :
    ∃ k, n.csr = some k ∧ n.privFault t p w = some (BitVec.ofNat 32 k) := by
  obtain ⟨k, hidden⟩ := Classical.not_forall.1 hidden
  obtain ⟨csr, hidden⟩ := Classical.not_imp.1 hidden
  refine ⟨k, csr, ?_⟩
  have unseen : csrInView t.fw (p.win = .trap) k = false := by
    rw [← Bool.not_eq_true, csrInView_iff]
    exact hidden
  rw [privFault_of_privileged privileged, csr, Option.bind_some, unseen, if_neg Bool.false_ne_true]

theorem privFault_eq_none_iff (w : Word) : n.privFault t p w = none ↔ MayIssue n t p := by
  constructor
  · intro passes
    by_cases privileged : Privileged n t p
    · refine ⟨privileged, fun k csr => (csrInView_iff k).1 ?_⟩
      rw [privFault_of_privileged privileged, csr, Option.bind_some] at passes
      cases view : csrInView t.fw (p.win = .trap) k with
      | true => rfl
      | false =>
        rw [view, if_neg Bool.false_ne_true] at passes
        cases passes
    · rw [privFault_of_not_privileged privileged] at passes
      cases passes
  · rintro ⟨privileged, inView⟩
    rw [privFault_of_privileged privileged]
    cases csr : n.csr with
    | none => rfl
    | some k => simp [(csrInView_iff k).2 (inView k csr)]
end

theorem rightFront_iff {n : Info} {t : Team} : RightFront n t ↔ (n.xonly && !t.xfront) = false := by
  unfold RightFront
  cases n.xonly <;> simp

theorem guard_allows_iff {n : Info} {t : Team} :
    (!t.guard.isEmpty && (n.ban || !n.ports.isEmpty)) = false ↔ t.guard = [] ∨ (n.ban = false ∧ n.ports = []) := by
  cases t.guard with
  | nil => simp
  | cons level levels => simp

/-- The context that the shared checks look at. -/
theorem plainCtx_eq (i : Instr) (s : State) (f : Focus) (t : Team) (p : Path) :
    (⟨f, s, t, p, t.info i, .nothing, .nothing, .nothing⟩ : Ctx) = plainCtx i s f t p := rfl

/-- An instruction that names no queue pushes to none, so none that it pushes to is of a wrong kind. -/
theorem portIllegal_of_portless {c : Ctx} (portless : c.n.ports = []) : c.portIllegal = false := by
  have pushless : c.n.pushes = [] := by
    simp only [Info.ports, Info.pushes, List.filter_eq_nil_iff, Bool.and_eq_true] at portless ⊢
    exact fun o named pushed => portless o named pushed.2
  rw [Ctx.portIllegal, pushless, List.any_nil]

/-- An instruction that no check holds, and that names no queue, is accepted as it stands. -/
theorem admission_passes {i : Instr} {s : State} {f : Focus} {t : Team} {p : Path} (issuer : Issuer s f t p)
    (first : t.rests.get? f.path = none) (unbegun : p.begun = false) (issues : MayIssue (t.info i) t p) (front : RightFront (t.info i) t)
    (clean : CleanOperands (t.info i) t p) (sound : (plainCtx i s f t p).badReg = none) : admission i s = .ok (plainCtx i s f t p) s := by
  obtain ⟨focused, team, path⟩ := issuer
  obtain ⟨legal, budget, allowed, portless⟩ := clean
  have ports : (plainCtx i s f t p).portIllegal = false := portIllegal_of_portless portless
  have guard := guard_allows_iff.2 (allowed.imp_right fun unbanned => ⟨unbanned, portless⟩)
  rw [portless, List.isEmpty_nil] at guard
  simp only [admission, focused, team, path, first, unbegun, Option.isSome_none, Bool.or_false, Bool.false_eq_true, if_false,
    (privFault_eq_none_iff _).2 issues, rightFront_iff.1 front, legal, plainCtx_eq, ports, budget, guard, sound, portless, List.isEmpty_nil,
    if_true]

/-- An instruction that has passed either goes on as it stands, or begins and was held by no check (R247). -/
theorem admission_checked {i : Instr} {s s' : State} {c : Ctx} (passed : admission i s = .ok c s') :
    ((c.t.rests.get? c.f.path).isSome = true ∨ c.p.begun = true → s' = s ∧ c = plainCtx i s c.f c.t c.p) ∧
    (c.t.rests.get? c.f.path = none → c.p.begun = false → MayIssue c.n c.t c.p ∧ RightFront c.n c.t ∧
      c.n.codes (decide (c.p.win ≠ .closed)) = none ∧ (plainCtx i s c.f c.t c.p).portIllegal = false ∧
      c.n.budget c.t.vcount c.t.scount = none ∧ (c.t.guard = [] ∨ (c.n.ban = false ∧ c.n.ports = [])) ∧
      (plainCtx i s c.f c.t c.p).badReg = none ∧ (c.n.ports = [] → s' = s ∧ c = plainCtx i s c.f c.t c.p)) := by
  obtain ⟨focused, team, path, -, info⟩ := admission_ctx passed
  obtain ⟨f, t, p, focused', team', path', passed⟩ := admission_ok passed
  obtain rfl : f = c.f := Option.some.inj (focused'.symm.trans focused)
  obtain rfl : t = c.t := Option.some.inj (team'.symm.trans team)
  obtain rfl : p = c.p := Option.some.inj (path'.symm.trans path)
  rw [info]
  rcases passed with ⟨goesOn, -, same, unmoved⟩ | ⟨begins, privilege, front, legal, ports, budget, guard, sound, pops⟩
  · refine ⟨fun _ => ⟨unmoved, same⟩, fun first unbegun => ?_⟩
    simp [first, unbegun] at goesOn
  · refine ⟨fun goesOn => ?_, fun _ _ => ⟨(privFault_eq_none_iff _).1 privilege, rightFront_iff.2 front, legal, ports, budget,
      guard_allows_iff.1 guard, sound, fun portless => ?_⟩⟩
    · rw [← Bool.or_eq_true, begins] at goesOn
      cases goesOn
    · rcases pops with ⟨-, same, unmoved⟩ | ⟨named, -⟩
      · exact ⟨unmoved, same⟩
      · exact absurd portless named
end Sys2Proof.Machine

namespace Sys2Proof.Proofs
open Sys2Proof.Machine Sys2Proof.Safety

/-- Settles O6: what has passed, by the inversion of the checks; their order, by walking down them, each past those before it. -/
theorem checksComeInOrder : Obligations.ChecksComeInOrder := by
  refine ⟨⟨fun i s s' c passed => ?_, fun i s f t p => admission_passes⟩, fun i s f t p issuer first unbegun => ?_⟩
  · obtain ⟨focused, team, path, state, info⟩ := admission_ctx passed
    exact ⟨⟨focused, team, path⟩, state, info, admission_checked passed⟩
  · obtain ⟨focused, team, path⟩ := issuer
    have checks := admission.eq_def i s
    simp only [focused, team, path, first, unbegun, Option.isSome_none, Bool.or_false, Bool.false_eq_true, if_false, plainCtx_eq] at checks
    refine ⟨fun unprivileged => ?_, fun privileged hidden => ?_, fun issues wrong => ?_, fun issues front => ?_⟩
    · simp only [checks, privFault_of_not_privileged unprivileged]
    · obtain ⟨k, csr, fault⟩ := privFault_of_not_inView privileged hidden (wordOf i)
      exact ⟨k, csr, by simp only [checks, fault]⟩
    · rw [rightFront_iff, Bool.not_eq_false] at wrong
      simp only [checks, (privFault_eq_none_iff _).2 issues, wrong, if_true]
    simp only [(privFault_eq_none_iff _).2 issues, rightFront_iff.1 front, Bool.false_eq_true, if_false] at checks
    refine ⟨fun cause bad => ?_, fun legal => ⟨fun bad => ?_, fun ports => ⟨fun top beyond => ?_, fun budget =>
      ⟨fun guarded banned => ?_, fun allowed code bad => ?_⟩⟩⟩⟩
    · simp only [checks, bad]
    · simp only [checks, legal, bad, if_true]
    · simp only [checks, legal, ports, beyond, Bool.false_eq_true, if_false]
    · have guard : (!t.guard.isEmpty && ((t.info i).ban || !(t.info i).ports.isEmpty)) = true := by simp [guarded, banned]
      simp only [checks, legal, ports, budget, guard, Bool.false_eq_true, if_false, if_true]
    · simp only [checks, legal, ports, budget, guard_allows_iff.2 allowed, bad, Bool.false_eq_true, if_false]
end Sys2Proof.Proofs
end

section
/-! SUPPORT -/
namespace Sys2Proof.Machine

/-- The value test of a push answers with QUEUE_KIND, and only where there is a value to test (R149). -/
theorem kindTrap_cause {body : Ctx → State → Res} {probe : Option (Ctx × State)} {r : TrapReq} (h : kindTrap body probe = some r) :
    r.cause = Cause.queueKind ∧ probe ≠ none := by
  unfold kindTrap at h
  split at h
  · cases h
  · split at h
    · split at h
      · cases h
        exact ⟨‹_›, nofun⟩
      · cases h
    · cases h
end Sys2Proof.Machine

namespace Sys2Proof.Proofs
open Sys2Proof.Machine Sys2Proof.Safety

/-- Settles O7: a word goes through `issue`, which acts on what the shared checks say. -/
theorem everyWordObeysTheChecks : Obligations.EveryWordObeysTheChecks := by
  intro i s f word notNop focused trapped kindTraps
  obtain ⟨body, runs⟩ := exec_eq_issue i word notNop
  have closed {port probe} (given : admission i s = .closed port probe) : kindTrap body probe = none →
      trapped Cause.queueClosedPush (BitVec.ofNat 32 port) 0 := fun value => by
    have ends := (runs s).trans (issue_of_closed given focused)
    rw [value] at ends
    exact ends
  have ruled {probe r} (value : kindTrap body probe = some r) (ends : exec i s = .next (s.trapFocus f r)) : kindTraps :=
    ⟨r, (kindTrap_cause value).1, ends⟩
  refine ⟨fun cause h1 given => (runs s).trans (issue_of_trap given focused),
    fun cause h1 addr given => (runs s).trans (issue_of_ecc given focused),
    fun port given => closed given rfl, fun port probe given => ?_, fun w probe given => ?_⟩
  · cases value : kindTrap body probe with
    | none => exact .inl (closed given value)
    | some r =>
      have ends := (runs s).trans (issue_of_closed given focused)
      rw [value] at ends
      exact .inr (ruled value ends)
  · have ends := (runs s).trans (issue_of_park given focused)
    cases value : kindTrap body probe with
    | none =>
      rw [value] at ends
      obtain ⟨s1, cores, parked⟩ := parkFocus_frame s f w
      exact .inr ⟨s1, ends.trans (congrArg _ parked), cores⟩
    | some r =>
      rw [value] at ends
      exact .inl ⟨ruled value ends, (kindTrap_cause value).2⟩
end Sys2Proof.Proofs
end

section
/-! SUPPORT -/
namespace Sys2Proof.Machine
open Sys2Proof.Safety

/-- A slot that was not held and is not held now has no stall cycles to count (R68). -/
theorem countStall_free (s : State) (tid pid : Nat) (t : Team) {p : Path} (unheld : p.heldFrom = none) :
    s.countStall tid pid t p false = s := by simp [State.countStall, unheld]

/-- A slot that passes every test of its bundle, its spacing and the interlock is offered (R238–R242). -/
theorem lookSlot_issue {s : State} {tid pid : Nat} {t : Team} {p : Path} {b : BitVec 128} {addr k : Nat} {i : Instr}
    (enters : p.entered = true ∨ bundleBad b = false) (filled : bundleWord b k ≠ 0) (untried : s.chargingTrial t = none)
    (flags : p.entered = true ∨ t.flags s.cycle &&& (bundleWord b 0).extractLsb' 0 12 = 0)
    (spaced : p.lastPass = 0 ∨ p.lastPass + distOf (bundleWord b 0) k ≤ s.cycle) (unheld : p.heldFrom = none)
    (blocks : (t.info i).touches t.mode &&& t.pendingWrites s.cycle = 0)
    (room : setfOf (bundleWord b 0) k < 12 → t.flagCount s.cycle (setfOf (bundleWord b 0) k) < 15)
    (word : decode (bundleWord b k) = some i) :
    s.lookSlot tid pid t p b addr k =
      (some (.issue i ⟨tid, pid, addr, setfOf (bundleWord b 0) k, (bundleWord b 0).getLsbD 30, lastSlot b k⟩), s) := by
  have free : t.flagRoom s.cycle (setfOf (bundleWord b 0) k) = true := by
    simp only [Team.flagRoom, Bool.or_eq_true, decide_eq_true_eq]
    by_cases low : setfOf (bundleWord b 0) k < 12
    · exact .inr (room low)
    · exact .inl (Nat.not_lt.1 low)
  have valid : (!p.entered && bundleBad b) = false := by rcases enters with h | h <;> simp [h]
  have clear : ¬ (!p.entered && decide (t.flags s.cycle &&& (bundleWord b 0).extractLsb' 0 12 ≠ 0)) = true := by
    rcases flags with h | h <;> simp [h]
  have due : ¬ (p.lastPass ≠ 0 && decide (s.cycle < p.lastPass + distOf (bundleWord b 0) k)) = true := by
    rcases spaced with h | h <;> simp [h]
  have unblocked : (decide ((t.info i).touches t.mode &&& t.pendingWrites s.cycle ≠ 0) ||
      !t.flagRoom s.cycle (setfOf (bundleWord b 0) k)) = false := by simp [blocks, free]
  unfold State.lookSlot
  rw [if_neg (Bool.eq_false_iff.1 valid), if_neg filled, untried]
  dsimp only
  rw [if_neg clear, if_neg due, Bool.and_false, Bool.false_and, if_neg Bool.false_ne_true, word]
  dsimp only
  rw [unblocked, if_neg Bool.false_ne_true, countStall_free s tid pid t unheld]

/-- The front end whose turn it is has it, whether the agenda or the front ends' own order says so (log 1). -/
theorem nextWork_turn {s s0 : State} {core : Nat} {x : Bool} (turn : TurnOf s core x s0) : s.nextWork = s0.frontTurn core x := by
  rcases turn with ⟨rest, agenda, rfl⟩ | ⟨agenda, house, turn, alarm, front⟩
  · unfold State.nextWork
    dsimp only
    rw [agenda]
  · have fronts : ({ s.markBusy with turn := true } : State).frontsTurn = s0.frontTurn core x := by
      simp [State.frontsTurn, alarm, front]
    unfold State.nextWork
    dsimp only
    split
    all_goals rename_i said
    all_goals rw [agenda] at said
    all_goals cases said
    rw [house]
    dsimp only
    split
    · rename_i on held
      rcases turn with off | idle
      · rw [off] at on
        cases on
      · rw [idle] at held
        cases held
    · exact fronts

theorem step_run {s s' : State} {i : Instr} (work : s.nextWork = .run i s') :
    step s = match exec i s' with
      | .next u => .next (s'.syncIssued u i).dispatchConditionals
      | .fault e => .fault e
      | .refused r => .refused r := by
  simp only [step, work] <;> rfl

/-- With no cause to deliver and no breakpoint hit, a picked instruction is run from its bundle. -/
theorem takeTurn_issue {s : State} {c : Cand} {i : Instr} {f : Focus} {t : Team} {p : Path} (offered : c.turn = .issue i f)
    (team : s.team? c.tid = some t) (path : t.paths.get? c.pid = some p) (none_due : t.deliverTo c.pid = none)
    (unbroken : s.breakHits t p f.addr = []) :
    s.takeTurn c = .run i
      { (if branchClass i then (s.enterBundle c.tid c.pid t p f.addr).syncIfDue c.tid c.pid else s.enterBundle c.tid c.pid t p f.addr)
        with focus := some f } := by
  simp [State.takeTurn, team, path, none_due, offered, unbroken]

/-- Before an instruction that is picked, the paths that yielded have given way (R273). -/
theorem frontTurn_pick {s s1 : State} {core : Nat} {x : Bool} {cs : List Cand} {c : Cand} {i : Instr} {f : Focus}
    (quiet : s.mgmt.alarm = false) (looks : (s.untilFree core x).candidates core x = (cs, s1)) (picked : s1.pick cs = some c)
    (offered : c.turn = .issue i f) :
    s.frontTurn core x = (cs.foldl (fun (s : State) (d : Cand) => s.modPath d.tid d.pid fun p => { p with yielded := false }) s1).takeTurn c := by
  simp [State.frontTurn, quiet, looks, picked, offered]
end Sys2Proof.Machine

namespace Sys2Proof.Proofs
open Sys2Proof.Machine Sys2Proof.Safety

/-- Settles O2: the offer of a slot, then a step by its parts: the front end's turn, its pick, and the turn of what it picks. -/
theorem stepRunsTheDecodedInstruction : Obligations.StepRunsTheDecodedInstruction := by
  refine ⟨fun s tid pid t p b addr k i => lookSlot_issue, ?_⟩
  intro s s0 s1 core x cs c i f t p turn quiet looks picked offered s2 team path none_due unbroken
  exact step_run <| (nextWork_turn turn).trans <| (frontTurn_pick quiet looks picked offered).trans <|
    takeTurn_issue offered team path none_due unbroken
end Sys2Proof.Proofs
end

section
/-! SUPPORT. Links and failing aperture requests (R421, R427), peers (R428, R429), commits (R378) and revocation (R113, R188). -/
namespace Sys2Proof.Machine
open Sys2Proof.Safety

/-! ## Links (R421) -/

section
variable {s : State} {l since : Nat}

theorem linkState_setLink (x : Link) : (s.setLink l x).linkState l = x := Tab.getD_put_self ..

theorem linkRetrain_leads (port : l < 16) (up : s.linkState l = .up) :
    Leads (.linkRetrain l) s ((s.setLink l (.retraining s.ns)).post (.linkRetrainTimeout l)) :=
  event_if_pos (by simp [port, up])

variable (retrains : s.linkState l = .retraining since)
include retrains

theorem linkRecovery_leads : Leads (.linkRecovery l) s (s.setLink l .up) := by
  show execLinkRecovery l s = _
  rw [execLinkRecovery, retrains]
  rfl

theorem linkRetrainTimeout_early (early : s.ns < since + 2000000) : Leads (.linkRetrainTimeout l) s (s.postOnce (.linkRetrainTimeout l)) := by
  show execLinkRetrainTimeout l s = _
  rw [execLinkRetrainTimeout, retrains]
  exact event_if_pos early

/-- Both causes are postings, which leave links and memory as they are. -/
theorem linkRetrainTimeout_late (late : since + 2000000 ≤ s.ns) :
    ∃ t, Leads (.linkRetrainTimeout l) s t ∧ t.linkState l = .down ∧ t.mem = s.mem := by
  let clu := Config.clustersPerDie * (l / 4)
  refine ⟨((s.setLink l .down).postCause clu Cause.linkRetrainTimeout 0 l).postCause clu Cause.linkDown 0 l, ?_, linkState_setLink _, rfl⟩
  show execLinkRetrainTimeout l s = _
  rw [execLinkRetrainTimeout, retrains]
  exact event_if_neg (Nat.not_lt.2 late)
end

/-! ## Failing aperture requests (R427, R428) -/

/-- The cause of a failing fabric request: what the peer's translation raised, where it raises such a cause. -/
theorem fabricCause_eq (peer : Option Byte) [Decidable (∃ c, peer = some c ∧ peerCause c = true)] :
    (if ∃ c, peer = some c ∧ peerCause c = true then peer.getD 0 else Cause.linkDown) = (peer.filter peerCause).getD Cause.linkDown := by
  cases peer with
  | none => simp
  | some c => by_cases raised : peerCause c = true <;> simp [raised, Option.filter]

/-- The requester whose next host request times out: a path of a team, or a card. -/
def requesterOf (team : Option Nat) (id : Nat) : Requester :=
  match team with
  | some tid => .path tid id
  | none => .card id

/-- The next access of one that may make requests is to fail, at once or by its timeout; no other's is. -/
theorem apertureFailures_leads (s : State) (fabric : Bool) (peer : Option Byte) (team : Option Nat) (id : Nat)
    [Decidable (∃ c, peer = some c ∧ peerCause c = true)] :
    let who := requesterOf team id
    let cause := if fabric then (if ∃ c, peer = some c ∧ peerCause c = true then peer.getD 0 else Cause.linkDown) else Cause.pageNotPresent
    (s.mayRequest who = true →
      Leads (.apertureFailure who fabric peer) s (s.modMgmt fun m => { m with fails := m.fails ++ [⟨who, fabric, cause, false, none⟩] }) ∧
      Leads (.completionTimeout team id) s
        (s.modMgmt fun m => { m with fails := m.fails ++ [⟨who, false, Cause.pageNotPresent, true, none⟩] })) ∧
    (s.mayRequest who = false → Leads (.apertureFailure who fabric peer) s s ∧ Leads (.completionTimeout team id) s s) := by
  intro who cause
  have caused : cause = if fabric then (peer.filter peerCause).getD Cause.linkDown else Cause.pageNotPresent := by
    rw [← fabricCause_eq]
  refine ⟨fun may => ⟨?_, event_if_pos may⟩, fun may => ⟨event_if_neg (Bool.eq_false_iff.1 may), event_if_neg (Bool.eq_false_iff.1 may)⟩⟩
  rw [caused]
  exact event_if_pos may

/-- An access whose addresses and links are sound, and that meets a failure at an aperture, fails there. -/
theorem reach_fails {c : Ctx} {s t : State} {as : List (Nat × Nat)} {n : Nat} {rd wr : Bool} {ok : List LaneAcc} {f : ApFail} {a : LaneAcc}
    (aligned : ∀ a ∈ as, a.2 % n = 0 ∧ a.2 < 2 ^ 56) (translated : c.translateLanes wr as s = (ok, [], t))
    (unwatched : c.watchHit as n rd wr = none) (linked : ∀ a ∈ ok, t.linkAt a.pa = none ∨ ∃ l, t.linkAt a.pa = some (l, .up))
    (meets : c.meetsFail t ok n wr = some (f, a)) (k : State → List LaneAcc → Res) :
    c.reach s as n rd wr true true k = c.failed f a wr := by
  unfold Ctx.reach
  rw [addrTest_none c as n aligned]
  simp only [translated, if_true, unwatched]
  split
  · rename_i b rest down
    obtain ⟨listed, isDown⟩ := List.mem_filter.1 (down ▸ List.mem_cons_self : b ∈ ok.filter _)
    rcases linked b listed with e | ⟨l, e⟩ <;> simp [e] at isDown
  · split
    · rename_i retrains
      obtain ⟨b, listed, isRetraining⟩ := List.exists_of_findSome?_eq_some retrains
      rcases linked b listed with e | ⟨l, e⟩ <;> simp [e] at isRetraining
    · rw [meets]

section
variable {d x : Code} {z : BitVec 2} {o : BitVec 6} {s s' t : State} {c : Ctx} {ok : List LaneAcc} {f : ApFail} {a : LaneAcc}
  (h : admission (.ld d x z o) s = .ok c s')
  (aligned : ∀ a ∈ c.addrs x (o.toInt * c.size z), a.2 % c.size z = 0 ∧ a.2 < 2 ^ 56)
  (translated : c.translateLanes false (c.addrs x (o.toInt * c.size z)) s' = (ok, [], t))
  (unwatched : c.watchHit (c.addrs x (o.toInt * c.size z)) (c.size z) true false = none)
  (linked : ∀ a ∈ ok, t.linkAt a.pa = none ∨ ∃ l, t.linkAt a.pa = some (l, .up))
  (meets : c.meetsFail t ok (c.size z) false = some (f, a))
include h aligned translated unwatched linked meets

/-- A load that meets a failure does to the state it issued in what the failure says. -/
theorem exec_ld_fails : exec (.ld d x z o) s = .next (c.conclude (c.failed f a false)) := by
  rw [exec_of_ok h rfl, Ctx.plainLoad, reach_fails aligned translated unwatched linked meets]

theorem ld_faults (due : s.failDue f = true) : exec (.ld d x z o) s = .next
    { (s.metFail (.path c.tid c.pid) f.cause).faultPark c.tid c.pid f.cause false a.va 0 (some (maskOf [a.lane])) with focus := none } := by
  obtain ⟨-, -, -, issued, -⟩ := admission_ctx h
  rw [exec_ld_fails h aligned translated unwatched linked meets, Ctx.failed, issued, if_pos due, Ctx.conclude, issued]

theorem ld_waits (undue : s.failDue f = false) : Parks (.ld d x z o) s c (s.sendFail f) (.completion (s.failTime f)) := by
  obtain ⟨-, -, -, issued, -⟩ := admission_ctx h
  rw [Parks, exec_ld_fails h aligned translated unwatched linked meets, Ctx.failed, issued, if_neg (Bool.eq_false_iff.1 undue), Ctx.conclude]
end

/-! ## Requests of a peer (R428, R429, R439) -/

/-- The device as a peer's request reaches it: awake, its fabric in use now. -/
def State.reached (s : State) : State := s.wake.modMgmt fun m => { m with lastFabric := s.ns }

/-- A peer's operation at its bank, as an agent of its port's die makes it. -/
def State.peerBank (s : State) (port ctx : Nat) (r : BankReq) (lanes : List BankLane) : BankReq :=
  { r with id := s.seq, agent := .die (port / 4), ctx := ctx, scope := Scope.package, lanes := lanes, graph := false,
           stamp := (s.die (port / 4)).clock, ret := none, peer := some port }

section
variable {s s1 : State} {port ctx : Nat}

/-- A peer's request over a link that is not up is not served. -/
theorem fabricRequest_unserved (down : s.linkState port ≠ .up) {r : PeerReq} (request : ∀ ids, r ≠ .acknowledge ids) :
    Leads (.fabricRequest port r) s s := by
  show execFabricRequest port r s = _
  simp only [execFabricRequest, down, ne_eq, not_false_eq_true, if_true]
  exact congrArg _ (ite_self s)

variable (onPort : port < 16) (within : ctx < 64)
include onPort

/-- An acknowledgement looks at the state `t` in which what can be performed is, and every die has applied what it can. -/
theorem exec_fabricAcknowledge {t : State} (settled : (List.range Config.dies).foldl State.applyDie s.drainAll = t) (ids : List Nat) :
    exec (.fabricRequest port (.acknowledge ids)) s = event (
      if (ids.any t.writeOpen || t.unapplied (port / 4)) = true then t.post (.fabricRequest port (.acknowledge ids))
      else (t.modMgmt fun m =>
        { m with inbound := m.inbound.put port ((m.inbound.getD port []).filter fun i => !ids.contains i) }).answer port .ack) := by
  show execFabricRequest port (.acknowledge ids) s = _
  simp [execFabricRequest, PeerReq.ctx, Nat.not_le.2 onPort, settled]

theorem fabricAcknowledge_waits {t : State} (settled : (List.range Config.dies).foldl State.applyDie s.drainAll = t) {ids : List Nat}
    (waits : ids.any t.writeOpen = true ∨ t.unapplied (port / 4) = true) :
    Leads (.fabricRequest port (.acknowledge ids)) s (t.post (.fabricRequest port (.acknowledge ids))) :=
  (exec_fabricAcknowledge onPort settled ids).trans (event_if_pos (by simpa using waits))

theorem fabricAcknowledge_answers {t : State} (settled : (List.range Config.dies).foldl State.applyDie s.drainAll = t) {ids : List Nat}
    (performed : ids.any t.writeOpen = false) (applied : t.unapplied (port / 4) = false) : ∃ u,
      Leads (.fabricRequest port (.acknowledge ids)) s u ∧ u.mgmt.answers = (port, .ack) :: t.mgmt.answers ∧ u.mem = t.mem :=
  ⟨_, (exec_fabricAcknowledge onPort settled ids).trans (event_if_neg (by simp [performed, applied])), rfl, rfl⟩

variable (up : s.linkState port = .up)
include within up

theorem exec_fabricRead (va len : Nat) :
    exec (.fabricRequest port (.read ctx va len)) s = .next (s.reached.peerRead port ctx va len) := by
  show execFabricRequest port (.read ctx va len) s = _
  simp [execFabricRequest, event, PeerReq.ctx, Nat.not_le.2 onPort, Nat.not_le.2 within, up, State.reached]

theorem exec_fabricWrite (va : Nat) (bs : List Byte) :
    exec (.fabricRequest port (.write ctx va bs)) s = .next (s.reached.peerWrite port ctx va bs) := by
  show execFabricRequest port (.write ctx va bs) s = _
  simp [execFabricRequest, event, PeerReq.ctx, Nat.not_le.2 onPort, Nat.not_le.2 within, up, State.reached]

theorem exec_fabricAtomic (r : BankReq) : exec (.fabricRequest port (.atomic ctx r)) s = event (
    match s.reached.peerLanes ctx r.lanes with
    | (.inr cause, s1) => s1.answer port (.fault cause)
    | (.inl ls, s1) =>
      if goodBank (s1.peerBank port ctx r ls) then ({ s1 with seq := s1.seq + 1 } : State).homeBank (s1.peerBank port ctx r ls)
      else { s1 with seq := s1.seq + 1 }) := by
  show execFabricRequest port (.atomic ctx r) s = _
  simp only [execFabricRequest, PeerReq.ctx, Nat.not_le.2 onPort, Nat.not_le.2 within, up]
  rfl

theorem fabricAtomic_faults {r : BankReq} {cause : Byte} (fault : s.reached.peerLanes ctx r.lanes = (.inr cause, s1)) :
    Leads (.fabricRequest port (.atomic ctx r)) s (s1.answer port (.fault cause)) := by
  rw [Leads, exec_fabricAtomic onPort within up, fault]
  rfl

theorem fabricAtomic_performs {r : BankReq} {ls : List BankLane} (translated : s.reached.peerLanes ctx r.lanes = (.inl ls, s1))
    (good : goodBank (s1.peerBank port ctx r ls) = true) : Leads (.fabricRequest port (.atomic ctx r)) s
      (({ s1 with seq := s1.seq + 1 } : State).homeBank (s1.peerBank port ctx r ls)) := by
  rw [Leads, exec_fabricAtomic onPort within up, translated]
  exact event_if_pos good

theorem fabricRead_faults {va len : Nat} {cause : Byte}
    (fault : s.reached.peerPieces ctx false (pagePieces (len / 65536 + 2) va len) = (.inr cause, s1)) :
    Leads (.fabricRequest port (.read ctx va len)) s (s1.answer port (.fault cause)) := by
  rw [Leads, exec_fabricRead onPort within up, State.peerRead, fault]

/-- A read is answered once the lines' homes hold what they are to give. -/
theorem fabricRead_answers {va len : Nat} {ps : List (Nat × Nat)}
    (translated : s.reached.peerPieces ctx false (pagePieces (len / 65536 + 2) va len) = (.inl ps, s1)) : ∃ t : State,
    Leads (.fabricRequest port (.read ctx va len)) s (t.answer port (if ∃ p ∈ ps, t.badAt p.1 p.2 = true then .fault Cause.eccUncorrectedMem
      else .data (ps.flatMap fun (p : Nat × Nat) => readRun t.homeByte p.1 p.2))) := by
  refine ⟨(ps.flatMap fun (p : Nat × Nat) => linesOf p.1 p.2).foldl (fun s l => s.engineLine ctx l) s1, ?_⟩
  rw [Leads, exec_fabricRead onPort within up, State.peerRead, translated]
  simp only [List.any_eq_true]
  split <;> rfl

theorem fabricWrite_faults {va : Nat} {bs : List Byte} {cause : Byte}
    (fault : s.reached.peerPieces ctx true (pagePieces (bs.length / 65536 + 2) va bs.length) = (.inr cause, s1)) :
    Leads (.fabricRequest port (.write ctx va bs)) s (s1.answer port (.fault cause)) := by
  rw [Leads, exec_fabricWrite onPort within up, State.peerWrite, fault]

/-- A write behind no held one of its port is an engine's write, to be acknowledged. -/
theorem fabricWrite_performs {va : Nat} {bs : List Byte} {ps : List (Nat × Nat)} {ids : List Nat} {s2 : State}
    (translated : s.reached.peerPieces ctx true (pagePieces (bs.length / 65536 + 2) va bs.length) = (.inl ps, s1))
    (free : s1.inboundHeld port = none)
    (written : s1.engineWrite (port / 4) ctx ((ps.flatMap fun (p : Nat × Nat) => (List.range p.2).map (p.1 + ·)).zip bs) = (ids, s2)) :
    ∃ t, Leads (.fabricRequest port (.write ctx va bs)) s t ∧ t.mem = s2.mem ∧ .fabricRequest port (.acknowledge ids) ∈ t.pending := by
  refine ⟨(s2.modMgmt fun m => { m with inbound := m.inbound.put port (m.inbound.getD port [] ++ ids) }).post
    (.fabricRequest port (.acknowledge ids)), ?_, rfl, List.mem_append_right _ (List.mem_singleton_self _)⟩
  rw [Leads, exec_fabricWrite onPort within up, State.peerWrite, translated]
  simp only [free, State.outsideWrite, written]
end

/-! ## Commits (R113, R378) -/

/-- An entry at another key stays. -/
theorem Tab.mem_put_of_ne {α : Type} {t : Tab α} {k : Nat} {a : α} {p : Nat × α} (listed : p ∈ t) (other : p.1 ≠ k) : p ∈ t.put k a := by
  induction t with
  | nil => cases listed
  | cons q t ih =>
    obtain ⟨j, b⟩ := q
    rw [Tab.put]
    split
    · rename_i same
      rcases List.mem_cons.1 listed with rfl | listed
      · exact absurd same other
      · exact List.mem_cons_of_mem _ listed
    · split
      · exact List.mem_cons_of_mem _ listed
      · rcases List.mem_cons.1 listed with rfl | listed
        · exact List.mem_cons_self
        · exact List.mem_cons_of_mem _ (ih listed)

theorem heldOn_isSome_iff {s : State} {line : Nat} : (s.heldOn line).isSome = true ↔ ∃ p ∈ s.held, p.2.line = line := by
  simp [State.heldOn]

theorem heldOn_eq_some {s : State} {line k : Nat} {h : Held} (found : s.heldOn line = some (k, h)) : (k, h) ∈ s.held ∧ h.line = line :=
  ⟨List.mem_of_find?_eq_some found, by simpa using List.find?_some found⟩

/-- A line that nothing holds and whose watches are not hit is reserved for the commit. -/
theorem reserve_free {s : State} {tid line : Nat} {bs : List (Nat × Byte)} (free : s.heldOn line = none)
    (unwatched : s.watchHits (bs.map (·.1)) = []) : s.reserve tid line bs =
      { s with held := s.held.put s.seq ⟨line, .commitGroup tid, [], []⟩, seq := s.seq + 1 } := by
  rw [State.reserve, free, unwatched]
  rfl

/-- The commit's own hold of a line is not made again. -/
theorem reserve_own {s : State} {tid line k : Nat} {h : Held} (bs : List (Nat × Byte)) (held : s.heldOn line = some (k, h))
    (own : isCommit tid h.req = true) : s.reserve tid line bs = s := by
  simp [State.reserve, held, own]

/-- On the way to a commit from `s`: reservations are all that has been made, and those of the commit's lines are its own, of
numbers given out, and wait for nothing. -/
structure Reserving (tid : Nat) (lines : List Nat) (s t : State) : Prop where
  frame : t = { s with held := t.held, seq := t.seq }
  own : ∀ p ∈ t.held, p.2.line ∈ lines → p.1 < t.seq ∧ isCommit tid p.2.req = true ∧ p.2.objs = []

section
variable {tid : Nat} {lines : List Nat} {s t : State}

theorem Reserving.begin (free : ∀ line ∈ lines, s.heldOn line = none) : Reserving tid lines s s where
  frame := rfl
  own p listed mine := absurd (heldOn_isSome_iff.2 ⟨p, listed, rfl⟩) (by simp [free _ mine])

theorem Reserving.watchHits (h : Reserving tid lines s t) (addrs : List Nat) : t.watchHits addrs = s.watchHits addrs := by
  rw [h.frame]; rfl

/-- One more line, which stays reserved with those before it. -/
theorem Reserving.reserve (h : Reserving tid lines s t) {line : Nat} {bs : List (Nat × Byte)} (mine : line ∈ lines)
    (unwatched : s.watchHits (bs.map (·.1)) = []) : Reserving tid lines s (t.reserve tid line bs) ∧
      ((t.reserve tid line bs).heldOn line).isSome = true ∧
      ∀ l ∈ lines, (t.heldOn l).isSome = true → ((t.reserve tid line bs).heldOn l).isSome = true := by
  cases found : t.heldOn line with
  | some p =>
    obtain ⟨listed, onLine⟩ := heldOn_eq_some found
    rw [reserve_own bs found (h.own p listed (onLine ▸ mine)).2.1]
    exact ⟨h, by rw [found]; rfl, fun _ _ held => held⟩
  | none =>
    rw [reserve_free found ((h.watchHits _).trans unwatched)]
    refine ⟨⟨by rw [h.frame], fun p listed ours => ?_⟩, ?_, fun l ours held => ?_⟩
    · rcases Tab.mem_put listed with rfl | listed
      · exact ⟨Nat.lt_succ_self _, by simp [isCommit], rfl⟩
      · obtain ⟨given, own⟩ := h.own p listed ours
        exact ⟨Nat.lt_succ_of_lt given, own⟩
    · exact heldOn_isSome_iff.2 ⟨_, Tab.mem_of_get? (Tab.get?_put_self ..), rfl⟩
    · obtain ⟨p, listed, rfl⟩ := heldOn_isSome_iff.1 held
      exact heldOn_isSome_iff.2 ⟨p, Tab.mem_put_of_ne listed (Nat.ne_of_lt (h.own p listed ours).1), rfl⟩

theorem Reserving.foldl {ls : List (Nat × List (Nat × Byte))} (h : Reserving tid lines s t)
    (mine : ∀ p ∈ ls, p.1 ∈ lines ∧ s.watchHits (p.2.map (·.1)) = []) :
    let u := ls.foldl (fun s p => s.reserve tid p.1 p.2) t
    Reserving tid lines s u ∧ (∀ p ∈ ls, (u.heldOn p.1).isSome = true) ∧
      ∀ l ∈ lines, (t.heldOn l).isSome = true → (u.heldOn l).isSome = true := by
  induction ls generalizing t with
  | nil => exact ⟨h, by simp, fun _ _ held => held⟩
  | cons p ls ih =>
    obtain ⟨ours, unwatched⟩ := mine p List.mem_cons_self
    obtain ⟨step, now, before⟩ := h.reserve ours unwatched
    obtain ⟨rest, later, kept⟩ := ih step fun q listed => mine q (List.mem_cons_of_mem _ listed)
    exact ⟨rest, List.forall_mem_cons.2 ⟨kept _ ours now, later⟩, fun l listed held => kept l listed (before l listed held)⟩

/-- A line that the commit has reserved is its own, and waits for nothing. -/
theorem Reserving.ready (h : Reserving tid lines s t) {line : Nat} (mine : line ∈ lines) (held : (t.heldOn line).isSome = true) :
    ∃ k x, t.heldOn line = some (k, x) ∧ isCommit tid x.req = true ∧ t.heldFree x = true := by
  obtain ⟨⟨k, x⟩, found⟩ := Option.isSome_iff_exists.1 held
  obtain ⟨listed, onLine⟩ := heldOn_eq_some found
  obtain ⟨-, own, (alone : x.objs = [])⟩ := h.own (k, x) listed (onLine ▸ mine)
  exact ⟨k, x, found, own, by simp only [State.heldFree, alone, List.all_nil]⟩
end

/-- With every line free and no watch hit, a commit reserves all its lines and is performed, once its posted stores have room (R419). -/
theorem commitGroup_performs {s s1 : State} {tid pid : Nat} {u : Team} (team : s.team? tid = some u) (commits : u.committing = some pid)
    (cleared : s.clearLines u.core (linePieces u.gbytes) = s1)
    (free : ∀ p ∈ linePieces u.gbytes, s1.heldOn p.1 = none ∧ s1.watchHits (p.2.map (·.1)) = [])
    (room : (s1.core u.core).posted.length + u.postedLines.length ≤ 256) : Leads (.commitGroup tid) s
      (((linePieces u.gbytes).foldl (fun s p => s.reserve tid p.1 p.2) s1).performCommit tid pid u) := by
  let lines := (linePieces u.gbytes).map (·.1)
  have lined : ∀ p ∈ linePieces u.gbytes, p.1 ∈ lines := fun p listed => List.mem_map_of_mem listed
  have begins : Reserving tid lines s1 s1 := .begin fun line mine => by
    obtain ⟨p, listed, rfl⟩ := List.mem_map.1 mine
    exact (free p listed).1
  obtain ⟨reserved, held, -⟩ := begins.foldl fun p listed => ⟨lined p listed, (free p listed).2⟩
  have all : s.reserveAll u tid = (linePieces u.gbytes).foldl (fun s p => s.reserve tid p.1 p.2) s1 := by rw [← cleared]; rfl
  rw [← all] at reserved held ⊢
  have cores : (s.reserveAll u tid).core u.core = s1.core u.core := by rw [reserved.frame]; rfl
  show event (s.runCommit tid) = _
  rw [State.runCommit, team]
  dsimp only
  rw [commits]
  dsimp only
  rw [if_pos, if_neg]
  · rfl
  · rw [cores]; exact Nat.not_lt.2 room
  · refine List.all_eq_true.2 fun p listed => ?_
    obtain ⟨k, x, found, own, ready⟩ := reserved.ready (lined p listed) (held p listed)
    simp only [found, own, ready, Bool.and_self]

/-! ## Revocation (R188) -/

theorem revocation_leads {s : State} {obj : Nat} (die : Nat) {q : Revoke} {o : Obj} (found : s.revokes.get? obj = some q)
    (undone : q.done = false) (fresh : q.cores = []) (listed : s.objs.get? obj = some o) (holders : s.holderCores obj ≠ []) :
    ∃ t, Leads (.revocation obj die) s t ∧ (∃ o', t.objs.get? obj = some o' ∧ o'.armed = false) ∧
      ∀ c ∈ s.holderCores obj, .coreRevocation obj c ∈ t.pending := by
  let marked : State := { s with objs := s.objs.modify obj fun o => { o with armed := false },
                                 revokes := s.revokes.modify obj fun r => { r with cores := s.holderCores obj } }
  refine ⟨marked.postAll ((s.holderCores obj).map fun c => .coreRevocation obj c), ?_, ⟨{ o with armed := false }, ?_, rfl⟩,
    fun c holds => List.mem_append_right _ (List.mem_map_of_mem holds)⟩
  · show execRevocation obj die s = _
    have asked : (s.holderCores obj).isEmpty = false := by simpa using holders
    simp only [execRevocation, event, found, undone, fresh, asked, List.isEmpty_nil, Bool.not_true, Bool.false_eq_true, if_false]
    rfl
  · exact (Tab.get?_modify ..).trans (by rw [if_pos rfl, listed]; rfl)

theorem coreRevocation_leads {s : State} {obj core : Nat} {q : Revoke} (found : s.revokes.get? obj = some q) (asked : core ∈ q.cores) :
    let mine := (s.teams.filter fun p => p.2.core = core && p.2.place = .resident && p.2.guard.any fun g => g.obj = obj).map (·.1)
    let s2 := mine.foldl (fun s t => s.abortTeam t Cause.assumeRevoked obj true (some obj)) s
    let s3 : State := { s2 with revokes := s2.revokes.modify obj fun r => { r with cores := q.cores.erase core } }
    Leads (.coreRevocation obj core) s (if (q.cores.erase core).isEmpty then s3.revokeAcked obj else s3) := by
  intro mine s2 s3
  show execCoreRevocation obj core s = _
  rw [execCoreRevocation, found]
  exact event_if_neg (by simp [asked])

/-- A request that is free of every revocation is performed; those it waited for are over. -/
theorem heldRequestRelease_leads {s t : State} {k : Nat} {h : Held} (found : s.held.get? k = some h) (free : s.heldFree h = true)
    (alone : h.behind = []) (runs : ({ s with held := s.held.del k } : State).runRequest h.req = t)
    (plain : ∀ tid, h.req ≠ .commitGroup tid) (finished : ∀ o ∈ h.objs, t.revokes.get? o = none) : Leads (.heldRequestRelease k) s t := by
  show execHeldRequestRelease k s = _
  rw [execHeldRequestRelease, found]
  simp only [free, alone, runs, event, List.foldl_nil, Bool.not_true, Bool.false_eq_true, if_false]
  exact congrArg _ (List.foldlRecOn (motive := fun u => u = t) _ _ rfl fun u same o listed => by rw [same, finished o listed])

theorem endRevoke_teams (s : State) (obj : Nat) : (s.endRevoke obj).teams = s.teams := by
  unfold State.endRevoke
  split
  · rfl
  · split
    · rw [freeObject_eq]
    · rfl

/-- A path that waits for step 5 of an object's revocation goes on. -/
def Path.released (obj now : Nat) (q : Path) : Path :=
  if q.st = .parked (.release obj) then { q with st := .ready, since := now } else q
/-- A team of a core whose paths fall back. -/
def Team.released (obj core now : Nat) (t : Team) : Team :=
  if t.core = core then { t with paths := t.paths.map fun q => (q.1, q.2.released obj now) } else t

theorem fallbackRelease_teams (s : State) (obj core : Nat) : ∃ t, Leads (.fallbackRelease obj core) s t ∧
    t.teams = s.teams.map fun p => (p.1, p.2.released obj core s.cycle) := by
  refine ⟨_, rfl, ?_⟩
  dsimp only
  split
  · split
    · exact endRevoke_teams ..
    · rfl
  · rfl

theorem fallbackRelease_leads (s : State) (obj core : Nat) : ∃ t, Leads (.fallbackRelease obj core) s t ∧
    ∀ i u p q, s.team? i = some u → u.core = core → u.paths.get? p = some q → q.st = .parked (.release obj) →
      ∀ u' q', t.team? i = some u' → u'.paths.get? p = some q' → q'.st = .ready := by
  obtain ⟨t, leads, teams⟩ := fallbackRelease_teams s obj core
  refine ⟨t, leads, fun i u p q team onCore path waits u' q' team' path' => ?_⟩
  have after : t.team? i = some (u.released obj core s.cycle) := by
    rw [State.team?, teams, Tab.get?_map, ← State.team?, team, Option.map_some]
  obtain rfl : u.released obj core s.cycle = u' := Option.some.inj (after.symm.trans team')
  rw [Team.released, if_pos onCore, Tab.get?_map, path, Option.map_some] at path'
  obtain rfl := Option.some.inj path'
  rw [Path.released, if_pos waits]
end Sys2Proof.Machine

namespace Sys2Proof.Proofs
open Sys2Proof.Machine Sys2Proof.Safety

/-- Settles O60, event by event. -/
theorem linksAndRevocation : Obligations.LinksAndRevocation := by
  intro s s1 l tid pid obj core k port ctx va len who fabric peer r bs ids
  refine ⟨linkRetrain_leads, fun since retrains =>
      ⟨linkRecovery_leads retrains, linkRetrainTimeout_late retrains, linkRetrainTimeout_early retrains⟩,
    ?_, fun d x z o s' t c ok f a h aligned translated unwatched linked meets =>
      ⟨ld_faults h aligned translated unwatched linked meets, ld_waits h aligned translated unwatched linked meets⟩,
    fun onPort within up => ⟨fun cause => fabricAtomic_faults onPort within up,
      fun ls translated => fabricAtomic_performs onPort within up translated,
      fun cause => fabricRead_faults onPort within up, fun ps => fabricRead_answers onPort within up,
      fun cause => fabricWrite_faults onPort within up, fun ps translated free s2 => fabricWrite_performs onPort within up translated free⟩,
    fun onPort _ => ⟨fabricAcknowledge_waits onPort rfl, fabricAcknowledge_answers onPort rfl⟩,
    fun down => ⟨fabricRequest_unserved down nofun, fabricRequest_unserved down nofun, fabricRequest_unserved down nofun⟩,
    fun u team commits => commitGroup_performs team commits, fun q o => revocation_leads l, fun q => coreRevocation_leads,
    fun h found free alone _ t runs plain finished => heldRequestRelease_leads found free alone runs plain finished,
    fallbackRelease_leads s obj core⟩
  cases who with
  | path t p => exact apertureFailures_leads s fabric peer (some t) p
  | card id => exact apertureFailures_leads s fabric peer none id
end Sys2Proof.Proofs
end

section
/-! SUPPORT. What O10 needs beyond the tables' own lemmas: a canonical table is determined by what its keys read as. -/
namespace Sys2Proof.Machine

/-- A key below every listed one reads as an unlisted key does. -/
theorem Tab.getD_of_lt {α : Type} {t : Tab α} {k : Nat} {d : α} (below : ∀ p ∈ t, k < p.1) : t.getD k d = d := by
  cases found : t.get? k with
  | none => rw [Tab.getD, found]; rfl
  | some a => exact absurd (below _ (Tab.mem_of_get? found)) (Nat.lt_irrefl k)
theorem Tab.getD_cons {α : Type} (t : Tab α) (j k : Nat) (a d : α) : Tab.getD ((j, a) :: t) k d = if j = k then a else t.getD k d := by
  simp only [Tab.getD, Tab.get?]
  split <;> rfl

/-- Of two canonical tables that read the same, neither has a first key below the other's: such a key reads as an unlisted one in the
other table, and as no unlisted one in its own. -/
theorem Tab.first_key_le {α : Type} [DecidableEq α] {d a : α} {j k : Nat} {b : α} {t u : Tab α} (ht : Tab.canonical d ((j, a) :: t) = true)
    (hu : Tab.canonical d ((k, b) :: u) = true) (same : ∀ i, Tab.getD ((j, a) :: t) i d = Tab.getD ((k, b) :: u) i d) : k ≤ j := by
  obtain ⟨listed, -, -⟩ := Tab.canonical_cons ht
  obtain ⟨-, -, above⟩ := Tab.canonical_cons hu
  by_contra! lt
  have unlisted : Tab.getD ((k, b) :: u) j d = d :=
    Tab.getD_of_lt (List.forall_mem_cons.2 ⟨lt, fun p hp => lt.trans (above p hp)⟩)
  rw [← same, Tab.getD_cons, if_pos rfl] at unlisted
  exact listed unlisted

/-- A canonical table that reads everywhere as an empty one is empty. -/
theorem Tab.eq_nil_of_getD {α : Type} [DecidableEq α] {d : α} {t : Tab α} (ht : Tab.canonical d t = true) (same : ∀ i, t.getD i d = d) :
    t = [] := by
  cases t with
  | nil => rfl
  | cons p t =>
    obtain ⟨listed, -, -⟩ := Tab.canonical_cons (k := p.1) ht
    exact absurd ((if_pos rfl).symm.trans ((Tab.getD_cons t p.1 p.1 p.2 d).symm.trans (same p.1))) listed

/-- Canonical tables that read the same at every key are the same table. -/
theorem Tab.eq_of_getD_eq {α : Type} [DecidableEq α] {d : α} {t u : Tab α} (ht : Tab.canonical d t = true) (hu : Tab.canonical d u = true)
    (same : ∀ i, t.getD i d = u.getD i d) : t = u := by
  induction t generalizing u with
  | nil => exact (Tab.eq_nil_of_getD hu fun i => (same i).symm).symm
  | cons p t ih =>
    obtain ⟨j, a⟩ := p
    cases u with
    | nil => exact Tab.eq_nil_of_getD ht same
    | cons q u =>
      obtain ⟨k, b⟩ := q
      obtain rfl : j = k := (Tab.first_key_le hu ht fun i => (same i).symm).antisymm (Tab.first_key_le ht hu same)
      obtain rfl : a = b := by simpa only [Tab.getD_cons, if_pos] using same j
      obtain ⟨-, ht, aboveT⟩ := Tab.canonical_cons ht
      obtain ⟨-, hu, aboveU⟩ := Tab.canonical_cons hu
      refine congrArg _ (ih ht hu fun i => ?_)
      by_cases first : j = i
      · subst first
        rw [Tab.getD_of_lt aboveT, Tab.getD_of_lt aboveU]
      · simpa only [Tab.getD_cons, if_neg first] using same i
end Sys2Proof.Machine

namespace Sys2Proof.Proofs
open Sys2Proof.Machine Sys2Proof.Safety

/-- Settles O10: the laws of a table's store, and that a canonical table is determined by its reads. -/
theorem memoryReadsBack : Obligations.MemoryReadsBack := by
  intro m a b
  refine ⟨?_, fun a' other => ?_, Memory.write_wf m a b, fun m' => Tab.eq_of_getD_eq⟩
  · rw [Memory.read_write, if_pos rfl]
  · rw [Memory.read_write, if_neg other.symm]
end Sys2Proof.Proofs
end

section
/-! SUPPORT. What O9 needs: what the functions of the machine do to memory. A function that writes it does so by `Memory.write`, which keeps
the canonical form (`Memory.write_wf`); a power loss keeps some of its addresses, which does too (`Memory.filter_wf`); every other one leaves
it alone or calls functions that keep it. There is one lemma `f_inv` for
each function `f`, in the order of the model's files; its proof goes through the branches of `f` alone and cites the lemmas of the functions
that `f` calls. The words whose whole meaning is one shared operation need no lemma of their own: they stand in `exec_inv`. -/
namespace Sys2Proof.Machine
variable {s t : State} {c : Ctx}

/-! ### What an answer that holds states keeps -/

/-- The state in which an instruction's answer goes on has canonical memory. -/
def Res.Inv : Res → Prop
  | .done s | .later s _ | .jump s | .park s _ | .final s => Safety.Inv s
  | .trap _ | .fault .. | .abort .. => True
/-- The state that a load's bytes come with has canonical memory. -/
def Fetched.Inv : Fetched → Prop
  | .got s .. => Safety.Inv s
  | .wait _ | .ecc .. => True
/-- The state in which the next work begins has canonical memory. -/
def Work.Inv : Work → Prop
  | .run _ s | .settled s => Safety.Inv s
/-- The next state, where there is one, has canonical memory. -/
def NextInv (o : Host.Outcome State Fault Refusal) : Prop := ∀ t, o = .next t → Safety.Inv t

theorem event_inv (h : Safety.Inv s) : NextInv (event s) := fun _ e => by cases e; exact h

/-! ### Control structures -/

theorem inv_of_mem (e : t.mem = s.mem) (h : Safety.Inv s) : Safety.Inv t := by rw [Safety.Inv, e]; exact h
theorem inv_ite {p : Prop} [Decidable p] (hs : Safety.Inv s) (ht : Safety.Inv t) : Safety.Inv (if p then s else t) := by
  split <;> assumption
theorem inv_getD {o : Option State} (ho : ∀ t, o = some t → Safety.Inv t) (h : Safety.Inv s) : Safety.Inv (o.getD s) := by
  cases o with
  | none => exact h
  | some t => exact ho t rfl
theorem inv_foldl {α : Type} {f : State → α → State} (keeps : ∀ t a, Safety.Inv t → Safety.Inv (f t a)) (l : List α) (h : Safety.Inv s) :
    Safety.Inv (l.foldl f s) := by
  induction l generalizing s with
  | nil => exact h
  | cons a l ih => exact ih (keeps s a h)
theorem inv_foldl_snd {α β : Type} {f : β × State → α → β × State} (keeps : ∀ b t a, Safety.Inv t → Safety.Inv (f (b, t) a).2)
    (l : List α) {b : β} (h : Safety.Inv s) : Safety.Inv (l.foldl f (b, s)).2 := by
  induction l generalizing b s with
  | nil => exact h
  | cons a l ih => exact ih (keeps b s a h)
theorem foldl_bind_none {α β : Type} (f : β → α → Option β) (l : List α) : l.foldl (fun o a => o.bind fun t => f t a) none = none := by
  induction l with
  | nil => rfl
  | cons a l ih => exact ih
theorem inv_foldl_bind {α : Type} {f : State → α → Option State} (keeps : ∀ t a u, Safety.Inv t → f t a = some u → Safety.Inv u)
    (l : List α) (h : Safety.Inv s) (e : l.foldl (fun o a => o.bind fun t => f t a) (some s) = some t) : Safety.Inv t := by
  induction l generalizing s with
  | nil => exact Option.some.inj e ▸ h
  | cons a l ih =>
    rw [List.foldl_cons, Option.bind_some] at e
    cases next : f s a with
    | none => rw [next, foldl_bind_none] at e; cases e
    | some u => exact ih (keeps s a u h next) (next ▸ e)

/-! ### Sys2Proof/Machine/Base.lean -/

theorem State.setCore_inv (h : Safety.Inv s) (n c) : Safety.Inv (s.setCore n c) := h
theorem State.setDie_inv (h : Safety.Inv s) (n d) : Safety.Inv (s.setDie n d) := h
theorem State.setClu_inv (h : Safety.Inv s) (n c) : Safety.Inv (s.setClu n c) := h
theorem State.setCtx_inv (h : Safety.Inv s) (n c) : Safety.Inv (s.setCtx n c) := h
theorem State.setTeam_inv (h : Safety.Inv s) (n t) : Safety.Inv (s.setTeam n t) := h
theorem State.modCore_inv (h : Safety.Inv s) (n f) : Safety.Inv (s.modCore n f) := h
theorem State.modDie_inv (h : Safety.Inv s) (n f) : Safety.Inv (s.modDie n f) := h
theorem State.modClu_inv (h : Safety.Inv s) (n f) : Safety.Inv (s.modClu n f) := h
theorem State.modCtx_inv (h : Safety.Inv s) (n f) : Safety.Inv (s.modCtx n f) := h
theorem State.modTeam_inv (h : Safety.Inv s) (n f) : Safety.Inv (s.modTeam n f) := h
theorem State.modMgmt_inv (h : Safety.Inv s) (f) : Safety.Inv (s.modMgmt f) := h
theorem State.modPath_inv (h : Safety.Inv s) (tid pid f) : Safety.Inv (s.modPath tid pid f) := h
theorem State.modGroup_inv (h : Safety.Inv s) (clu serial f) : Safety.Inv (s.modGroup clu serial f) := h
theorem State.serial_inv (h : Safety.Inv s) : Safety.Inv s.serial.2 := h
theorem State.draw_inv (h : Safety.Inv s) : Safety.Inv s.draw.2 := h
theorem State.post_inv (h : Safety.Inv s) (e) : Safety.Inv (s.post e) := h
theorem State.postAll_inv (h : Safety.Inv s) (es) : Safety.Inv (s.postAll es) := h
theorem State.postOnce_inv (h : Safety.Inv s) (e) : Safety.Inv (s.postOnce e) := by
  grind [State.postOnce, State.post_inv]
theorem State.unpost_inv (h : Safety.Inv s) (e) : Safety.Inv (s.unpost e) := h
theorem State.lwrite_inv (h : Safety.Inv s) (core a bs) : Safety.Inv (s.lwrite core a bs) := State.modCore_inv h ..
theorem State.hwrite_inv (h : Safety.Inv s) (bs) : Safety.Inv (s.hwrite bs) := Memory.writeList_wf bs s.mem h
theorem State.setCtxCsr_inv (h : Safety.Inv s) (die ctx num x) : Safety.Inv (s.setCtxCsr die ctx num x) := h
theorem State.countCtx_inv (h : Safety.Inv s) (die ctx num) : Safety.Inv (s.countCtx die ctx num) := h
theorem State.pmcOf_inv (h : Safety.Inv s) (core event n ctxs) : Safety.Inv (s.pmcOf core event n ctxs) := State.modCore_inv h ..
theorem State.pmc_inv (h : Safety.Inv s) (core event n ctx) : Safety.Inv (s.pmc core event n ctx) := State.pmcOf_inv h ..
theorem State.dpmc_inv (h : Safety.Inv s) (die event n ctxs) : Safety.Inv (s.dpmc die event n ctxs) := State.modDie_inv h ..
theorem State.postJob_inv (h : Safety.Inv s) (die cls w1 w2 w3 team path card) : Safety.Inv (s.postJob die cls w1 w2 w3 team path card) := h
theorem State.postCause_inv (h : Safety.Inv s) (clu cause ctx link) : Safety.Inv (s.postCause clu cause ctx link) := h
theorem State.setLive_inv (h : Safety.Inv s) (pool n) : Safety.Inv (s.setLive pool n) := h

/-! ### Sys2Proof/Machine/Coherence.lean -/

/-- A byte goes to a peer's memory, or is written into the home's (R76, R428). -/
theorem homePutByte_inv (h : Safety.Inv s) (p) : Safety.Inv (s.homePutByte p) := by
  unfold State.homePutByte
  split
  · exact h
  · exact Memory.write_wf s.mem p.1 p.2 h
theorem State.homePut_inv (h : Safety.Inv s) (bs) : Safety.Inv (s.homePut bs) :=
  inv_of_mem (homePut_mem_eq s bs) (inv_foldl (fun _ p ht => homePutByte_inv ht p) bs h)
theorem State.setDir_inv (h : Safety.Inv s) (line e) : Safety.Inv (s.setDir line e) := h
theorem State.modGuest_inv (h : Safety.Inv s) (die line f) : Safety.Inv (s.modGuest die line f) := h
theorem State.raiseClock_inv (h : Safety.Inv s) (d) : Safety.Inv (s.raiseClock d) := h
theorem State.trimSlice_inv (h : Safety.Inv s) (key) : Safety.Inv (s.trimSlice key) := inv_of_mem (copiesOnly_trimSlice ..).mem h
theorem State.trimDie_inv (h : Safety.Inv s) (die) : Safety.Inv (s.trimDie die) := by
  grind [State.trimDie, inv_foldl, State.trimSlice_inv]
theorem State.setL1_inv (h : Safety.Inv s) (core line l) : Safety.Inv (s.setL1 core line l) := h
theorem State.dropL1_inv (h : Safety.Inv s) (core line) : Safety.Inv (s.dropL1 core line) := h
theorem State.settleLine_inv (h : Safety.Inv s) (core line l) : Safety.Inv (s.settleLine core line l) := by
  grind [State.settleLine, State.dropL1_inv, State.setL1_inv]
theorem State.dropWords_inv (h : Safety.Inv s) (core line first count) : Safety.Inv (s.dropWords core line first count) := by
  grind [State.dropWords, State.settleLine_inv]
theorem State.dropSpan_inv (h : Safety.Inv s) (core line first count ctx) : Safety.Inv (s.dropSpan core line first count ctx) :=
  State.dropWords_inv (State.pmc_inv h ..) ..
theorem State.dropDie_inv (h : Safety.Inv s) (die line first count writer ctx) : Safety.Inv (s.dropDie die line first count writer ctx) :=
  inv_foldl (fun _ _ ht => State.dropSpan_inv ht ..) _ h
theorem State.unpin_inv (h : Safety.Inv s) (core line id) : Safety.Inv (s.unpin core line id) := by
  grind [State.unpin, State.settleLine_inv]
theorem State.enterApply_inv (h : Safety.Inv s) (e x) : Safety.Inv (s.enterApply e x) := State.postOnce_inv (State.modDie_inv h ..) ..
theorem State.sendInval_inv (h : Safety.Inv s) (o e line span stamp writer ctx write) :
    Safety.Inv (s.sendInval o e line span stamp writer ctx write) := by
  grind [State.sendInval, State.modDie_inv, State.enterApply_inv]
theorem State.applyInval_inv (h : Safety.Inv s) (e line span writer ctx) : Safety.Inv (s.applyInval e line span writer ctx) :=
  State.modGuest_inv (State.dropDie_inv h ..) ..
theorem State.applyOne_inv (h : Safety.Inv s) (e) {t} (ran : s.applyOne e = some t) : Safety.Inv t := by
  grind [State.applyOne, State.modDie_inv, State.applyInval_inv]
theorem State.applyAll_inv (h : Safety.Inv s) (e fuel) : Safety.Inv (s.applyAll e fuel) := by
  induction fuel generalizing s with
  | zero => exact h
  | succ fuel ih => grind [State.applyAll, State.applyOne_inv]
theorem State.spread_inv (h : Safety.Inv s) (line span o stamp writer ctx write) :
    Safety.Inv (s.spread line span o stamp writer ctx write) := by
  grind [State.spread, inv_foldl, State.dropSpan_inv, State.sendInval_inv]
theorem State.invalidate_inv (h : Safety.Inv s) (line span o stamp writer ctx) :
    Safety.Inv (s.invalidate line span o stamp writer ctx) := by
  grind [State.invalidate, State.spread_inv, State.setDir_inv]
theorem State.request_inv (h : Safety.Inv s) (line ctx) : Safety.Inv (s.request line ctx) := State.dpmc_inv h ..
theorem State.performBytes_inv (h : Safety.Inv s) (line bs stamp o writer ctx) :
    Safety.Inv (s.performBytes line bs stamp o writer ctx) := by
  grind [State.performBytes, Safety.Inv, State.homePut_inv, State.trimSlice_inv, State.invalidate_inv]
theorem State.startRevoke_inv (h : Safety.Inv s) (obj die free) : Safety.Inv (s.startRevoke obj die free) := by
  grind [State.startRevoke, Safety.Inv, State.post_inv, State.dpmc_inv]
theorem State.queueBehind_inv (h : Safety.Inv s) (k x req) : Safety.Inv (s.queueBehind k x req) := h
theorem State.hold_inv (h : Safety.Inv s) (line req objs) : Safety.Inv (s.hold line req objs) := by
  grind [State.hold, Safety.Inv, inv_foldl, State.dpmc_inv, State.serial_inv, State.startRevoke_inv]
theorem State.gate_inv {perform} (h : Safety.Inv s) (hperform : ∀ t, Safety.Inv t → Safety.Inv (perform t)) (line addrs req) :
    Safety.Inv (s.gate line addrs req perform) := by
  grind [State.gate, State.queueBehind_inv, State.hold_inv]
theorem State.openWrite_inv (h : Safety.Inv s) (id die posted) : Safety.Inv (s.openWrite id die posted) := h
theorem State.closeWrite_inv (h : Safety.Inv s) (id) : Safety.Inv (s.closeWrite id) := h
theorem State.performBack_inv (h : Safety.Inv s) (r giveUp) : Safety.Inv (s.performBack r giveUp) := by
  grind [State.performBack, State.performBytes_inv, State.request_inv, State.modGuest_inv, State.setDir_inv, State.closeWrite_inv]
theorem State.homeWriteBack_inv (h : Safety.Inv s) (r giveUp) : Safety.Inv (s.homeWriteBack r giveUp) := by
  grind [State.homeWriteBack, State.gate_inv, State.performBack_inv]
theorem State.finishBacks_inv (h : Safety.Inv s) (line) : Safety.Inv (s.finishBacks line) := by
  grind [State.finishBacks, inv_foldl, State.performBack_inv, State.unpost_inv]
theorem State.ownBacks_inv (h : Safety.Inv s) (core line) : Safety.Inv (s.ownBacks core line) := by
  grind [State.ownBacks, inv_foldl, State.homeWriteBack_inv, State.unpost_inv]
theorem State.publishCore_inv (h : Safety.Inv s) (line n demote) : Safety.Inv (s.publishCore line n demote) := by
  grind [State.publishCore, State.pmc_inv, State.setL1_inv, State.performBytes_inv, State.countCtx_inv]
theorem State.publish_inv (h : Safety.Inv s) (line demote) : Safety.Inv (s.publish line demote) := by
  grind [State.publish, Safety.Inv, inv_foldl, State.finishBacks_inv, State.dpmc_inv, State.publishCore_inv, State.setDir_inv]
theorem State.publishFor_inv (h : Safety.Inv s) (line who scope) : Safety.Inv (s.publishFor line who scope) := by
  grind [State.publishFor, State.publish_inv]
theorem State.replaceOne_inv (h : Safety.Inv s) (core ls) {t} (e : s.replaceOne core ls = some t) : Safety.Inv t := by
  grind [State.replaceOne, State.draw_inv, State.dropL1_inv, State.serial_inv, State.post_inv, State.openWrite_inv]
theorem State.makeRoom_inv (h : Safety.Inv s) (core line) {t} (e : s.makeRoom core line = some t) : Safety.Inv t := by
  grind [State.makeRoom, State.replaceOne_inv]
theorem State.guardRoom_inv (h : Safety.Inv s) (core fuel) : Safety.Inv (s.guardRoom core fuel) := by
  induction fuel generalizing s with
  | zero => exact h
  | succ fuel ih => grind [State.guardRoom, State.replaceOne_inv]
theorem State.takeLine_inv (h : Safety.Inv s) (core line scope ctx) {l t} (e : s.takeLine core line scope ctx = some (l, t)) :
    Safety.Inv t := by
  grind [State.takeLine, State.makeRoom_inv, Option.map_eq_some_iff]
theorem State.installL1_inv (h : Safety.Inv s) (core line words ctx scope rd st) :
    Safety.Inv (s.installL1 core line words ctx scope rd st) := by
  grind [State.installL1, inv_foldl, State.takeLine_inv, State.setL1_inv]
theorem State.recordAt_inv (h : Safety.Inv s) (line x) {t} (e : s.recordAt line x = some t) : Safety.Inv t := by
  grind [State.recordAt, State.setDir_inv, State.trimSlice_inv, Option.map_eq_some_iff]
theorem State.fillGuest_inv (h : Safety.Inv s) (die line ctx need) : Safety.Inv (s.fillGuest die line ctx need) := by
  grind [State.fillGuest, inv_foldl, State.publish_inv, State.request_inv, State.recordAt_inv, State.trimSlice_inv, State.modDie_inv]
theorem State.serveGuest_inv (h : Safety.Inv s) (r ctx need) : Safety.Inv (s.serveGuest r ctx need) := by
  grind [State.serveGuest, State.installL1_inv, State.modGuest_inv]
theorem State.fill_inv (h : Safety.Inv s) (r ctx) {t} (e : s.fill r ctx = some t) : Safety.Inv t := by
  grind [State.fill, State.publishFor_inv, State.request_inv, State.recordAt_inv, State.installL1_inv, State.applyAll_inv,
    State.serveGuest_inv, State.fillGuest_inv]
theorem State.fillWords_inv (h : Safety.Inv s) (core line words scope ctx) {t} (e : s.fillWords core line words scope ctx = some t) :
    Safety.Inv t :=
  inv_foldl_bind (fun _ r _ ht => State.fill_inv ht (mkReq core line r scope) ctx) _ h e
theorem State.sendThrough_inv (h : Safety.Inv s) (core r) : Safety.Inv (s.sendThrough core r) := by
  unfold State.sendThrough
  refine State.post_inv ?_ _
  grind [State.takeLine_inv, State.setL1_inv]
theorem State.askGrant_inv (h : Safety.Inv s) (core line) : Safety.Inv (s.askGrant core line) := by
  grind [State.askGrant, State.postOnce_inv]
theorem State.takeGrant_inv (h : Safety.Inv s) (core line) : Safety.Inv (s.takeGrant core line) := by
  unfold State.takeGrant
  grind [inv_foldl, State.askGrant_inv, State.takeLine_inv, State.post_inv, State.setL1_inv, State.fillWords_inv, State.modCore_inv,
    State.closeWrite_inv]
theorem State.takeWtGrant_inv (h : Safety.Inv s) (core line) : Safety.Inv (s.takeWtGrant core line) := by
  grind [State.takeWtGrant, inv_foldl, State.takeLine_inv, State.post_inv, State.modCore_inv, State.setL1_inv, State.sendThrough_inv]
theorem State.deliverGrants_inv (h : Safety.Inv s) (line to_) : Safety.Inv (s.deliverGrants line to_) := by
  grind [State.deliverGrants, inv_foldl, State.takeGrant_inv, State.unpost_inv, State.askGrant_inv]
theorem State.demote_inv (h : Safety.Inv s) (line) : Safety.Inv (s.demote line) := by
  grind [State.demote, State.publish_inv, State.deliverGrants_inv]
theorem State.freePosted_inv (h : Safety.Inv s) (r) : Safety.Inv (s.freePosted r) := by
  grind [State.freePosted, State.modCore_inv]
theorem State.recordWriter_inv (h : Safety.Inv s) (c r) : Safety.Inv (s.recordWriter c r) := by
  grind [State.recordWriter, State.unpin_inv, State.dropWords_inv, State.trimSlice_inv, State.setDir_inv, State.modGuest_inv]
theorem State.performStore_inv (h : Safety.Inv s) (r) : Safety.Inv (s.performStore r) := by
  grind [State.performStore, State.publishFor_inv, State.request_inv, State.recordWriter_inv, State.performBytes_inv, State.post_inv,
    State.closeWrite_inv]
theorem State.waitForLink_inv (h : Safety.Inv s) (l r) : Safety.Inv (s.waitForLink l r) := by
  grind [State.waitForLink, Safety.Inv]
theorem State.homeStore_inv (h : Safety.Inv s) (r) : Safety.Inv (s.homeStore r) := by
  grind [State.homeStore, State.waitForLink_inv, State.unpin_inv, State.freePosted_inv, State.closeWrite_inv, State.modMgmt_inv,
    State.gate_inv, State.performStore_inv]
theorem State.homeNreq_inv (h : Safety.Inv s) (r) : Safety.Inv (s.homeNreq r) := by
  unfold State.homeNreq
  extract_lets own e x guestOk asked noted
  have asked_inv : Safety.Inv asked := State.request_inv (State.ownBacks_inv h ..) ..
  have noted_inv (t f) (ht : Safety.Inv t) : Safety.Inv (noted t f) := by
    grind [State.modDie_inv, State.trimSlice_inv]
  clear_value noted asked
  split
  · exact State.post_inv (noted_inv _ _ (State.trimSlice_inv (State.setDir_inv asked_inv ..) _)) _
  · refine State.gate_inv asked_inv (fun t ht => State.post_inv (noted_inv _ _ ?_) _) ..
    exact inv_getD (fun _ e => State.recordAt_inv ht _ _ e) ht
theorem State.bankLane_inv (h : Safety.Inv s) (r l) : Safety.Inv (s.bankLane r l).2 := by
  grind [State.bankLane, State.performBytes_inv]
theorem State.bankLanes_inv (h : Safety.Inv s) (r ls) : Safety.Inv (s.bankLanes r ls).2 := by
  induction ls generalizing s with
  | nil => exact h
  | cons l ls ih => grind [State.bankLanes, State.bankLane_inv]
theorem State.failPacket_inv (h : Safety.Inv s) (packet cause) : Safety.Inv (s.failPacket packet cause) := by
  unfold State.failPacket; split <;> exact h
theorem State.graphDecrement_inv (h : Safety.Inv s) (r old) : Safety.Inv (s.graphDecrement r old) := by
  grind [State.graphDecrement, State.setCtx_inv, State.failPacket_inv, State.post_inv, State.serial_inv, State.modCtx_inv]
theorem State.decrementLost_inv (h : Safety.Inv s) (r) : Safety.Inv (s.decrementLost r) := by
  grind [State.decrementLost, State.failPacket_inv, State.setCtx_inv, State.post_inv]
theorem State.returnOld_inv (h : Safety.Inv s) (ret old stamp bad) : Safety.Inv (s.returnOld ret old stamp bad) := by
  unfold State.returnOld; split <;> exact h
theorem State.answer_inv (h : Safety.Inv s) (port a) : Safety.Inv (s.answer port a) := h
theorem State.homeBank_inv (h : Safety.Inv s) (r) : Safety.Inv (s.homeBank r) := by
  grind [State.homeBank, State.closeWrite_inv, State.gate_inv, State.publish_inv, State.request_inv, State.bankLanes_inv,
    State.returnOld_inv, State.answer_inv, State.decrementLost_inv, State.graphDecrement_inv]
theorem State.homeEvict_inv (h : Safety.Inv s) (line) : Safety.Inv (s.homeEvict line) := State.spread_inv (State.demote_inv h ..) ..
theorem State.guestEvict_inv (h : Safety.Inv s) (die line) : Safety.Inv (s.guestEvict die line) := by
  grind [State.guestEvict, inv_foldl, State.finishBacks_inv, State.deliverGrants_inv, State.dpmc_inv, State.publishCore_inv,
    State.modDie_inv, State.dropDie_inv, State.setDir_inv]
theorem State.enterMarker_inv (h : Safety.Inv s) (o e n st count) : Safety.Inv (s.enterMarker o e n st count) := State.enterApply_inv h ..
theorem State.runRequest_inv (h : Safety.Inv s) (e) : Safety.Inv (s.runRequest e) := by
  unfold State.runRequest
  grind [State.homeBank_inv, State.takeWtGrant_inv, State.enterMarker_inv, State.dropSpan_inv, State.homeStore_inv, State.modCore_inv,
    State.takeGrant_inv, State.homeNreq_inv, State.homeWriteBack_inv]
theorem State.drain_inv (h : Safety.Inv s) (p fuel) : Safety.Inv (s.drain p fuel) := by
  induction fuel generalizing s with
  | zero => exact h
  | succ fuel ih => grind [State.drain, State.unpost_inv, State.runRequest_inv]
theorem State.drainOwn_inv (h : Safety.Inv s) (core line) : Safety.Inv (s.drainOwn core line) := State.drain_inv h ..
theorem State.drainDie_inv (h : Safety.Inv s) (d) : Safety.Inv (s.drainDie d) := State.drain_inv h ..
theorem State.runBehind_inv (h : Safety.Inv s) (e) : Safety.Inv (s.runBehind e) := by
  unfold State.runBehind
  grind [State.drain_inv, State.runRequest_inv]
theorem State.coreStore.wait_inv (h : Safety.Inv s) (core ctx scope bs stamp id line) :
    Safety.Inv (State.coreStore.wait core ctx scope bs stamp s id line) :=
  h
theorem State.coreStore_inv (h : Safety.Inv s) (core ctx scope bs posted stamp) :
    Safety.Inv (s.coreStore core ctx scope bs posted stamp).2 := by
  have numbered := State.serial_inv h
  unfold State.coreStore
  generalize s.serial = p at numbered ⊢
  obtain ⟨id, s⟩ := p
  dsimp -zeta only at numbered ⊢
  extract_lets line narrow waits ordered placed r opened
  have opened_inv : Safety.Inv opened := by grind [State.drainOwn_inv, State.openWrite_inv]
  have queued_inv (id line) := State.coreStore.wait_inv opened_inv core ctx scope bs stamp id line
  clear_value opened
  grind [State.post_inv, State.sendThrough_inv, State.fillWords_inv, State.setL1_inv, State.closeWrite_inv]
theorem State.writeBackWords_inv (h : Safety.Inv s) (core line words) : Safety.Inv (s.writeBackWords core line words) := by
  grind [State.writeBackWords, State.serial_inv, State.openWrite_inv, State.setL1_inv, State.post_inv]
theorem State.writeBackLine_inv (h : Safety.Inv s) (core line) : Safety.Inv (s.writeBackLine core line) := State.writeBackWords_inv h ..
theorem State.prepareLoad_inv (h : Safety.Inv s) (core ctx scope pa n) {t} (e : s.prepareLoad core ctx scope pa n = some t) :
    Safety.Inv t := by
  grind [State.prepareLoad, State.drainOwn_inv, State.publish_inv, State.request_inv, State.pmc_inv, State.fillWords_inv]
theorem State.engineRead_inv (h : Safety.Inv s) (ctx pa n) : Safety.Inv (s.engineRead ctx pa n).2 := by
  grind [State.engineRead, State.publish_inv, State.request_inv]
theorem State.engineWrite_inv (h : Safety.Inv s) (die ctx bs) : Safety.Inv (s.engineWrite die ctx bs).2 := by
  grind [State.engineWrite, inv_foldl_snd, State.serial_inv, State.openWrite_inv, State.homeStore_inv]
theorem State.sendMarkers_inv (h : Safety.Inv s) (o) : Safety.Inv (s.sendMarkers o) := by
  grind [State.sendMarkers, inv_foldl, State.post_inv, State.modDie_inv]

/-! ### Sys2Proof/Machine/Translate.lean -/

theorem State.walkFrom_inv (h : Safety.Inv s) (ctx table va level) : Safety.Inv (s.walkFrom ctx table va level).2 := by
  induction level generalizing s table with
  | zero => grind [State.walkFrom, State.engineRead_inv]
  | succ level ih => grind [State.walkFrom, State.engineRead_inv]
theorem State.setPteBits_inv (h : Safety.Inv s) (ctx addr old new) : Safety.Inv (s.setPteBits ctx addr old new) := by
  grind [State.setPteBits, State.serial_inv, State.homeBank_inv]
theorem State.walk_inv (h : Safety.Inv s) (die ctx va write fetch) : Safety.Inv (s.walk die ctx va write fetch).2 := by
  grind [State.walk, State.dpmc_inv, State.walkFrom_inv, State.setPteBits_inv]
theorem State.installTlb_inv (h : Safety.Inv s) (core e) : Safety.Inv (s.installTlb core e) := h
theorem State.apCache_inv (h : Safety.Inv s) (die pa) : Safety.Inv (s.apCache die pa) := by
  grind [State.apCache, State.modDie_inv]
theorem State.finishXlat_inv (h : Safety.Inv s) (die pa scope write) : Safety.Inv (s.finishXlat die pa scope write).2 := by
  grind [State.finishXlat, State.apCache_inv]
theorem State.fwXlat_inv (h : Safety.Inv s) (die va write) : Safety.Inv (s.fwXlat die va write).2 := by
  grind [State.fwXlat, State.finishXlat_inv]
theorem State.translate_inv (h : Safety.Inv s) (core ctx fw va write fetch) : Safety.Inv (s.translate core ctx fw va write fetch).2 := by
  grind [State.translate, State.fwXlat_inv, State.pmc_inv, State.dpmc_inv, State.modCore_inv, State.finishXlat_inv, State.walk_inv,
    State.installTlb_inv]
theorem State.engineXlat_inv (h : Safety.Inv s) (clu ctx va write) : Safety.Inv (s.engineXlat clu ctx va write).2 := by
  grind [State.engineXlat, State.fwXlat_inv, State.finishXlat_inv, State.dpmc_inv, State.walk_inv, State.modClu_inv]
theorem State.frontXlat_inv (h : Safety.Inv s) (ctx va write) : Safety.Inv (s.frontXlat ctx va write).2 := by
  grind [State.frontXlat, State.fwXlat_inv, State.walk_inv, State.finishXlat_inv]
theorem State.cleanRead_inv (h : Safety.Inv s) (ctx pa n) : Safety.Inv (s.cleanRead ctx pa n).2 := by
  grind [State.cleanRead, State.engineRead_inv]
theorem State.frontRead_inv (h : Safety.Inv s) (ctx va n) : Safety.Inv (s.frontRead ctx va n).2 := by
  unfold State.frontRead
  grind [State.frontXlat_inv, State.cleanRead_inv]
theorem State.signalXlat_inv (h : Safety.Inv s) (ctx va write) : Safety.Inv (s.signalXlat ctx va write).2 := by
  grind [State.signalXlat, State.frontXlat_inv]
theorem State.dropTranslations_inv (h : Safety.Inv s) (ctx lo hi) : Safety.Inv (s.dropTranslations ctx lo hi) := by
  grind [State.dropTranslations, Safety.Inv]

/-! ### Sys2Proof/Machine/Trace.lean -/

theorem State.tracePut_inv (h : Safety.Inv s) (die units) : Safety.Inv (s.tracePut die units) := by
  unfold State.tracePut
  refine State.modDie_inv (inv_foldl (fun t u ht => ?_) units h) die _
  extract_lets d at_
  split
  next e =>
    exact State.modDie_inv (by simpa only [e] using State.engineWrite_inv ht die 0 (atAddr (d.traceBase + at_) (natLe 16 u.toNat))) die _
theorem State.traceEmit_inv (h : Safety.Inv s) (die size packet) : Safety.Inv (s.traceEmit die size packet) := by
  grind [State.traceEmit, State.tracePut_inv, State.modDie_inv]
theorem State.traceBm_inv (h : Safety.Inv s) (t pid taken split mask) : Safety.Inv (s.traceBm t pid taken split mask) := by
  grind [State.traceBm, State.traceEmit_inv]
theorem State.traceSync_inv (h : Safety.Inv s) (tid t pid pc mask) : Safety.Inv (s.traceSync tid t pid pc mask) := by
  grind [State.traceSync, State.traceEmit_inv, State.postOnce_inv, State.modPath_inv]
theorem State.syncIfDue_inv (h : Safety.Inv s) (tid pid) : Safety.Inv (s.syncIfDue tid pid) := by
  grind [State.syncIfDue, State.traceSync_inv]

/-! ### Sys2Proof/Machine/Ops.lean -/

theorem State.poolPut_inv (h : Safety.Inv s) (ctx pool off x) : Safety.Inv (s.poolPut ctx pool off x) := State.engineWrite_inv h ..
theorem State.exitRecord_inv (h : Safety.Inv s) (ctx pool cause flags index role faultSum pc serial core inner work) :
    Safety.Inv (s.exitRecord ctx pool cause flags index role faultSum pc serial core inner work) := by
  grind [State.exitRecord, State.poolPut_inv, State.engineWrite_inv]
theorem State.teamExitRecord_inv (h : Safety.Inv s) (t cause terminated pc inner) :
    Safety.Inv (s.teamExitRecord t cause terminated pc inner) := by
  grind [State.teamExitRecord, State.exitRecord_inv]
theorem State.complete_inv (h : Safety.Inv s) (q e) : Safety.Inv (s.complete q e) := h
theorem State.drainAll_inv (h : Safety.Inv s) : Safety.Inv (s.drainAll) := State.drain_inv h ..
theorem State.writeBackCore_inv (h : Safety.Inv s) (core) : Safety.Inv (s.writeBackCore core) := by
  grind [State.writeBackCore, inv_foldl, State.drainOwn_inv, State.writeBackLine_inv]
theorem State.applyDie_inv (h : Safety.Inv s) (die) : Safety.Inv (s.applyDie die) := State.applyAll_inv h ..
theorem State.settleAll_inv (h : Safety.Inv s) : Safety.Inv (s.settleAll) := by
  grind [State.settleAll, inv_foldl, State.drainAll_inv, State.writeBackCore_inv, State.applyDie_inv]
theorem State.signalUpdate_inv (h : Safety.Inv s) (die ctx pa op v) : Safety.Inv (s.signalUpdate die ctx pa op v) :=
  State.homeBank_inv (State.serial_inv h ..) ..
theorem State.signalStore_inv (h : Safety.Inv s) (die ctx pa v) : Safety.Inv (s.signalStore die ctx pa v).2 := by
  grind [State.signalStore, State.serial_inv, State.homeBank_inv, State.openWrite_inv]
theorem State.wake_inv (h : Safety.Inv s) : Safety.Inv (s.wake) := h
theorem State.poolStatus_inv (h : Safety.Inv s) (ctx pool status) : Safety.Inv (s.poolStatus ctx pool status) := by
  grind [State.poolStatus, State.complete_inv, State.postCause_inv]
theorem State.poolComplete_inv (h : Safety.Inv s) (ctx pool) : Safety.Inv (s.poolComplete ctx pool) := by
  grind [State.poolComplete, State.poolStatus_inv, State.signalXlat_inv, State.settleAll_inv, State.signalUpdate_inv, State.postOnce_inv,
    State.modCtx_inv]
theorem State.retryCompletion_inv (h : Safety.Inv s) (ctx pool) : Safety.Inv (s.retryCompletion ctx pool) := by
  grind [State.retryCompletion, State.poolComplete_inv, State.modCtx_inv]
theorem State.nodeShare_inv (h : Safety.Inv s) (ctx src) : Safety.Inv (s.nodeShare ctx src) := by
  unfold State.nodeShare; split <;> exact h
theorem State.recordsEnd_inv (h : Safety.Inv s) (pool srcs) : Safety.Inv (s.recordsEnd pool srcs) := by
  grind [State.recordsEnd, inv_foldl, State.setLive_inv, State.nodeShare_inv, State.poolComplete_inv]
theorem State.barrierComplete_inv (h : Safety.Inv s) (clu serial b) : Safety.Inv (s.barrierComplete clu serial b) := by
  grind [State.barrierComplete, inv_foldl, State.modGroup_inv, State.modTeam_inv]
theorem State.barrierTest_inv (h : Safety.Inv s) (clu serial b) : Safety.Inv (s.barrierTest clu serial b) := by
  grind [State.barrierTest, State.barrierComplete_inv]
theorem State.unstage_inv (h : Safety.Inv s) (clu name) : Safety.Inv (s.unstage clu name) := by
  grind [State.unstage, inv_foldl, State.modCore_inv]
theorem State.freeName_inv (h : Safety.Inv s) (clu name) : Safety.Inv (s.freeName clu name) := by
  grind [State.freeName, State.modClu_inv, State.unstage_inv]
theorem State.endRead_inv (h : Safety.Inv s) (clu name) : Safety.Inv (s.endRead clu name) := State.freeName_inv (State.modClu_inv h ..) ..
theorem State.dropTask_inv (h : Safety.Inv s) (id) : Safety.Inv (s.dropTask id) := by
  grind [State.dropTask, Safety.Inv, inv_foldl, State.endRead_inv]
theorem State.failTask_inv (h : Safety.Inv s) (id cause) : Safety.Inv (s.failTask id cause) := by
  grind [State.failTask, Safety.Inv, State.dropTask_inv, State.post_inv, State.modClu_inv]
theorem State.stopTask_inv (h : Safety.Inv s) (id) : Safety.Inv (s.stopTask id) := by
  grind [State.stopTask, State.dropTask_inv, State.freeName_inv, State.modClu_inv]
theorem State.cancelDefn_inv (h : Safety.Inv s) (clu name) : Safety.Inv (s.cancelDefn clu name) := by
  unfold State.cancelDefn
  grind [Safety.Inv, State.modClu_inv, State.dropTask_inv]
theorem State.dieName_inv (h : Safety.Inv s) (clu name) : Safety.Inv (s.dieName clu name) := by
  grind [State.dieName, inv_foldl, State.cancelDefn_inv, State.failTask_inv, State.modClu_inv, State.freeName_inv]
theorem State.discardProvisional_inv (h : Safety.Inv s) (tid clu) : Safety.Inv (s.discardProvisional tid clu) := by
  grind [State.discardProvisional, Safety.Inv, inv_foldl, State.modClu_inv, State.unstage_inv, State.cancelDefn_inv, State.dropTask_inv]
theorem State.enterOutst_inv (h : Safety.Inv s) (tid setf blocks k) : Safety.Inv (s.enterOutst tid setf blocks k) := by
  grind [State.enterOutst, State.serial_inv, State.post_inv, State.modTeam_inv]
theorem State.bubbles_inv (h : Safety.Inv s) (core n ctx) : Safety.Inv (s.bubbles core n ctx) := by
  grind [State.bubbles, State.pmc_inv, State.modCore_inv]
theorem State.spend_inv (h : Safety.Inv s) (t n reads) : Safety.Inv (s.spend t n reads) := by
  grind [State.spend, Safety.Inv, State.bubbles_inv, State.pmc_inv]
theorem State.endWait_inv (h : Safety.Inv s) (tid pid t p) : Safety.Inv (s.endWait tid pid t p).2 := by
  grind [State.endWait, State.traceSync_inv, State.spend_inv, State.enterOutst_inv]
theorem State.serveClaims_inv (h : Safety.Inv s) (clu serial core fuel) : Safety.Inv (State.serveClaims clu serial core fuel s) := by
  induction fuel generalizing s with
  | zero => exact h
  | succ fuel ih =>
    unfold State.serveClaims
    repeat' split
    all_goals grind [State.modGroup_inv, State.modTeam_inv, State.endWait_inv, State.modPath_inv]
theorem State.servePool_inv (h : Safety.Inv s) (clu serial core) : Safety.Inv (s.servePool clu serial core) := by
  grind [State.servePool, State.serveClaims_inv]
theorem State.wakeQueues_inv (h : Safety.Inv s) (clu ns) : Safety.Inv (s.wakeQueues clu ns) := by
  grind [State.wakeQueues, inv_foldl, State.modClu_inv]
theorem State.freeQueue_inv (h : Safety.Inv s) (clu q) : Safety.Inv (s.freeQueue clu q) := by
  grind [State.freeQueue, Safety.Inv, State.modClu_inv]
theorem State.endGroup_inv (h : Safety.Inv s) (clu serial) : Safety.Inv (s.endGroup clu serial) := by
  grind [State.endGroup, Safety.Inv, inv_foldl, State.teamExitRecord_inv, State.dieName_inv, State.freeQueue_inv, State.modClu_inv,
    State.recordsEnd_inv, State.post_inv]
theorem State.endWoken_inv (h : Safety.Inv s) (clu tid p) : Safety.Inv (s.endWoken clu tid p) := by
  grind [State.endWoken, State.modPath_inv, State.endRead_inv]
theorem State.leavePath_inv (h : Safety.Inv s) (tid pid t p) : Safety.Inv (s.leavePath tid pid t p) := by
  grind [State.leavePath, State.modClu_inv, State.endWoken_inv, State.servePool_inv]
theorem State.leaveLists_inv (h : Safety.Inv s) (tid t) : Safety.Inv (s.leaveLists tid t) := by
  grind [State.leaveLists, inv_foldl, State.endWoken_inv, State.modClu_inv, State.servePool_inv, State.modDie_inv]
theorem State.withdrawCommit_inv (h : Safety.Inv s) (tid) : Safety.Inv (s.withdrawCommit tid) := by
  grind [State.withdrawCommit, Safety.Inv, inv_foldl, State.postOnce_inv]
theorem State.endTeam_inv (h : Safety.Inv s) (tid why) : Safety.Inv (s.endTeam tid why) := by
  grind [State.endTeam, Safety.Inv, inv_foldl, State.teamExitRecord_inv, State.discardProvisional_inv, State.withdrawCommit_inv,
    State.leaveLists_inv, State.wakeQueues_inv, State.modTeam_inv, State.modGroup_inv, State.barrierTest_inv, State.recordsEnd_inv,
    State.endGroup_inv]
theorem State.issueJoins_inv (h : Safety.Inv s) (tid t me r) : Safety.Inv (s.issueJoins tid t me r) :=
  inv_foldl (fun _ _ ht => State.endWait_inv ht ..) _ h
theorem State.mergeJoins_inv (h : Safety.Inv s) (tid me fuel) : Safety.Inv (State.mergeJoins tid me fuel s) := by
  induction fuel generalizing s with
  | zero => exact h
  | succ fuel ih => grind [State.mergeJoins, State.modTeam_inv, State.issueJoins_inv, State.pmc_inv]
theorem State.joinPaths_inv (h : Safety.Inv s) (tid me) : Safety.Inv (s.joinPaths tid me) := State.mergeJoins_inv h ..
theorem State.removeLanes_inv (h : Safety.Inv s) (tid m exited) : Safety.Inv (s.removeLanes tid m exited) := by
  grind [State.removeLanes, State.modTeam_inv, State.recordsEnd_inv, State.endTeam_inv, State.joinPaths_inv]
theorem State.takeTrap_inv (h : Safety.Inv s) (tid pid pc r) : Safety.Inv (s.takeTrap tid pid pc r) := by
  unfold State.takeTrap
  simp only
  repeat' split
  all_goals grind [State.pmc_inv, State.endTeam_inv, State.draw_inv, State.leavePath_inv, State.modTeam_inv]
theorem State.deferTrap_inv (h : Safety.Inv s) (tid d) : Safety.Inv (s.deferTrap tid d) := State.postOnce_inv (State.modTeam_inv h ..) ..
theorem State.faultParked_inv (h : Safety.Inv s) (tid pid cause h1 addr lanes) :
    Safety.Inv (s.faultParked tid pid cause h1 addr lanes) := by
  grind [State.faultParked, State.deferTrap_inv, State.takeTrap_inv]
theorem State.deliverDeferred_inv (h : Safety.Inv s) (tid pid) : Safety.Inv (s.deliverDeferred tid pid) := by
  grind [State.deliverDeferred, State.takeTrap_inv, State.modTeam_inv, State.modPath_inv]
theorem State.sendFail_inv (h : Safety.Inv s) (f) : Safety.Inv (s.sendFail f) := State.modMgmt_inv h ..
theorem State.metFail_inv (h : Safety.Inv s) (who cause) : Safety.Inv (s.metFail who cause) := h
theorem State.faultPark_inv (h : Safety.Inv s) (tid pid cause write va level lanes) :
    Safety.Inv (s.faultPark tid pid cause write va level lanes) := by
  grind [State.faultPark, State.endTeam_inv, State.pmc_inv, State.postJob_inv, State.endWoken_inv, State.modPath_inv]
theorem State.abortTeam_inv (h : Safety.Inv s) (tid cause obj deliver hold) : Safety.Inv (s.abortTeam tid cause obj deliver hold) := by
  unfold State.abortTeam
  split; · exact h
  split; · exact h
  split; · exact h
  exact State.modTeam_inv (State.leaveLists_inv (State.discardProvisional_inv (State.withdrawCommit_inv (State.pmc_inv h ..) _) ..) ..) ..
theorem State.stopReport_inv (h : Safety.Inv s) (die ctx rec_) : Safety.Inv (s.stopReport die ctx rec_) := by
  grind [State.stopReport, State.engineWrite_inv, State.setCtxCsr_inv]
theorem State.haltContext_inv (h : Safety.Inv s) (ctx die except) : Safety.Inv (s.haltContext ctx die except) := by
  unfold State.haltContext
  refine inv_foldl (fun t p ht => ?_) _ ?_
  · grind [State.deferTrap_inv, State.modTeam_inv, State.leaveLists_inv]
  · grind [inv_foldl, State.stopReport_inv]

/-! ### Sys2Proof/Machine/Issue.lean -/

theorem State.popEntry_inv (h : Safety.Inv s) (clu n) : Safety.Inv (s.popEntry clu n).2 := by
  grind [State.popEntry, State.modClu_inv]
theorem State.pushEntry_inv (h : Safety.Inv s) (clu n bs) : Safety.Inv (s.pushEntry clu n bs) := by
  grind [State.pushEntry, State.modClu_inv, State.lwrite_inv]
theorem State.loseFeeds_inv (h : Safety.Inv s) (clu key) : Safety.Inv (s.loseFeeds clu key) := h
theorem State.feedPopped_inv (h : Safety.Inv s) (clu key) : Safety.Inv (s.feedPopped clu key) := by
  grind [State.feedPopped, State.recordsEnd_inv, State.modClu_inv]
theorem State.popOcc_inv (h : Safety.Inv s) (clu n words) : Safety.Inv (s.popOcc clu n words).2 := by
  grind [State.popOcc, inv_foldl_snd, State.popEntry_inv, State.feedPopped_inv]
theorem Ctx.trap_inv (cause h1) : (c.trap cause h1).Inv := trivial
theorem Ctx.trapLanes_inv (cause h1 lanes) : (c.trapLanes cause h1 lanes).Inv := trivial
theorem Ctx.trapMem_inv (cause addr lanes) : (c.trapMem cause addr lanes).Inv := trivial
theorem Ctx.modTeam_inv (h : Safety.Inv s) (f) : Safety.Inv (c.modTeam s f) := h
theorem Ctx.modPath_inv (h : Safety.Inv s) (f) : Safety.Inv (c.modPath s f) := h
theorem Ctx.push_inv (h : Safety.Inv s) (port f) : (c.push s port f).Inv := by
  grind [Ctx.push, inv_foldl, Res.Inv, Ctx.trap_inv, State.pushEntry_inv]
theorem Ctx.put_inv (h : Safety.Inv s) (d wide f) : (c.put s d wide f).Inv := by
  grind [Ctx.put, Res.Inv, Ctx.push_inv, Ctx.modTeam_inv]
theorem Ctx.putP_inv (h : Safety.Inv s) (r f) : Safety.Inv (c.putP s r f) := h
theorem Ctx.takePops_inv (hc : Safety.Inv c.s) : Safety.Inv (c.takePops).2 := by
  grind [Ctx.takePops, inv_foldl_snd, State.modTeam_inv, State.popOcc_inv]
/-- Past the shared checks an instruction begins from a canonical state, and the state that its context remembers is the one it met. -/
theorem admission_inv {i : Instr} {s' : State} (h : Safety.Inv s) (e : admission i s = .ok c s') : Safety.Inv c.s ∧ Safety.Inv s' := by
  refine ⟨(admission_ctx e).2.2.2.1 ▸ h, ?_⟩
  obtain ⟨f, t, p, -, -, -, e⟩ := admission_ok e
  rcases e with ⟨-, -, -, rfl⟩ | ⟨-, -, -, -, -, -, -, -, ⟨-, -, rfl⟩ | ⟨-, -, -, -, -, -, e⟩⟩
  · exact h
  · exact h
  · rw [show s' = _ from congrArg Prod.snd e]
    exact Ctx.takePops_inv h
theorem Ctx.rewritten_inv (h : Safety.Inv s) : Safety.Inv (c.rewritten s) := by
  grind [Ctx.rewritten, inv_foldl, Ctx.modTeam_inv]
theorem Ctx.retire_inv (h : Safety.Inv s) (k jumped) : Safety.Inv (c.retire s k jumped) := by
  grind [Ctx.retire, Safety.Inv, State.spend_inv, Ctx.rewritten_inv, Ctx.modPath_inv, State.enterOutst_inv]
theorem Ctx.parkOn_inv (h : Safety.Inv s) (w) : Safety.Inv (c.parkOn s w) := h
theorem Ctx.conclude_inv {r : Res} (hr : r.Inv) (hc : Safety.Inv c.s) : Safety.Inv (c.conclude r) := by
  cases r <;> grind [Ctx.conclude, Res.Inv, Safety.Inv, Ctx.retire_inv, State.takeTrap_inv, State.metFail_inv, State.faultPark_inv,
    Ctx.parkOn_inv, State.abortTeam_inv]
theorem State.trapFocus_inv (h : Safety.Inv s) (f r) : Safety.Inv (s.trapFocus f r) := State.takeTrap_inv h ..
theorem State.parkFocus_inv (h : Safety.Inv s) (f w) : Safety.Inv (s.parkFocus f w) := by
  grind [State.parkFocus, Safety.Inv, State.pmc_inv, State.modPath_inv]
theorem issue_inv {i : Instr} {body : Ctx → State → Res} (h : Safety.Inv s)
    (keeps : ∀ c t, Safety.Inv c.s → Safety.Inv t → (body c t).Inv) : NextInv (issue i body s) := by
  grind [issue, NextInv, State.trapFocus_inv, State.parkFocus_inv, Ctx.conclude_inv, admission_inv]

/-! ### Sys2Proof/Machine/Ordering.lean -/

theorem State.writeBackDie_inv (h : Safety.Inv s) (die) : Safety.Inv (s.writeBackDie die) :=
  inv_foldl (fun _ _ ht => State.writeBackCore_inv ht ..) _ h
theorem State.flushWrites_inv (h : Safety.Inv s) (tid) : Safety.Inv (s.flushWrites tid) := by
  grind [State.flushWrites, State.applyDie_inv, State.drainDie_inv, State.writeBackDie_inv, State.drainOwn_inv]
theorem State.releaseNow_inv (h : Safety.Inv s) (tid pid) : Safety.Inv (s.releaseNow tid pid) := by
  grind [State.releaseNow, inv_foldl, State.modTeam_inv, State.modMgmt_inv, State.deferTrap_inv, State.sendMarkers_inv,
    State.raiseClock_inv]
theorem Ctx.release_inv {k} (h : Safety.Inv s) (hk : ∀ t, Safety.Inv t → (k t).Inv) (hc : Safety.Inv c.s) (scope) :
    (c.release s scope k).Inv := by
  grind [Ctx.release, Res.Inv, State.flushWrites_inv, State.releaseNow_inv]
theorem Ctx.acquire_inv {k} (h : Safety.Inv s) (hk : ∀ t, Safety.Inv t → (k t).Inv) (hc : Safety.Inv c.s) (st) :
    (c.acquire s st k).Inv := by
  grind [Ctx.acquire, Res.Inv, State.applyDie_inv]
theorem Ctx.fence_inv (h : Safety.Inv s) (hc : Safety.Inv c.s) (k) : (c.fence s k).Inv := by
  grind [Ctx.fence, inv_foldl, Res.Inv, State.drainOwn_inv, Ctx.acquire_inv, State.flushWrites_inv, State.applyDie_inv, Ctx.release_inv]

/-! ### Sys2Proof/Machine/Work.lean -/

theorem State.codeRead_inv (h : Safety.Inv s) (ctx va n) : Safety.Inv (s.codeRead ctx va n).2 := by
  unfold State.codeRead
  grind [State.walk_inv, State.cleanRead_inv]
theorem State.header_inv (h : Safety.Inv s) (ctx entry) : Safety.Inv (s.header ctx entry).2 := by
  grind [State.header, State.codeRead_inv]
theorem State.recordOk_inv (h : Safety.Inv s) (ctx r) : Safety.Inv (s.recordOk ctx r).2 := by
  grind [State.recordOk, State.header_inv]
theorem State.appendRecord_inv (h : Safety.Inv s) (ctx r src) : Safety.Inv (s.appendRecord ctx r src) := by
  grind [State.appendRecord, State.engineWrite_inv, State.poolPut_inv, State.setLive_inv, State.modCtx_inv, State.post_inv]
theorem State.dropHead_inv (h : Safety.Inv s) (ctx pool) : Safety.Inv (s.dropHead ctx pool) := State.modCtx_inv (State.poolPut_inv h ..) ..
theorem State.enqueueLaunch_inv (h : Safety.Inv s) (clu l) : Safety.Inv (s.enqueueLaunch clu l) := h
theorem State.launchForming_inv (h : Safety.Inv s) (id f) : Safety.Inv (s.launchForming id f) := h
theorem State.formRecord_inv (h : Safety.Inv s) (clu ctx pool r src x) : Safety.Inv (s.formRecord clu ctx pool r src x) := by
  grind [State.formRecord, Safety.Inv, State.enqueueLaunch_inv, State.launchForming_inv, State.serial_inv, State.postAll_inv]
theorem execRecordDistribute_inv (h : Safety.Inv s) (ctx pool) : NextInv (execRecordDistribute ctx pool s) :=
  event_inv (by grind [State.retryCompletion_inv, State.post_inv, State.modCtx_inv, State.dropHead_inv, State.header_inv,
    State.recordsEnd_inv, State.formRecord_inv])
theorem execGatherWindowExpiry_inv (h : Safety.Inv s) (id) : NextInv (execGatherWindowExpiry id s) :=
  event_inv (by grind [State.launchForming_inv, State.wake_inv, State.post_inv])
theorem execFeedAppend_inv (h : Safety.Inv s) (ctx pool) : NextInv (execFeedAppend ctx pool s) := by
  refine event_inv ?_
  split; · exact h
  extract_lets +onlyGivenNames entry clu n
  split; · exact State.post_inv h _
  refine inv_ite (State.post_inv h _) (State.modClu_inv ?_ ..)
  exact inv_foldl (fun _ _ ht => State.pushEntry_inv ht ..) _ (State.dropHead_inv h ..)
theorem State.giveLocal_inv (h : Safety.Inv s) (core base len keep) : Safety.Inv (s.giveLocal core base len keep) :=
  State.modCore_inv (State.draw_inv h ..) ..
theorem State.admitGroup_inv (h : Safety.Inv s) (clu l place) : Safety.Inv (s.admitGroup clu l place) := by
  grind [State.admitGroup, inv_foldl, State.giveLocal_inv, State.serial_inv, State.setTeam_inv, State.modClu_inv, State.recordsEnd_inv]

/-! ### Sys2Proof/Machine/Tiers.lean -/

theorem State.setName_inv (h : Safety.Inv s) (clu n x) : Safety.Inv (s.setName clu n x) := h
theorem State.seat_inv (h : Safety.Inv s) (clu name n img places k) {t} (e : s.seat clu name n img places k = some t) : Safety.Inv t := by
  grind [State.seat, State.lwrite_inv, State.homePut_inv, State.setName_inv, State.trimDie_inv]
theorem State.moveTile_inv (h : Safety.Inv s) (clu name wanted) {t} (e : s.moveTile clu name wanted = some t) : Safety.Inv t := by
  grind [State.moveTile, State.draw_inv, State.seat_inv]

/-! ### Sys2Proof/Machine/Save.lean -/

theorem State.settleTeam_inv (h : Safety.Inv s) (tid) : Safety.Inv (s.settleTeam tid) := by
  grind [State.settleTeam, inv_foldl, State.drainOwn_inv, State.modTeam_inv]
theorem State.saveTeam_inv (h : Safety.Inv s) (tid) : Safety.Inv (s.saveTeam tid) := State.modTeam_inv (State.abortTeam_inv h ..) ..
theorem State.drainSave_inv (h : Safety.Inv s) (tid) : Safety.Inv (s.drainSave tid) := by
  grind [State.drainSave, State.settleTeam_inv, State.saveTeam_inv, State.modTeam_inv]
theorem State.modEdf_inv (h : Safety.Inv s) (clu i f) : Safety.Inv (s.modEdf clu i f) := h
theorem State.settleRemain_inv (h : Safety.Inv s) (clu) : Safety.Inv (s.settleRemain clu) := by
  grind [State.settleRemain, State.modClu_inv, State.modEdf_inv]
theorem State.chooseSlice_inv (h : Safety.Inv s) (clu) : Safety.Inv (s.chooseSlice clu) := by
  grind [State.chooseSlice, State.modClu_inv, State.postOnce_inv, State.postJob_inv, State.post_inv]
theorem State.finishTrial_inv (h : Safety.Inv s) (clu abandoned) : Safety.Inv (s.finishTrial clu abandoned) := by
  grind [State.finishTrial, Safety.Inv, State.modClu_inv, State.engineXlat_inv, State.settleAll_inv, State.engineWrite_inv]
theorem State.endSlice_inv (h : Safety.Inv s) (clu) : Safety.Inv (s.endSlice clu) := by
  grind [State.endSlice, Safety.Inv, State.settleRemain_inv, State.finishTrial_inv, State.modEdf_inv, State.modClu_inv]
theorem execGroupAdmission_inv (h : Safety.Inv s) (clu) : NextInv (execGroupAdmission clu s) :=
  event_inv (by grind [State.chooseSlice_inv, State.modClu_inv, State.post_inv, State.admitGroup_inv])
theorem State.writeReserve_inv (h : Safety.Inv s) (ctx clu) : Safety.Inv (s.writeReserve ctx clu).2 := by
  grind [State.writeReserve, State.draw_inv, State.homePut_inv]
theorem State.unspoil_inv (h : Safety.Inv s) (r tids) : Safety.Inv (s.unspoil r tids) := by
  grind [State.unspoil, inv_foldl, State.draw_inv, State.modTeam_inv]
theorem State.reseat_inv (h : Safety.Inv s) (clu name) {t} (e : s.reseat clu name = some t) : Safety.Inv t := by
  grind [State.reseat, State.draw_inv, State.seat_inv]
theorem State.reseatAll_inv (h : Safety.Inv s) (clu i) {t} (e : s.reseatAll clu i = some t) : Safety.Inv t :=
  inv_foldl_bind (fun _ _ _ ht e => State.reseat_inv ht _ _ e) _ (State.modClu_inv h ..) e
theorem State.settleContext_inv (h : Safety.Inv s) (ctx clu) : Safety.Inv (s.settleContext ctx clu).2 := by
  grind [State.settleContext, inv_foldl, State.modTeam_inv, State.settleTeam_inv]
theorem State.saveContext_inv (h : Safety.Inv s) (ctx clu) : Safety.Inv (s.saveContext ctx clu) := by
  grind [State.saveContext, Safety.Inv, inv_foldl, State.stopTask_inv, State.saveTeam_inv, State.writeBackCore_inv, State.writeReserve_inv,
    State.unstage_inv, State.modClu_inv]
theorem State.placeTeam_inv (h : Safety.Inv s) (tid) : Safety.Inv (s.placeTeam tid) := by
  grind [State.placeTeam, State.modTeam_inv]
theorem State.restoreContext_inv (h : Safety.Inv s) (ctx clu) : Safety.Inv (s.restoreContext ctx clu) := by
  unfold State.restoreContext
  split
  · exact h
  · rename_i image seated found
    obtain ⟨i, -, found⟩ := Option.bind_eq_some_iff.1 found
    obtain ⟨t, reseated, same⟩ := Option.map_eq_some_iff.1 found
    have seated_inv : Safety.Inv seated :=
      (Prod.mk.inj same).2 ▸ State.reseatAll_inv (s := { s with images := s.images.del (64 * ctx + clu) }) h clu i reseated
    extract_lets intact stored kept unspoiled formed later emptied queued qs placed resumed tasks cards loads fails reads
    have stored_inv : Safety.Inv stored := inv_foldl (fun _ _ ht => State.modCore_inv ht ..) _ seated_inv
    have kept_inv : Safety.Inv kept := by
      grind [inv_foldl, State.giveLocal_inv]
    have formed_inv : Safety.Inv formed :=
      inv_foldl (fun _ _ ht => by exact ht) _ (State.unspoil_inv kept_inv ..)
    have queued_inv : Safety.Inv queued := inv_foldl (fun _ _ ht => State.enqueueLaunch_inv ht ..) _ (State.modClu_inv formed_inv ..)
    have placed_inv : Safety.Inv placed :=
      inv_foldl (fun _ _ ht => State.placeTeam_inv (State.modTeam_inv ht ..) ..) _ queued_inv
    have tasks_inv : Safety.Inv tasks := inv_foldl (fun _ _ ht => State.post_inv ht ..) _ placed_inv
    have cards_inv : Safety.Inv cards := inv_foldl (fun _ _ ht => by grind [State.post_inv]) _ tasks_inv
    have loads_inv : Safety.Inv loads := inv_foldl (fun _ _ ht => State.post_inv ht ..) _ cards_inv
    have fails_inv : Safety.Inv fails := inv_foldl (fun _ _ ht => by grind [State.post_inv]) _ loads_inv
    exact State.post_inv (inv_foldl (fun _ _ ht => State.post_inv ht ..) _ fails_inv) _
theorem State.sendCall_inv (h : Safety.Inv s) (ctx call) : Safety.Inv (s.sendCall ctx call) := by
  grind [State.sendCall, inv_foldl, State.homePut_inv, State.setCtx_inv]
theorem State.svcSave_inv (h : Safety.Inv s) (tid call) : Safety.Inv (s.svcSave tid call) := by
  grind [State.svcSave, State.settleTeam_inv, State.writeReserve_inv, State.sendCall_inv, State.post_inv, State.modTeam_inv]

/-! ### Sys2Proof/Machine/Control.lean -/

theorem execNop_inv (h : Safety.Inv s) : NextInv (execNop s) := by
  unfold execNop NextInv
  grind [Safety.Inv, State.modPath_inv]
theorem execMode_inv (h : Safety.Inv s) (i) : NextInv (execMode i s) :=
  issue_inv h fun c t hc ht => by grind [Res.Inv, Ctx.modTeam_inv, Ctx.trap_inv]
theorem Ctx.branch_inv (h : Safety.Inv s) (taking target) : (c.branch s taking target).Inv := by
  grind [Ctx.branch, Res.Inv, State.traceBm_inv, Ctx.trap_inv, Ctx.modPath_inv, State.serial_inv, Ctx.modTeam_inv, State.pmc_inv,
    State.traceSync_inv]
theorem Ctx.link_inv (h : Safety.Inv s) (d) : Safety.Inv (c.link s d) := h
theorem execCall_inv (h : Safety.Inv s) (i) : NextInv (execCall i s) :=
  issue_inv h fun c t hc ht => by grind [Res.Inv, Ctx.branch_inv, Ctx.link_inv]
theorem execCallx_inv (h : Safety.Inv s) (d x) : NextInv (execCallx d x s) :=
  issue_inv h fun c t hc ht => by grind [Res.Inv, Ctx.branch_inv, Ctx.link_inv]
theorem execLoop_inv (h : Safety.Inv s) (r i) : NextInv (execLoop r i s) :=
  issue_inv h fun c t hc ht => by grind [Res.Inv, Ctx.branch_inv, Ctx.modTeam_inv]
theorem Ctx.waitHere_inv (h : Safety.Inv s) : Safety.Inv (c.waitHere s) := h
theorem execJoin_inv (h : Safety.Inv s) (j) : NextInv (execJoin j s) :=
  issue_inv h fun c t hc ht => by grind [Res.Inv, State.serial_inv, Ctx.modPath_inv, Ctx.waitHere_inv, State.joinPaths_inv]
theorem execExit_inv (h : Safety.Inv s) : NextInv (execExit s) :=
  issue_inv h fun c t hc ht => by grind [Res.Inv, State.removeLanes_inv, Ctx.modPath_inv]
theorem execYield_inv (h : Safety.Inv s) : NextInv (execYield s) :=
  issue_inv h fun c t hc ht => by grind [Res.Inv, Ctx.modPath_inv, State.post_inv, State.drainSave_inv, Ctx.retire_inv]
theorem execSleep_inv (h : Safety.Inv s) (n) : NextInv (execSleep n s) :=
  issue_inv h fun c t hc ht => by grind [Res.Inv, State.post_inv, Ctx.modPath_inv]
theorem Ctx.barWait_inv (h : Safety.Inv s) (b gen) : (c.barWait s b gen).Inv := by
  grind [Ctx.barWait, Res.Inv, Ctx.modPath_inv, State.applyDie_inv]
theorem Ctx.barArrive_inv {k} (h : Safety.Inv s) (hk : ∀ t a, Safety.Inv t → (k t a).Inv) (hc : Safety.Inv c.s) (b) :
    (c.barArrive s b k).Inv := by
  grind [Ctx.barArrive, Res.Inv, Ctx.release_inv, Ctx.modTeam_inv, State.modGroup_inv, State.barrierTest_inv]
theorem execBar_inv (h : Safety.Inv s) (b) : NextInv (execBar b s) :=
  issue_inv h fun c t hc ht => by grind [Res.Inv, Ctx.trap_inv, Ctx.barWait_inv, Ctx.barArrive_inv]
theorem execBara_inv (h : Safety.Inv s) (b) : NextInv (execBara b s) :=
  issue_inv h fun c t hc ht => by grind [Res.Inv, Ctx.trap_inv, Ctx.barArrive_inv]
theorem execBarw_inv (h : Safety.Inv s) (b) : NextInv (execBarw b s) :=
  issue_inv h fun c t hc ht => by grind [Res.Inv, Ctx.trap_inv, Ctx.barWait_inv, State.applyDie_inv]
theorem execWaitf_inv (h : Safety.Inv s) (x) : NextInv (execWaitf x s) :=
  issue_inv h fun c t hc ht => by grind [Res.Inv, State.applyDie_inv]
theorem execGive_inv (h : Safety.Inv s) (k) : NextInv (execGive k s) :=
  issue_inv h fun c t hc ht => by grind [Res.Inv, Ctx.trap_inv, Ctx.modTeam_inv, State.modGroup_inv, State.servePool_inv]
theorem execClaim_inv (h : Safety.Inv s) (k) : NextInv (execClaim k s) :=
  issue_inv h fun c t hc ht => by grind [Res.Inv, Ctx.trap_inv, Ctx.modTeam_inv, State.modGroup_inv, State.servePool_inv, Ctx.waitHere_inv]
theorem State.badRecord_inv (h : Safety.Inv s) (ctx rs) : Safety.Inv (s.badRecord ctx rs).2 := by
  induction rs generalizing s with
  | nil => exact h
  | cons r rs ih => grind [State.badRecord, State.recordOk_inv]
theorem execSpawn_inv (h : Safety.Inv s) (x) : NextInv (execSpawn x s) :=
  issue_inv h fun c t hc ht => by grind [Res.Inv, inv_foldl, Ctx.trap_inv, State.badRecord_inv, State.appendRecord_inv]
theorem execSvc_inv (h : Safety.Inv s) (n) : NextInv (execSvc n s) :=
  issue_inv h fun c t hc ht => by grind [Res.Inv, Ctx.trap_inv, State.modCtx_inv, State.svcSave_inv]
theorem Ctx.software_inv (h : Safety.Inv s) (cause h1) : (c.software s cause h1).Inv := by
  grind [Ctx.software, Res.Inv]
theorem execTrap_inv (h : Safety.Inv s) (n) : NextInv (execTrap n s) := issue_inv h fun c t hc ht => by grind [Res.Inv, Ctx.software_inv]
theorem execRft_inv (h : Safety.Inv s) : NextInv (execRft s) :=
  issue_inv h fun c t hc ht => by grind [Res.Inv, Ctx.trap_inv, Ctx.modPath_inv, Ctx.retire_inv, State.setTeam_inv]
theorem execPmark_inv (h : Safety.Inv s) (k) : NextInv (execPmark k s) := issue_inv h fun c t hc ht => by grind [Res.Inv, State.modEdf_inv]

/-! ### Sys2Proof/Machine/Integer.lean -/

theorem Ctx.int3_inv (h : Safety.Inv s) (d x y f) : (c.int3 s d x y f).Inv := Ctx.put_inv h ..
theorem Ctx.int2_inv (h : Safety.Inv s) (d x f) : (c.int2 s d x f).Inv := Ctx.put_inv h ..
theorem Ctx.intAcc_inv (h : Safety.Inv s) (d x y f) : (c.intAcc s d x y f).Inv := Ctx.put_inv h ..
theorem Ctx.bits3_inv (h : Safety.Inv s) (d x y f) : (c.bits3 s d x y f).Inv := Ctx.put_inv h ..
theorem execSel_inv (h : Safety.Inv s) (d x p) : NextInv (execSel d x p s) :=
  issue_inv h fun c t hc ht => by grind [Res.Inv, State.draw_inv, Ctx.put_inv, Ctx.modTeam_inv]
theorem Ctx.divide_inv (h : Safety.Inv s) (d x y f) : (c.divide s d x y f).Inv := by
  grind [Ctx.divide, Res.Inv, Ctx.trapLanes_inv, Ctx.int3_inv]

/-! ### Sys2Proof/Machine/Predicate.lean -/

theorem Ctx.compare_inv (h : Safety.Inv s) (p x y r) : (c.compare s p x y r).Inv := Ctx.putP_inv h ..
theorem Ctx.putMask_inv (h : Safety.Inv s) (r m) : (c.putMask s r m).Inv := Ctx.modTeam_inv h ..
theorem execPset_inv (h : Safety.Inv s) (d b) : NextInv (execPset d b s) := issue_inv h fun c t hc ht => by grind [Res.Inv, Ctx.putMask_inv]

/-! ### Sys2Proof/Machine/Memory.lean -/

theorem Ctx.addrTest_inv (as size) {r} (e : c.addrTest as size = some r) : r.Inv := by
  grind [Ctx.addrTest, Ctx.trapMem_inv]
theorem Ctx.watchTrap_inv (hc : Safety.Inv c.s) (m hits) : (c.watchTrap m hits).Inv := by
  grind [Ctx.watchTrap, Res.Inv, State.takeTrap_inv, State.haltContext_inv]
theorem Ctx.translateLanes_inv (h : Safety.Inv s) (write as) : Safety.Inv (c.translateLanes write as s).2.2 := by
  induction as generalizing s with
  | nil => exact h
  | cons a as ih => grind [Ctx.translateLanes, State.translate_inv]
theorem Ctx.failXlat_inv (cause write va level lanes) : (c.failXlat cause write va level lanes).Inv := by
  grind [Ctx.failXlat, Res.Inv, Ctx.trapMem_inv]
theorem Ctx.failed_inv (hc : Safety.Inv c.s) (f a wr) : (c.failed f a wr).Inv := by
  grind [Ctx.failed, Res.Inv, State.sendFail_inv]
theorem Ctx.reach_inv {k} (h : Safety.Inv s) (hk : ∀ t a, Safety.Inv t → (k t a).Inv) (hc : Safety.Inv c.s) (as size rd wr sync watched) :
    (c.reach s as size rd wr sync watched k).Inv := by
  unfold Ctx.reach
  grind [Res.Inv, Ctx.addrTest_inv, Ctx.translateLanes_inv, Ctx.failXlat_inv, Ctx.watchTrap_inv, Ctx.failed_inv]
theorem Ctx.loadLanes_inv (h : Safety.Inv s) (n as vals st) : (c.loadLanes n as s vals st).Inv := by
  induction as generalizing s vals st with
  | nil => exact h
  | cons a as ih => grind [Ctx.loadLanes, Fetched.Inv, State.prepareLoad_inv]
theorem Ctx.load_inv {k} (h : Safety.Inv s) (hk : ∀ t a b, Safety.Inv t → (k t a b).Inv) (hc : Safety.Inv c.s) (as n) :
    (c.load s as n k).Inv := by
  have fetched := Ctx.loadLanes_inv (c := c) h n as [] Clock.zero
  unfold Ctx.load
  split
  · exact hc
  · exact Ctx.trapMem_inv ..
  · rename_i e; rw [e] at fetched; exact hk _ _ _ (Ctx.modTeam_inv fetched _)
theorem Ctx.putLoaded_inv (h : Safety.Inv s) (d t sz val) : (c.putLoaded s d t sz val).Inv := by
  grind [Ctx.putLoaded, Res.Inv, Ctx.put_inv, State.draw_inv]
theorem Ctx.plainLoad_inv (h : Safety.Inv s) (hc : Safety.Inv c.s) (d sz as val) : (c.plainLoad s d sz as val).Inv := by
  grind [Ctx.plainLoad, Res.Inv, Ctx.reach_inv, Ctx.load_inv, Ctx.putLoaded_inv]
theorem execLdq_inv (h : Safety.Inv s) (d x z o) : NextInv (execLdq d x z o s) :=
  issue_inv h fun c t hc ht => by grind [Res.Inv, Ctx.reach_inv, Ctx.load_inv, Ctx.acquire_inv, Ctx.putLoaded_inv]
theorem Ctx.guarded_inv {k} (h : Safety.Inv s) (hk : ∀ t, Safety.Inv t → (k t).Inv) (ws) : (c.guarded s ws k).Inv := by
  grind [Ctx.guarded, Res.Inv, State.guardRoom_inv, State.setTeam_inv]
theorem State.takePosted_inv (h : Safety.Inv s) (tid t addr va pa) : Safety.Inv (s.takePosted tid t addr va pa).2 := h
theorem Ctx.setRest_inv (h : Safety.Inv s) (r) : Safety.Inv (c.setRest s r) := h
theorem Ctx.dropRest_inv (h : Safety.Inv s) : Safety.Inv (c.dropRest s) := State.wakeQueues_inv (Ctx.modTeam_inv h ..) ..
theorem Ctx.storeLanes_inv (h : Safety.Inv s) (ws ids) : Safety.Inv (c.storeLanes ws s ids).2.2 := by
  induction ws generalizing s ids with
  | nil => exact h
  | cons w ws ih => grind [Ctx.storeLanes, State.takePosted_inv, State.coreStore_inv]
theorem Ctx.storeOn_inv (h : Safety.Inv s) (ws ids) : (c.storeOn s ws ids).Inv := by
  grind [Ctx.storeOn, Res.Inv, Ctx.storeLanes_inv, Ctx.modTeam_inv, Ctx.dropRest_inv, Ctx.setRest_inv]
theorem Ctx.store_inv (h : Safety.Inv s) (ws) : (c.store s ws).Inv := Ctx.storeOn_inv (Ctx.modTeam_inv h ..) ..
theorem Ctx.plainStore_inv (h : Safety.Inv s) (hc : Safety.Inv c.s) (d z as) : (c.plainStore s d z as).Inv := by
  grind [Ctx.plainStore, Res.Inv, Ctx.storeOn_inv, Ctx.reach_inv, Ctx.guarded_inv, Ctx.store_inv]
theorem execStr_inv (h : Safety.Inv s) (d x z o) : NextInv (execStr d x z o s) :=
  issue_inv h fun c t hc ht => by grind [Res.Inv, Ctx.storeOn_inv, Ctx.reach_inv, Ctx.guarded_inv, Ctx.release_inv]
theorem State.laneFault_inv (h : Safety.Inv s) (tid pc lanes) : Safety.Inv (s.laneFault tid pc lanes) := by
  grind [State.laneFault, State.removeLanes_inv, State.modTeam_inv]
theorem Ctx.doneFaulting_inv (h : Safety.Inv s) (bad) : (c.doneFaulting s bad).Inv := by
  grind [Ctx.doneFaulting, Res.Inv, State.laneFault_inv]
theorem Ctx.local_inv {k} (h : Safety.Inv s) (hk : ∀ t a, Safety.Inv t → (k t a).Inv) (x off size) : (c.local_ s x off size k).Inv := by
  grind [Ctx.local_, Res.Inv, Ctx.trapMem_inv, Ctx.doneFaulting_inv]
theorem execLdl_inv (h : Safety.Inv s) (d x z o) : NextInv (execLdl d x z o s) :=
  issue_inv h fun c t hc ht => by grind [Res.Inv, Ctx.local_inv, Ctx.trapMem_inv, State.draw_inv, Ctx.put_inv, Ctx.modTeam_inv]
theorem execStl_inv (h : Safety.Inv s) (d x z o) : NextInv (execStl d x z o s) :=
  issue_inv h fun c t hc ht => by grind [Res.Inv, inv_foldl, Ctx.local_inv, State.lwrite_inv]
theorem State.constFill_inv (h : Safety.Inv s) (core ctx pa n) : Safety.Inv (s.constFill core ctx pa n) := by
  grind [State.constFill, inv_foldl, State.engineRead_inv, State.drainOwn_inv, State.modCore_inv]
theorem execLdp_inv (h : Safety.Inv s) (d x z w) : NextInv (execLdp d x z w s) := by
  refine issue_inv h fun c t hc ht => ?_
  dsimp only
  split
  · exact Ctx.trap_inv ..
  split
  · exact Ctx.trapMem_inv ..
  refine Ctx.reach_inv ht (fun u as hu => ?_) hc ..
  split
  · exact Ctx.trapMem_inv ..
  refine Ctx.putLoaded_inv ?_ ..
  grind [inv_foldl, State.constFill_inv, Ctx.modTeam_inv]
theorem State.readPast_inv (h : Safety.Inv s) (core ctx scope pa n) {t} (e : s.readPast core ctx scope pa n = some t) : Safety.Inv t := by
  grind [State.readPast, State.drainOwn_inv, State.applyDie_inv, State.publishFor_inv, State.request_inv]
theorem Ctx.ldaWords_inv (h : Safety.Inv s) (as acc st) {t bs st'} (e : c.ldaWords as s acc st = some (t, bs, st')) : Safety.Inv t := by
  induction as generalizing s acc st with
  | nil => grind [Ctx.ldaWords]
  | cons a as ih => grind [Ctx.ldaWords, State.readPast_inv]
theorem execLda_inv (h : Safety.Inv s) (g x n) : NextInv (execLda g x n s) := by
  refine issue_inv h fun c t hc ht => ?_
  extract_lets k base words
  split; · exact Ctx.trap_inv ..
  split; · exact ht
  split
  · next e => exact Ctx.addrTest_inv _ _ e
  split
  · next e => exact Ctx.addrTest_inv _ _ e
  have translated := Ctx.translateLanes_inv (c := c) ht false words
  generalize c.translateLanes false words t = reached at translated ⊢
  obtain ⟨ok, bad, u⟩ := reached
  dsimp only at translated ⊢
  repeat' split
  all_goals grind [Res.Inv, Ctx.failXlat_inv, Ctx.watchTrap_inv, Ctx.failed_inv, Ctx.trapMem_inv, Ctx.ldaWords_inv, State.post_inv,
    Ctx.modTeam_inv]
theorem execCommit_inv (h : Safety.Inv s) (d g) : NextInv (execCommit d g s) :=
  issue_inv h fun c t hc ht => by grind [Res.Inv, inv_foldl, Ctx.trap_inv, Ctx.modTeam_inv]
theorem Ctx.surrender_inv (h : Safety.Inv s) (as n) : Safety.Inv (c.surrender s as n) := by
  grind [Ctx.surrender, inv_foldl, State.drainOwn_inv, State.writeBackWords_inv, State.dropWords_inv]
theorem Ctx.sendBank_inv (h : Safety.Inv s) (op ty ls ids) : Safety.Inv (c.sendBank op ty ls s ids).2 := by
  induction ls generalizing s ids with
  | nil => exact h
  | cons l ls ih => exact ih (State.post_inv (State.openWrite_inv (State.serial_inv h) ..) _) _
theorem Ctx.sent_inv (h : Safety.Inv s) (as ids) : Safety.Inv (c.sent s as ids) := h
theorem Ctx.regionAtomic_inv (h : Safety.Inv s) (hc : Safety.Inv c.s) (ty op operand expect as olds st) :
    (∀ t olds' st', c.regionAtomic ty op operand expect as s olds st = .inl (t, olds', st') → Safety.Inv t) ∧
      ∀ r, c.regionAtomic ty op operand expect as s olds st = .inr r → r.Inv := by
  induction as generalizing s olds st with
  | nil => grind [Ctx.regionAtomic]
  | cons a as ih =>
    grind [Ctx.regionAtomic, Res.Inv, Ctx.trapMem_inv, State.readPast_inv, State.setTeam_inv, State.guardRoom_inv]
theorem Ctx.orderAtomic_inv {k} (h : Safety.Inv s) (hk : ∀ t, Safety.Inv t → (k t).Inv) (hc : Safety.Inv c.s) (rel acq as n) :
    (c.orderAtomic s rel acq as n k).Inv := by
  grind [Ctx.orderAtomic, inv_foldl, Res.Inv, Ctx.surrender_inv, State.publish_inv, Ctx.acquire_inv, Ctx.release_inv]
theorem Ctx.guardedAtomic_inv {back} (h : Safety.Inv s) (hback : ∀ t a, Safety.Inv t → (back t a).Inv) (hc : Safety.Inv c.s) (acq op operand
    expect as) :
    (c.guardedAtomic s acq op operand expect as back).Inv := by
  have atomic := Ctx.regionAtomic_inv h hc c.T op operand expect as [] Clock.zero
  unfold Ctx.guardedAtomic
  grind [Ctx.modTeam_inv, Ctx.acquire_inv]
theorem Ctx.cleanBank_inv {k} (h : Safety.Inv s) (hk : ∀ t, Safety.Inv t → (k t).Inv) (as n) : (c.cleanBank s as n k).Inv := by
  grind [Ctx.cleanBank, Res.Inv, Ctx.trapMem_inv]
theorem Ctx.postAtomic_inv (h : Safety.Inv s) (hc : Safety.Inv c.s) (d as rel op byLine) : (c.postAtomic s d as rel op byLine).Inv := by
  grind [Ctx.postAtomic, Res.Inv, Ctx.reach_inv, Ctx.guardedAtomic_inv, Ctx.cleanBank_inv, Ctx.orderAtomic_inv, Ctx.sendBank_inv,
    Ctx.sent_inv, Ctx.modTeam_inv]
theorem Ctx.askBank_inv (h : Safety.Inv s) (op ty operand expect a) : Safety.Inv (c.askBank op ty operand expect s a) := by
  grind [Ctx.askBank, State.serial_inv, Ctx.modTeam_inv, State.openWrite_inv, State.homeBank_inv]
theorem Ctx.returned_inv {back} (h : Safety.Inv s) (hback : ∀ t a, Safety.Inv t → (back t a).Inv) (hc : Safety.Inv c.s) (acq d x r) :
    (c.returned s acq d x r back).Inv := by
  grind [Ctx.returned, Res.Inv, State.takeTrap_inv, Ctx.dropRest_inv, State.modTeam_inv, Ctx.acquire_inv]
theorem Ctx.fetchAtomic_inv {back} (h : Safety.Inv s) (hback : ∀ t a, Safety.Inv t → (back t a).Inv) (hc : Safety.Inv c.s) (d x rel acq op
    operand expect) :
    (c.fetchAtomic s d x rel acq op operand expect back).Inv := by
  unfold Ctx.fetchAtomic
  split
  · grind [Res.Inv, Ctx.returned_inv]
  · refine Ctx.reach_inv h (fun t as ht => ?_) hc ..
    split
    · exact hback t [] ht
    split
    · exact Ctx.guardedAtomic_inv ht hback hc ..
    · refine Ctx.cleanBank_inv ht (fun u hu => Ctx.orderAtomic_inv hu (fun v hv => ?_) hc ..) ..
      extract_lets sent left asked
      have asked_inv : Safety.Inv asked :=
        inv_foldl (fun w a hw => Ctx.askBank_inv hw ..) _ (by grind [Ctx.sent_inv, Ctx.modTeam_inv, Ctx.setRest_inv])
      clear_value asked
      grind [Res.Inv, Ctx.returned_inv]
theorem execAtom_inv (h : Safety.Inv s) (d x r q o) : NextInv (execAtom d x r q o s) :=
  issue_inv h fun c t hc ht => by grind [Res.Inv, Ctx.fetchAtomic_inv, Ctx.postAtomic_inv]
theorem execAtomr_inv (h : Safety.Inv s) (d x r q o) : NextInv (execAtomr d x r q o s) :=
  issue_inv h fun c t hc ht => by grind [Res.Inv, Ctx.fetchAtomic_inv, Ctx.put_inv, State.draw_inv]
theorem execCas_inv (h : Safety.Inv s) (d x r q) : NextInv (execCas d x r q s) :=
  issue_inv h fun c t hc ht => by grind [Res.Inv, Ctx.fetchAtomic_inv, Ctx.modTeam_inv]
theorem Ctx.prefetch_inv (h : Safety.Inv s) (a) : Safety.Inv (c.prefetch s a) := by
  unfold Ctx.prefetch
  grind [State.translate_inv, State.post_inv, State.prepareLoad_inv, inv_getD]
theorem execPref_inv (h : Safety.Inv s) (x o) : NextInv (execPref x o s) :=
  issue_inv h fun c t hc ht => by grind [Res.Inv, inv_foldl, Ctx.prefetch_inv]
theorem State.setArrival_inv (h : Safety.Inv s) (core addr a) : Safety.Inv (s.setArrival core addr a) := State.lwrite_inv h ..
theorem State.arrive_inv (h : Safety.Inv s) (core addr n) : Safety.Inv (s.arrive core addr n) :=
  State.modCore_inv (State.setArrival_inv h ..) ..
theorem Ctx.arrivalAt_inv {k} (h : Safety.Inv s) (hk : ∀ t a, Safety.Inv t → (k t a).Inv) (x) : (c.arrivalAt s x k).Inv := by
  grind [Ctx.arrivalAt, Res.Inv, Ctx.trapMem_inv, Ctx.doneFaulting_inv]
theorem Ctx.acquireArrival_inv {k} (h : Safety.Inv s) (hk : ∀ t, Safety.Inv t → (k t).Inv) (hc : Safety.Inv c.s) (at_) :
    (c.acquireArrival s at_ k).Inv := by
  grind [Ctx.acquireArrival, Res.Inv, Ctx.acquire_inv]
theorem execArma_inv (h : Safety.Inv s) (d x y) : NextInv (execArma d x y s) :=
  issue_inv h fun c t hc ht => by grind [Res.Inv, Ctx.arrivalAt_inv, Ctx.trap_inv, State.setArrival_inv, Ctx.put_inv, State.draw_inv]
theorem execWaita_inv (h : Safety.Inv s) (x y) : NextInv (execWaita x y s) :=
  issue_inv h fun c t hc ht => by grind [Res.Inv, Ctx.arrivalAt_inv, Ctx.acquireArrival_inv]
theorem execPolla_inv (h : Safety.Inv s) (p x y) : NextInv (execPolla p x y s) :=
  issue_inv h fun c t hc ht => by grind [Res.Inv, Ctx.arrivalAt_inv, Ctx.acquireArrival_inv, Ctx.putP_inv]

/-! ### Sys2Proof/Machine/Queues.lean -/

theorem Ctx.ifActs_inv {k : Res} (h : Safety.Inv s) (hk : k.Inv) : (c.ifActs s k).Inv := by
  grind [Ctx.ifActs, Res.Inv]
theorem Ctx.ifActsD_inv {k : Res} (h : Safety.Inv s) (hk : k.Inv) (d) : (c.ifActsD s d k).Inv := by
  grind [Ctx.ifActsD, Res.Inv, State.draw_inv, Ctx.put_inv]
theorem execQcfg_inv (h : Safety.Inv s) (d x y) : NextInv (execQcfg d x y s) :=
  issue_inv h fun c t hc ht => by grind [Res.Inv, Ctx.ifActs_inv, Ctx.trap_inv, State.modClu_inv, Ctx.modTeam_inv]
theorem Ctx.onQueue_inv {k} (h : Safety.Inv s) (hk : ∀ t a b, Safety.Inv t → Safety.Inv (k t a b)) (x sel) : (c.onQueue s x sel k).Inv := by
  grind [Ctx.onQueue, Res.Inv, Ctx.ifActs_inv, Ctx.trap_inv]
theorem State.setQueue_inv (h : Safety.Inv s) (clu n q) : Safety.Inv (s.setQueue clu n q) := h
theorem execQfree_inv (h : Safety.Inv s) (x sel) : NextInv (execQfree x sel s) :=
  issue_inv h fun c t hc ht => by grind [Res.Inv, Ctx.onQueue_inv, State.post_inv, State.loseFeeds_inv, State.freeQueue_inv]
theorem execQdrain_inv (h : Safety.Inv s) (x sel) : NextInv (execQdrain x sel s) :=
  issue_inv h fun c t hc ht => by grind [Res.Inv, Ctx.onQueue_inv, State.loseFeeds_inv, State.setQueue_inv]
theorem execQclose_inv (h : Safety.Inv s) (x sel) : NextInv (execQclose x sel s) :=
  issue_inv h fun c t hc ht => by grind [Res.Inv, Ctx.onQueue_inv, State.setQueue_inv]
theorem execQcnt_inv (h : Safety.Inv s) (d x sel) : NextInv (execQcnt d x sel s) :=
  issue_inv h fun c t hc ht => by grind [Res.Inv, Ctx.trap_inv, Ctx.put_inv]
theorem execQtry_inv (h : Safety.Inv s) (d p e q) : NextInv (execQtry d p e q s) :=
  issue_inv h fun c t hc ht => by grind [Res.Inv, Ctx.trap_inv, State.popOcc_inv, Ctx.modTeam_inv, Ctx.putP_inv]
theorem execQoffr_inv (h : Safety.Inv s) (p x q) : NextInv (execQoffr p x q s) :=
  issue_inv h fun c t hc ht => by grind [Res.Inv, Ctx.trap_inv, Ctx.putP_inv, Ctx.push_inv]
theorem execQlink_inv (h : Safety.Inv s) (x q) : NextInv (execQlink x q s) :=
  issue_inv h fun c t hc ht => by grind [Res.Inv, Ctx.ifActs_inv, Ctx.modTeam_inv, Ctx.trap_inv]

/-! ### Sys2Proof/Machine/Tiles.lean -/

theorem Ctx.handle_inv {k} (hk : ∀ a b, (k a b).Inv) (i w) : (c.handle s i w k).Inv := by
  grind [Ctx.handle, Res.Inv, Ctx.trap_inv]
theorem Ctx.readTile_inv {k} (h : Safety.Inv s) (hk : ∀ t a b, Safety.Inv t → (k t a b).Inv) (w name n keep) :
    (c.readTile s w name n keep k).Inv := by
  grind [Ctx.readTile, Res.Inv, State.endRead_inv, State.modClu_inv, State.pmc_inv, Ctx.trap_inv]
theorem State.wakeReaders_inv (h : Safety.Inv s) (clu name) : Safety.Inv (s.wakeReaders clu name) := by
  grind [State.wakeReaders, inv_foldl, State.modClu_inv, State.modPath_inv]
theorem State.faultReaders_inv (h : Safety.Inv s) (clu name cause) : Safety.Inv (s.faultReaders clu name cause) :=
  inv_foldl (fun _ _ ht => State.faultParked_inv ht ..) _ h
theorem State.feedTask_inv (h : Safety.Inv s) (id) : Safety.Inv (s.feedTask id) := by
  grind [State.feedTask, Safety.Inv, inv_foldl, State.modClu_inv, State.serial_inv, State.post_inv]
theorem State.feedTasks_inv (h : Safety.Inv s) (clu) : Safety.Inv (s.feedTasks clu) :=
  inv_foldl (fun _ _ ht => State.feedTask_inv ht ..) _ h
theorem State.takeName_inv (h : Safety.Inv s) (clu owner) : Safety.Inv (s.takeName clu owner).2 := State.setClu_inv h ..
theorem State.takeNames_inv (h : Safety.Inv s) (clu owner k) : Safety.Inv (s.takeNames clu owner k).2 := by
  induction k generalizing s with
  | zero => exact h
  | succ k ih => grind [State.takeNames, State.takeName_inv]
theorem execTalloc_inv (h : Safety.Inv s) (d n) : NextInv (execTalloc d n s) :=
  issue_inv h fun c t hc ht => by grind [Res.Inv, Ctx.ifActs_inv, Ctx.trap_inv, State.modClu_inv, State.takeNames_inv, Ctx.modTeam_inv]
theorem execTdesc_inv (h : Safety.Inv s) (x i) : NextInv (execTdesc x i s) :=
  issue_inv h fun c t hc ht => by grind [Res.Inv, Ctx.ifActs_inv, State.modClu_inv]
theorem execTdescr_inv (h : Safety.Inv s) (d i) : NextInv (execTdescr d i s) :=
  issue_inv h fun c t hc ht => by grind [Res.Inv, Ctx.ifActs_inv, Ctx.modTeam_inv]
theorem Ctx.definable_inv {k} (hk : ∀ a b, (k a b).Inv) (i w badSel) : (c.definable s i w badSel k).Inv := by
  grind [Ctx.definable, Res.Inv, Ctx.handle_inv, Ctx.trap_inv]
theorem Ctx.define_inv (h : Safety.Inv s) (name n d) : Safety.Inv (c.define s name n d) := h
theorem State.enginePages_inv (h : Safety.Inv s) (clu ctx write ps) : Safety.Inv (s.enginePages clu ctx write ps).2 := by
  induction ps generalizing s with
  | nil => exact h
  | cons p ps ih => grind [State.enginePages, State.engineXlat_inv]
theorem Ctx.footprint_inv {k} (h : Safety.Inv s) (hk : ∀ t, Safety.Inv t → (k t).Inv) (va d write) : (c.footprint s va d write k).Inv := by
  have pages := State.enginePages_inv h c.clu c.t.ctx write (pagesOf va d.runs)
  unfold Ctx.footprint
  simp only
  split; · trivial
  split; · trivial
  split
  · split <;> trivial
  · rename_i e; rw [e] at pages; exact hk _ pages
theorem State.engineReach_inv (h : Safety.Inv s) (clu ctx va write) : Safety.Inv (s.engineReach clu ctx va write).2 := by
  grind [State.engineReach, State.engineXlat_inv]
theorem State.engineLine_inv (h : Safety.Inv s) (ctx line) : Safety.Inv (s.engineLine ctx line) :=
  State.publish_inv (State.request_inv h ..) ..
theorem State.enginePieces_inv (h : Safety.Inv s) (clu ctx ps acc) : Safety.Inv (s.enginePieces clu ctx ps acc).2 := by
  induction ps generalizing s acc with
  | nil => exact h
  | cons p ps ih => grind [State.enginePieces, State.engineReach_inv, State.engineLine_inv, inv_foldl]
theorem State.engineStores_inv (h : Safety.Inv s) (clu ctx ps bs ids) : Safety.Inv (s.engineStores clu ctx ps bs ids).2 := by
  induction ps generalizing s bs ids with
  | nil => exact h
  | cons p ps ih => grind [State.engineStores, State.engineReach_inv, State.engineWrite_inv]
theorem execTload_inv (h : Safety.Inv s) (d x y) : NextInv (execTload d x y s) :=
  issue_inv h fun c t hc ht => by grind [Res.Inv, Ctx.ifActs_inv, Ctx.definable_inv, Ctx.trap_inv, Ctx.footprint_inv, State.flushWrites_inv,
    Ctx.define_inv, State.post_inv]
theorem execTdef_inv (h : Safety.Inv s) (d x y) : NextInv (execTdef d x y s) :=
  issue_inv h fun c t hc ht => by grind [Res.Inv, Ctx.ifActs_inv, Ctx.definable_inv, Ctx.trap_inv, Ctx.define_inv, State.post_inv]
theorem State.failDefinition_inv (h : Safety.Inv s) (clu name cause) : Safety.Inv (s.failDefinition clu name cause) := by
  grind [State.failDefinition, inv_foldl, State.freeName_inv, State.setName_inv, State.faultReaders_inv, State.failTask_inv]
theorem State.placeValue_inv (h : Safety.Inv s) (clu name n x img) : Safety.Inv (s.placeValue clu name n x img) := by
  grind [State.placeValue, State.feedTasks_inv, State.setName_inv, State.draw_inv, State.seat_inv, State.wakeReaders_inv,
    State.failDefinition_inv]
theorem execTileDefinitionComplete_inv (h : Safety.Inv s) (clu name) : NextInv (execTileDefinitionComplete clu name s) :=
  event_inv (by grind [State.placeValue_inv, State.failDefinition_inv, State.enginePieces_inv, State.post_inv])
theorem execTileDefinitionFail_inv (h : Safety.Inv s) (clu name cause) : NextInv (execTileDefinitionFail clu name cause s) :=
  event_inv (by grind [State.failDefinition_inv])
theorem State.stageRoom_inv (h : Safety.Inv s) (clu core need) : Safety.Inv (s.stageRoom clu core need) := by
  grind [State.stageRoom, inv_foldl, State.moveTile_inv, State.modCore_inv, inv_getD]
theorem State.stage_inv (h : Safety.Inv s) (clu name core) {t} (e : s.stage clu name core = .ok t) : Safety.Inv t := by
  grind [State.stage, State.modCore_inv, State.stageRoom_inv, State.draw_inv, State.setName_inv]
theorem execTstore_inv (h : Safety.Inv s) (d x y) : NextInv (execTstore d x y s) :=
  issue_inv h fun c t hc ht => by grind [Res.Inv, Safety.Inv, Ctx.ifActs_inv, Ctx.trap_inv, Ctx.footprint_inv, Ctx.readTile_inv,
    State.serial_inv, State.post_inv, Ctx.handle_inv]
theorem execTileReadComplete_inv (h : Safety.Inv s) (clu name xfer) : NextInv (execTileReadComplete clu name xfer s) :=
  event_inv (by grind [Safety.Inv, State.deferTrap_inv, State.endRead_inv, State.engineStores_inv, State.post_inv])
theorem execTget_inv (h : Safety.Inv s) (d x y) : NextInv (execTget d x y s) :=
  issue_inv h fun c t hc ht => by grind [Res.Inv, Ctx.ifActs_inv, Ctx.trap_inv, Ctx.readTile_inv, Ctx.modTeam_inv, Ctx.handle_inv]
theorem execTwait_inv (h : Safety.Inv s) (x) : NextInv (execTwait x s) :=
  issue_inv h fun c t hc ht => by grind [Res.Inv, Ctx.ifActs_inv, Ctx.readTile_inv, Ctx.handle_inv]
theorem execTstat_inv (h : Safety.Inv s) (d x) : NextInv (execTstat d x s) :=
  issue_inv h fun c t hc ht => by grind [Res.Inv, Ctx.trap_inv, Ctx.put_inv]
theorem State.followHint_inv (h : Safety.Inv s) (clu name hint core) : Safety.Inv (s.followHint clu name hint core) := by
  grind [State.followHint, State.stage_inv, State.moveTile_inv, inv_getD]
theorem execThint_inv (h : Safety.Inv s) (x k hint) : NextInv (execThint x k hint s) :=
  issue_inv h fun c t hc ht => by grind [Res.Inv, Ctx.ifActs_inv, Ctx.trap_inv, State.draw_inv, State.setName_inv, State.followHint_inv]
theorem execTkill_inv (h : Safety.Inv s) (x) : NextInv (execTkill x s) :=
  issue_inv h fun c t hc ht => by grind [Res.Inv, Ctx.ifActs_inv, Ctx.handle_inv, Ctx.trap_inv, State.dieName_inv, State.faultReaders_inv]
theorem execTtask_inv (h : Safety.Inv s) (d x y) : NextInv (execTtask d x y s) :=
  issue_inv h fun c t hc ht => by grind [Res.Inv, Safety.Inv, Ctx.ifActs_inv, Ctx.trap_inv, Ctx.definable_inv, Ctx.handle_inv,
    State.serial_inv, Ctx.define_inv, State.feedTask_inv, State.pmc_inv]
theorem State.emptyBank_inv (h : Safety.Inv s) (clu core) {t} (e : s.emptyBank clu core = some t) : Safety.Inv t := by
  grind [State.emptyBank, State.moveTile_inv, State.setName_inv]
theorem execTileTaskDispatch_inv (h : Safety.Inv s) (id core) : NextInv (execTileTaskDispatch id core s) := by
  refine event_inv ?_
  split; · exact h
  split; · exact h
  extract_lets first
  split; · exact State.post_inv h _
  split; · exact State.post_inv h _
  split; · exact State.post_inv h _
  next u emptied =>
    have emptied_inv := State.emptyBank_inv h _ _ emptied
    refine inv_ite (State.failTask_inv emptied_inv ..) ?_
    extract_lets fp64
    split
    split
    · exact State.failTask_inv emptied_inv ..
    · exact State.failTask_inv emptied_inv ..
    · next staged =>
      have staged_inv := State.stage_inv emptied_inv _ _ _ staged
      exact staged_inv
theorem State.finishTask_inv (h : Safety.Inv s) (id k core acc) : Safety.Inv (s.finishTask id k core acc) := by
  grind [State.finishTask, State.dropTask_inv, State.post_inv, State.setName_inv]
theorem execTileStepBlock_inv (h : Safety.Inv s) (id) : NextInv (execTileStepBlock id s) := by
  refine event_inv ?_
  dsimp only
  repeat' split
  all_goals grind [State.post_inv, State.stopTask_inv, State.failTask_inv, State.stage_inv, State.pmc_inv, State.finishTask_inv, Safety.Inv]

/-! ### Sys2Proof/Machine/Packets.lean -/

theorem State.modCmdq_inv (h : Safety.Inv s) (q f) : Safety.Inv (s.modCmdq q f) := h
theorem State.modStarted_inv (h : Safety.Inv s) (q idx f) : Safety.Inv (s.modStarted q idx f) := State.modCmdq_inv h ..
theorem State.nextPacket_inv (h : Safety.Inv s) (q) : Safety.Inv (s.nextPacket q).2 := by
  grind [State.nextPacket, State.frontRead_inv]
theorem State.startPacket_inv (h : Safety.Inv s) (q p) : Safety.Inv (s.startPacket q p).2 := h
theorem State.abortList_inv (h : Safety.Inv s) (q j value) : Safety.Inv (s.abortList q j value).2 := by
  grind [State.abortList, inv_foldl_snd, State.frontRead_inv, State.signalXlat_inv, State.signalStore_inv]
theorem State.packetEntry_inv (h : Safety.Inv s) (q p status appended) : Safety.Inv (s.packetEntry q p status appended) :=
  State.complete_inv h ..
theorem State.finishMarkers_inv (h : Safety.Inv s) (q fuel) : Safety.Inv (s.finishMarkers q fuel) := by
  induction fuel generalizing s with
  | zero => exact h
  | succ fuel ih => grind [State.finishMarkers, State.modCmdq_inv, State.packetEntry_inv]
theorem State.closeAborted_inv (h : Safety.Inv s) (q) : Safety.Inv (s.closeAborted q) := by
  grind [State.closeAborted, inv_foldl, State.modCmdq_inv, State.finishMarkers_inv, State.packetEntry_inv, State.postOnce_inv]
theorem State.abortPacket_inv (h : Safety.Inv s) (q idx status value) : Safety.Inv (s.abortPacket q idx status value) := by
  grind [State.abortPacket, State.abortList_inv, State.modCmdq_inv, State.closeAborted_inv, State.modStarted_inv]
theorem State.pokeQueue_inv (h : Safety.Inv s) (q) : Safety.Inv (s.pokeQueue q) := by
  grind [State.pokeQueue, State.nextPacket_inv, State.post_inv, State.startPacket_inv, State.abortPacket_inv]
theorem State.pokeBells_inv (h : Safety.Inv s) (q) : Safety.Inv (s.pokeBells q) := by
  grind [State.pokeBells, State.modCmdq_inv, State.pokeQueue_inv, State.postOnce_inv]
theorem State.finishPacket_inv (h : Safety.Inv s) (q idx status) : Safety.Inv (s.finishPacket q idx status) := by
  grind [State.finishPacket, State.modCmdq_inv, State.packetEntry_inv, State.pokeQueue_inv, State.finishMarkers_inv]
theorem State.startType_inv {k} (h : Safety.Inv s) (hk : ∀ t a b, Safety.Inv t → Safety.Inv (k t a b)) (q type) :
    Safety.Inv (s.startType q type k) := by
  grind [State.startType, State.nextPacket_inv, State.startPacket_inv, State.abortPacket_inv, State.pokeQueue_inv]

/-! ### Sys2Proof/Machine/Engines.lean -/

theorem State.submitCard_inv (h : Safety.Inv s) (x ctx clu core base len arr addr img packet) :
    Safety.Inv (s.submitCard x ctx clu core base len arr addr img packet).2 := by
  grind [State.submitCard, Safety.Inv, State.serial_inv, State.post_inv]
theorem State.modCard_inv (h : Safety.Inv s) (id f) : Safety.Inv (s.modCard id f) := h
theorem execCardStart_inv (h : Safety.Inv s) (id) : NextInv (execCardStart id s) :=
  event_inv (by grind [State.post_inv, State.modCard_inv, State.postOnce_inv])
theorem State.cardFailed_inv (h : Safety.Inv s) (f write va) : Safety.Inv (s.cardFailed f write va).2 := by
  grind [State.cardFailed, State.sendFail_inv, State.metFail_inv]
theorem State.cardReach_inv (h : Safety.Inv s) (k write ps) : Safety.Inv (s.cardReach k write ps).2 := by
  induction ps generalizing s with
  | nil => exact h
  | cons p ps ih => grind [State.cardReach, State.engineReach_inv, State.cardFailed_inv]
theorem State.cardRead_inv {f} (h : Safety.Inv s) (hf : ∀ t a, Safety.Inv t → Safety.Inv (f t a).2) (k va n) :
    Safety.Inv (s.cardRead k va n f).2 := by
  grind [State.cardRead, State.cardReach_inv, State.enginePieces_inv]
theorem State.cardPlace_inv (h : Safety.Inv s) (k bs) : Safety.Inv (s.cardPlace k bs).2 := by
  grind [State.cardPlace, State.lwrite_inv, State.arrive_inv, State.cardReach_inv, State.engineStores_inv]
theorem State.cardPut_inv (h : Safety.Inv s) (k bs) : Safety.Inv (s.cardPut k bs).2 := by
  grind [State.cardPut, State.cardPlace_inv]
theorem State.copyStep_inv (h : Safety.Inv s) (k) : Safety.Inv (s.copyStep k).2 := by
  grind [State.copyStep, State.cardPut_inv, State.cardRead_inv]
theorem State.gatherStep_inv (h : Safety.Inv s) (k) : Safety.Inv (s.gatherStep k).2 := by
  grind [State.gatherStep, State.cardPut_inv, State.cardRead_inv]
theorem State.colStep_inv (h : Safety.Inv s) (k) : Safety.Inv (s.colStep k).2 := by
  grind [State.colStep, State.cardRead_inv, State.cardPut_inv]
theorem State.scramble_inv (h : Safety.Inv s) (k) : Safety.Inv (s.scramble k) := by
  grind [State.scramble, inv_foldl, State.draw_inv, State.lwrite_inv, State.engineStores_inv]
theorem State.endCard_inv (h : Safety.Inv s) (id status) : Safety.Inv (s.endCard id status) := by
  grind [State.endCard, State.modCard_inv, State.scramble_inv, State.post_inv]
theorem execCardTransfer_inv (h : Safety.Inv s) (id) : NextInv (execCardTransfer id s) :=
  event_inv (by grind [Safety.Inv, State.endCard_inv, State.copyStep_inv, State.gatherStep_inv, State.colStep_inv, State.post_inv,
    State.modCard_inv, State.postJob_inv])
theorem State.cardSignalled_inv (h : Safety.Inv s) (die ctx c status) : Safety.Inv (s.cardSignalled die ctx c status).2 := by
  grind [State.cardSignalled, State.signalXlat_inv, State.signalUpdate_inv]
theorem State.rejectSignal_inv (h : Safety.Inv s) (ctx c) : Safety.Inv (s.rejectSignal ctx c) :=
  State.cardSignalled_inv (State.settleAll_inv h ..) ..
theorem execCardComplete_inv (h : Safety.Inv s) (id) : NextInv (execCardComplete id s) := by
  refine event_inv ?_
  split; · exact h
  rename_i k found
  split
  · rename_i status ending
    have settled := State.settleAll_inv h
    extract_lets t card
    split; · exact settled
    split; · exact State.post_inv settled _
    have signalled := State.cardSignalled_inv settled (dieOfClu k.clu) k.ctx card status
    split
    rename_i status u e
    rw [e] at signalled
    extract_lets arrived retired closed
    have arrived_inv : Safety.Inv arrived := inv_ite (State.arrive_inv signalled ..) signalled
    have retired_inv : Safety.Inv retired := by
      dsimp only [retired]
      split
      · exact State.post_inv (State.modCtx_inv arrived_inv ..) _
      · exact arrived_inv
    have closed_inv : Safety.Inv closed := inv_ite (State.modCard_inv retired_inv ..) retired_inv
    split
    · exact State.finishPacket_inv closed_inv ..
    · exact closed_inv
  · exact h
theorem execCollectiveTimeout_inv (h : Safety.Inv s) (id) : NextInv (execCollectiveTimeout id s) := by
  refine event_inv ?_
  split; · exact h
  dsimp only
  split; · exact h
  split; · exact h
  split
  · exact State.endCard_inv (State.wake_inv h) ..
  · exact State.postOnce_inv h _
theorem execCollectivePeerMessage_inv (h : Safety.Inv s) (id rank m) : NextInv (execCollectivePeerMessage id rank m s) :=
  event_inv (by grind [State.modMgmt_inv, State.wake_inv, State.endCard_inv, State.modCard_inv])
theorem Ctx.loadBlock_inv {k} (h : Safety.Inv s) (hk : ∀ t a, Safety.Inv t → (k t a).Inv) (hc : Safety.Inv c.s) (va n) :
    (c.loadBlock s va n k).Inv := by
  grind [Ctx.loadBlock, Res.Inv, Ctx.trapMem_inv, Ctx.reach_inv, Ctx.load_inv]
theorem Ctx.submit_inv {k} (h : Safety.Inv s) (hk : ∀ t a, Safety.Inv t → (k t a).Inv) (hc : Safety.Inv c.s) (x) :
    (c.submit s x k).Inv := by
  grind [Ctx.submit, Res.Inv, Ctx.loadBlock_inv, Ctx.trap_inv, State.flushWrites_inv, State.submitCard_inv, Ctx.modTeam_inv]
theorem execCard_inv (h : Safety.Inv s) (x) : NextInv (execCard x s) :=
  issue_inv h fun c t hc ht => by grind [Res.Inv, Ctx.ifActs_inv, Ctx.submit_inv]
theorem execCardw_inv (h : Safety.Inv s) (d x) : NextInv (execCardw d x s) :=
  issue_inv h fun c t hc ht => by grind [Res.Inv, Safety.Inv, Ctx.ifActs_inv, Ctx.submit_inv, Ctx.modPath_inv, State.applyDie_inv,
    Ctx.modTeam_inv]
theorem State.modNode_inv (h : Safety.Inv s) (ctx n f) : Safety.Inv (s.modNode ctx n f) := h
theorem State.sendDecrement_inv (h : Safety.Inv s) (agent die ctx va pa scope packet) :
    Safety.Inv (s.sendDecrement agent die ctx va pa scope packet).2 := by
  grind [State.sendDecrement, State.serial_inv, State.openWrite_inv, State.modCtx_inv, State.post_inv]
theorem State.decrementAll_inv (h : Safety.Inv s) (ctx packet vas ids) : Safety.Inv (s.decrementAll ctx packet vas ids).2 := by
  induction vas generalizing s ids with
  | nil => exact h
  | cons va vas ih => grind [State.decrementAll, State.frontXlat_inv, State.failPacket_inv, State.sendDecrement_inv]
theorem State.retireNode_inv (h : Safety.Inv s) (ctx n x side) : Safety.Inv (s.retireNode ctx n x side).2 := by
  grind [State.retireNode, State.modCtx_inv, State.failPacket_inv, State.decrementAll_inv, State.settleAll_inv, State.post_inv]
theorem State.nodeRecords_inv (h : Safety.Inv s) (ctx va n rs) : Safety.Inv (s.nodeRecords ctx va n rs).2 := by
  induction n generalizing s va rs with
  | zero => exact h
  | succ n ih => grind [State.nodeRecords, State.frontRead_inv]
theorem State.rejectedRecord_inv (h : Safety.Inv s) (ctx r) : Safety.Inv (s.rejectedRecord ctx r) := by
  grind [State.rejectedRecord, State.exitRecord_inv]
theorem State.releaseNode_inv (h : Safety.Inv s) (ctx n x) : Safety.Inv (s.releaseNode ctx n x) := by
  grind [State.releaseNode, State.settleAll_inv, State.retireNode_inv, State.post_inv]
theorem State.dispatchNode_inv (h : Safety.Inv s) (ctx n x) : Safety.Inv (s.dispatchNode ctx n x) := by
  unfold State.dispatchNode
  extract_lets failed
  have failed_inv (t x cause) (ht : Safety.Inv t) : Safety.Inv (failed t x cause) := State.retireNode_inv ht ..
  clear_value failed
  have read := State.frontRead_inv (State.settleAll_inv h) ctx x.addr 64
  split
  · grind
  simp only
  split; · grind
  split; · grind [State.retireNode_inv]
  split; · grind [State.retireNode_inv, State.frontRead_inv]
  split; · grind [State.frontRead_inv, State.rejectSignal_inv, State.submitCard_inv, State.modNode_inv]
  grind [State.nodeRecords_inv, State.badRecord_inv, State.rejectedRecord_inv, State.post_inv, State.appendRecord_inv, State.modNode_inv,
    inv_foldl]
theorem State.dispatchConditionals_inv (h : Safety.Inv s) : Safety.Inv (s.dispatchConditionals) := by
  grind [State.dispatchConditionals, inv_foldl, State.frontRead_inv, State.settleAll_inv, State.dispatchNode_inv]
theorem execNodeRetire_inv (h : Safety.Inv s) (ctx n) : NextInv (execNodeRetire ctx n s) :=
  event_inv (by grind [State.dispatchNode_inv, State.retireNode_inv, State.releaseNode_inv])
theorem execGarm_inv (h : Safety.Inv s) (x r) : NextInv (execGarm x r s) :=
  issue_inv h fun c t hc ht => by grind [Res.Inv, Ctx.ifActs_inv, Ctx.trapMem_inv, Ctx.reach_inv, Ctx.orderAtomic_inv,
    State.sendDecrement_inv, Ctx.sent_inv, Ctx.modTeam_inv]
theorem execGdone_inv (h : Safety.Inv s) (x) : NextInv (execGdone x s) :=
  issue_inv h fun c t hc ht => by grind [Res.Inv, Ctx.ifActs_inv, Ctx.release_inv, State.settleAll_inv, State.retireNode_inv]
theorem execSubm_inv (h : Safety.Inv s) (x y) : NextInv (execSubm x y s) :=
  issue_inv h fun c t hc ht => by grind [Res.Inv, Ctx.ifActs_inv, Ctx.trap_inv, Ctx.loadBlock_inv, State.frontXlat_inv,
    State.engineWrite_inv, State.serial_inv, State.modCmdq_inv, State.pokeBells_inv, Ctx.release_inv, Ctx.modPath_inv]
theorem Ctx.signal_inv {k} (h : Safety.Inv s) (hk : ∀ t a, Safety.Inv t → (k t a).Inv) (hc : Safety.Inv c.s) (x wr) :
    (c.signal s x wr k).Inv := by
  grind [Ctx.signal, Res.Inv, Ctx.trapMem_inv, Ctx.reach_inv, Ctx.cleanBank_inv]
theorem execSigw_inv (h : Safety.Inv s) (d x k) : NextInv (execSigw d x k s) :=
  issue_inv h fun c t hc ht => by grind [Res.Inv, Ctx.ifActs_inv, Ctx.signal_inv, State.engineRead_inv, Ctx.acquire_inv, Ctx.modTeam_inv]
theorem execSiga_inv (h : Safety.Inv s) (d x r o) : NextInv (execSiga d x r o s) :=
  issue_inv h fun c t hc ht => by grind [Res.Inv, Ctx.ifActs_inv, Ctx.signal_inv, Ctx.orderAtomic_inv, Ctx.sendBank_inv, Ctx.sent_inv,
    Ctx.modTeam_inv]

/-! ### Sys2Proof/Machine/Beryl.lean -/

theorem State.armLine_inv (h : Safety.Inv s) (line) : Safety.Inv (s.armLine line) := State.setDir_inv (State.demote_inv h ..) ..
theorem State.freeObject_inv (h : Safety.Inv s) (obj) : Safety.Inv (s.freeObject obj) := by
  grind [State.freeObject, Safety.Inv, inv_foldl, State.setDir_inv]
theorem Ctx.regionPieces_inv (h : Safety.Inv s) (ps acc) : Safety.Inv (c.regionPieces ps s acc).2 := by
  induction ps generalizing s acc with
  | nil => exact h
  | cons p ps ih => grind [Ctx.regionPieces, State.translate_inv]
theorem Ctx.register_inv (h : Safety.Inv s) (kind b1 l1 l2 arg p1 p2) {n t} (e : c.register s kind b1 l1 l2 arg p1 p2 = some (n, t)) :
    Safety.Inv t := by
  have armed (ws ls) : Safety.Inv (List.foldl State.armLine { s with watch := s.watch ++ ws } ls) :=
    inv_foldl (fun _ _ ht => State.armLine_inv ht _) ls h
  unfold Ctx.register at e
  split at e
  · cases e
  split at e
  · cases e; exact h
  simp only at e
  split at e
  · cases e
  split at e <;> cases e
  · exact State.engineRead_inv (armed ..) ..
  · exact armed ..
theorem execAreg_inv (h : Safety.Inv s) (d x k) : NextInv (execAreg d x k s) :=
  issue_inv h fun c t hc ht => by grind [Res.Inv, Ctx.put_inv, Ctx.ifActsD_inv, Ctx.trap_inv, Ctx.trapMem_inv, Ctx.regionPieces_inv,
    Ctx.failXlat_inv, Ctx.register_inv, Ctx.modPath_inv]
theorem execAenter_inv (h : Safety.Inv s) (x i) : NextInv (execAenter x i s) :=
  issue_inv h fun c t hc ht => by grind [Res.Inv, Ctx.trap_inv, Ctx.modTeam_inv, Ctx.modPath_inv, State.abortTeam_inv]
theorem State.keepProvisional_inv (h : Safety.Inv s) (tid clu) : Safety.Inv (s.keepProvisional tid clu) := by
  grind [State.keepProvisional, Safety.Inv, inv_foldl, State.placeValue_inv, State.setName_inv]
theorem State.clearLines_inv (h : Safety.Inv s) (core ls) : Safety.Inv (s.clearLines core ls) := by
  grind [State.clearLines, inv_foldl, State.drainOwn_inv, State.writeBackWords_inv, State.dropWords_inv]
theorem State.reserve_inv (h : Safety.Inv s) (tid line bs) : Safety.Inv (s.reserve tid line bs) := by
  grind [State.reserve, State.queueBehind_inv, State.hold_inv]
theorem State.reserveAll_inv (h : Safety.Inv s) (t tid) : Safety.Inv (s.reserveAll t tid) := by
  grind [State.reserveAll, inv_foldl, State.reserve_inv, State.clearLines_inv]
theorem State.takeBehind_inv (h : Safety.Inv s) (e) : Safety.Inv (s.takeBehind e) := by
  unfold State.takeBehind
  grind [State.reserveAll_inv, State.post_inv, State.runBehind_inv]
theorem State.commitLine_inv (h : Safety.Inv s) (tid addr t p) : Safety.Inv (s.commitLine tid addr t p).2 := by
  grind [State.commitLine, State.takePosted_inv, State.serial_inv, State.post_inv, State.openWrite_inv, State.performStore_inv]
theorem State.performCommit_inv (h : Safety.Inv s) (tid pid t) : Safety.Inv (s.performCommit tid pid t) := by
  unfold State.performCommit
  simp only
  refine inv_foldl (fun u o hu => by grind [State.postOnce_inv]) _ ?_
  refine inv_foldl (fun u e hu => State.takeBehind_inv hu e) _ (State.keepProvisional_inv (State.modTeam_inv ?_ ..) ..)
  exact inv_foldl_snd (fun _ _ _ hu => State.commitLine_inv hu ..) _ h
theorem State.runCommit_inv (h : Safety.Inv s) (tid) : Safety.Inv (s.runCommit tid) := by
  grind [State.runCommit, State.reserveAll_inv, State.post_inv, State.performCommit_inv]
theorem execAexit_inv (h : Safety.Inv s) : NextInv (execAexit s) :=
  issue_inv h fun c t hc ht => by grind [Res.Inv, Ctx.release_inv, Ctx.trap_inv, Ctx.modTeam_inv, State.flushWrites_inv, State.post_inv,
    Ctx.modPath_inv]
theorem State.endRevoke_inv (h : Safety.Inv s) (obj) : Safety.Inv (s.endRevoke obj) := by
  grind [State.endRevoke, Safety.Inv, State.freeObject_inv]
theorem State.finishRevoke_inv (h : Safety.Inv s) (obj) : Safety.Inv (s.finishRevoke obj) := by
  grind [State.finishRevoke, State.endRevoke_inv, State.postAll_inv]
theorem State.revokeAcked_inv (h : Safety.Inv s) (obj) : Safety.Inv (s.revokeAcked obj) := by
  grind [State.revokeAcked, Safety.Inv, State.finishRevoke_inv, State.postAll_inv]
theorem execRevocation_inv (h : Safety.Inv s) (obj die) : NextInv (execRevocation obj die s) :=
  event_inv (by grind [Safety.Inv, State.finishRevoke_inv, State.revokeAcked_inv, State.postAll_inv])
theorem execCoreRevocation_inv (h : Safety.Inv s) (obj core) : NextInv (execCoreRevocation obj core s) :=
  event_inv (by grind [Safety.Inv, inv_foldl, State.abortTeam_inv, State.revokeAcked_inv])
theorem execHeldRequestRelease_inv (h : Safety.Inv s) (k) : NextInv (execHeldRequestRelease k s) :=
  event_inv (by grind [Safety.Inv, inv_foldl, State.runCommit_inv, State.takeBehind_inv, State.runRequest_inv, State.finishRevoke_inv])
theorem execFallbackRelease_inv (h : Safety.Inv s) (obj core) : NextInv (execFallbackRelease obj core s) :=
  event_inv (by grind [Safety.Inv, State.endRevoke_inv])
theorem Ctx.named_inv {k} (hk : ∀ a b, (k a b).Inv) (i x) : (c.named s i x k).Inv := by
  grind [Ctx.named, Res.Inv, Ctx.trap_inv]
theorem Ctx.revokeWait_inv (h : Safety.Inv s) (n free) : (c.revokeWait s n free).Inv := State.startRevoke_inv (Ctx.modPath_inv h ..) ..
theorem execAtest_inv (h : Safety.Inv s) (p x) : NextInv (execAtest p x s) :=
  issue_inv h fun c t hc ht => by grind [Res.Inv, Ctx.ifActs_inv, Ctx.named_inv, Ctx.putP_inv]
theorem execArevk_inv (h : Safety.Inv s) (x) : NextInv (execArevk x s) :=
  issue_inv h fun c t hc ht => by grind [Res.Inv, Ctx.ifActs_inv, Ctx.named_inv, Ctx.revokeWait_inv]
theorem execAdrop_inv (h : Safety.Inv s) (x) : NextInv (execAdrop x s) :=
  issue_inv h fun c t hc ht => by grind [Res.Inv, Ctx.ifActs_inv, Ctx.named_inv, State.freeObject_inv, Ctx.revokeWait_inv]

/-! ### Sys2Proof/Machine/FloatInstr.lean -/

theorem Ctx.flagged_inv {k} (h : Safety.Inv s) (hk : ∀ t, Safety.Inv t → (k t).Inv) (uniform rs) : (c.flagged s uniform rs k).Inv := by
  grind [Ctx.flagged, inv_foldl, Res.Inv, Ctx.trap_inv, Ctx.trapLanes_inv, Ctx.modTeam_inv]
theorem Ctx.float_inv (h : Safety.Inv s) (d wide width f) : (c.float s d wide width f).Inv := by
  grind [Ctx.float, Safety.Inv, Res.Inv, Ctx.flagged_inv, Ctx.put_inv]
theorem Ctx.fp2_inv (h : Safety.Inv s) (d x y f) : (c.fp2 s d x y f).Inv := Ctx.float_inv h ..
theorem Ctx.fp1_inv (h : Safety.Inv s) (d x f) : (c.fp1 s d x f).Inv := Ctx.float_inv h ..
theorem Ctx.fp3_inv (h : Safety.Inv s) (d x y f) : (c.fp3 s d x y f).Inv := Ctx.float_inv h ..
theorem Ctx.fcompare_inv (h : Safety.Inv s) (p x y r) : (c.fcompare s p x y r).Inv := by
  grind [Ctx.fcompare, inv_foldl, Res.Inv, Ctx.flagged_inv, Ctx.putP_inv]
theorem execFscale_inv (h : Safety.Inv s) (d x y) : NextInv (execFscale d x y s) :=
  issue_inv h fun c t hc ht => by grind [Res.Inv, Ctx.float_inv]
theorem Ctx.convert_inv (h : Safety.Inv s) (d x src env) : (c.convert s d x src env).Inv := Ctx.float_inv h ..
theorem execPack_inv (h : Safety.Inv s) (d x i) : NextInv (execPack d x i s) :=
  issue_inv h fun c t hc ht => by grind [Res.Inv, Ctx.float_inv]
theorem execUnpk_inv (h : Safety.Inv s) (d x i) : NextInv (execUnpk d x i s) :=
  issue_inv h fun c t hc ht => by grind [Res.Inv, Ctx.float_inv]
theorem execQnt_inv (h : Safety.Inv s) (d x f) : NextInv (execQnt d x f s) :=
  issue_inv h fun c t hc ht => by grind [Res.Inv, inv_foldl, Ctx.flagged_inv, Ctx.modTeam_inv]
theorem execDqnt_inv (h : Safety.Inv s) (d x f) : NextInv (execDqnt d x f s) :=
  issue_inv h fun c t hc ht => by grind [Res.Inv, inv_foldl, Ctx.flagged_inv, Ctx.modTeam_inv]
theorem execRand_inv (h : Safety.Inv s) (d) : NextInv (execRand d s) :=
  issue_inv h fun c t hc ht => by grind [Res.Inv, inv_foldl, Ctx.modTeam_inv, Ctx.put_inv]

/-! ### Sys2Proof/Machine/CrossLane.lean -/

theorem Ctx.shuffle_inv (h : Safety.Inv s) (d x src) : (c.shuffle s d x src).Inv := Ctx.put_inv h ..
theorem execBallot_inv (h : Safety.Inv s) (d x w) : NextInv (execBallot d x w s) :=
  issue_inv h fun c t hc ht => by grind [Res.Inv, Ctx.put_inv]
theorem execAcnt_inv (h : Safety.Inv s) (d x w r) : NextInv (execAcnt d x w r s) :=
  issue_inv h fun c t hc ht => by grind [Res.Inv, Ctx.put_inv]
theorem Ctx.fpReduce_inv (h : Safety.Inv s) (d x op ws pick) : (c.fpReduce s d x op ws pick).Inv := by
  grind [Ctx.fpReduce, Res.Inv, Ctx.flagged_inv, Ctx.put_inv]
theorem execRedu_inv (h : Safety.Inv s) (d x w o) : NextInv (execRedu d x w o s) :=
  issue_inv h fun c t hc ht => by grind [Res.Inv, Ctx.put_inv, Ctx.fpReduce_inv]
theorem execScan_inv (h : Safety.Inv s) (d x e w o) : NextInv (execScan d x e w o s) :=
  issue_inv h fun c t hc ht => by grind [Res.Inv, Ctx.put_inv, Ctx.fpReduce_inv]

/-! ### Sys2Proof/Machine/System.lean -/

theorem State.setEdfWord_inv (h : Safety.Inv s) (clu i k x) : Safety.Inv (s.setEdfWord clu i k x) := by
  grind [State.setEdfWord, State.modClu_inv, State.postAll_inv]
theorem State.csrLatch_inv (h : Safety.Inv s) (v n) : Safety.Inv (s.csrLatch v n) := by
  grind [State.csrLatch, State.modTeam_inv, State.modDie_inv]
theorem State.csrRead_inv (h : Safety.Inv s) (v n) : Safety.Inv (s.csrRead v n).2 := State.csrLatch_inv h ..
theorem State.csrPut_inv (h : Safety.Inv s) (v n x) : Safety.Inv (s.csrPut v n x) := by
  grind [State.csrPut, State.modTeam_inv, State.setCtxCsr_inv, State.modCore_inv, State.modClu_inv, State.setEdfWord_inv, State.modDie_inv]
theorem State.apInvalidate_inv (h : Safety.Inv s) (die i) : Safety.Inv (s.apInvalidate die i) := h
theorem State.csrWrite_inv (h : Safety.Inv s) (v n x) : Safety.Inv (s.csrWrite v n x) := by
  grind [State.csrWrite, State.apInvalidate_inv, State.csrPut_inv]
theorem State.csrSet_inv (h : Safety.Inv s) (v n x) : Safety.Inv (s.csrSet v n x) := by
  grind [State.csrSet, State.csrPut_inv]
theorem State.csrClear_inv (h : Safety.Inv s) (v n x) : Safety.Inv (s.csrClear v n x) := by
  grind [State.csrClear, State.csrPut_inv]
theorem execCsrr_inv (h : Safety.Inv s) (d k) : NextInv (execCsrr d k s) :=
  issue_inv h fun c t hc ht => by grind [Res.Inv, Ctx.ifActsD_inv, State.csrRead_inv, Ctx.put_inv]
theorem Ctx.csrStore_inv {f} (h : Safety.Inv s) (hf : ∀ t a b, Safety.Inv t → Safety.Inv (f t a b)) (k) : (c.csrStore s k f).Inv := by
  grind [Ctx.csrStore, Res.Inv, Ctx.ifActs_inv]
theorem execCsrw_inv (h : Safety.Inv s) (x k) : NextInv (execCsrw x k s) :=
  issue_inv h fun c t hc ht => by grind [Res.Inv, Ctx.csrStore_inv, State.csrWrite_inv]
theorem execCsrs_inv (h : Safety.Inv s) (x k) : NextInv (execCsrs x k s) :=
  issue_inv h fun c t hc ht => by grind [Res.Inv, Ctx.csrStore_inv, State.csrSet_inv]
theorem execCsrc_inv (h : Safety.Inv s) (x k) : NextInv (execCsrc x k s) :=
  issue_inv h fun c t hc ht => by grind [Res.Inv, Ctx.csrStore_inv, State.csrClear_inv]
theorem execLatchingRead_inv (h : Safety.Inv s) (team csr) : NextInv (execLatchingRead team csr s) :=
  event_inv (by grind [State.csrLatch_inv])
theorem execStatusClear_inv (h : Safety.Inv s) (team val) : NextInv (execStatusClear team val s) :=
  event_inv (by grind [State.csrWrite_inv])
theorem execDroopcfgWrite_inv (h : Safety.Inv s) (core val) : NextInv (execDroopcfgWrite core val s) :=
  event_inv (by grind [State.csrWrite_inv])
theorem execApinv_inv (h : Safety.Inv s) (die index) : NextInv (execApinv die index s) := event_inv (by grind [State.apInvalidate_inv])
theorem Ctx.fwGo_inv (h : Safety.Inv s) (hc : Safety.Inv c.s) (i n x) : (c.fwGo s i n x).Inv := by
  grind [Ctx.fwGo, Res.Inv, Ctx.trap_inv, Ctx.modPath_inv, Ctx.modTeam_inv, State.post_inv, Ctx.waitHere_inv]
theorem Ctx.fwPost_inv (h : Safety.Inv s) (hc : Safety.Inv c.s) (n x) : (c.fwPost s n x).Inv := by
  grind [Ctx.fwPost, Res.Inv, State.draw_inv, State.engineWrite_inv, State.postJob_inv, Ctx.modPath_inv]
theorem execFwcall_inv (h : Safety.Inv s) (x n) : NextInv (execFwcall x n s) :=
  issue_inv h fun c t hc ht => by grind [Res.Inv, Ctx.ifActs_inv, Ctx.fwGo_inv, Ctx.fwPost_inv]
theorem execFwcallReg_inv (h : Safety.Inv s) (a x) : NextInv (execFwcallReg a x s) :=
  issue_inv h fun c t hc ht => by grind [Res.Inv, Ctx.ifActs_inv, Ctx.trap_inv, Ctx.fwGo_inv]
theorem execTinv_inv (h : Safety.Inv s) (x y) : NextInv (execTinv x y s) :=
  issue_inv h fun c t hc ht => by grind [Res.Inv, inv_foldl, Ctx.ifActs_inv, Ctx.trap_inv, State.dropTranslations_inv,
    State.startRevoke_inv, Ctx.modPath_inv]
theorem State.modJob_inv (h : Safety.Inv s) (die cls idx f) : Safety.Inv (s.modJob die cls idx f) := State.modDie_inv h ..
theorem execTicketClaim_inv (h : Safety.Inv s) (d k) : NextInv (execTicketClaim d k s) :=
  issue_inv h fun c t hc ht => by grind [Res.Inv, Ctx.ifActs_inv, Ctx.modTeam_inv, State.modJob_inv]
theorem State.faultOutcome_inv (h : Safety.Inv s) (j o) : Safety.Inv (s.faultOutcome j o) := by
  grind [State.faultOutcome, State.faultParked_inv, State.modPath_inv]
theorem State.cardOutcome_inv (h : Safety.Inv s) (j o) : Safety.Inv (s.cardOutcome j o) := by
  grind [State.cardOutcome, State.endCard_inv, State.modCard_inv, State.post_inv]
theorem State.callOutcome_inv (h : Safety.Inv s) (j o) : Safety.Inv (s.callOutcome j o) := by
  grind [State.callOutcome, State.modPath_inv, State.modTeam_inv]
theorem execTicketDone_inv (h : Safety.Inv s) (d k) : NextInv (execTicketDone d k s) :=
  issue_inv h fun c t hc ht => by grind [Res.Inv, Ctx.ifActs_inv, State.modDie_inv, State.faultOutcome_inv, State.cardOutcome_inv,
    State.callOutcome_inv]
theorem State.reinstate_inv (h : Safety.Inv s) (ctx call k) : Safety.Inv (s.reinstate ctx call k) := by
  grind [State.reinstate, inv_foldl, State.modCtx_inv, State.unspoil_inv, State.placeTeam_inv, State.modTeam_inv, State.faultParked_inv]
theorem execSvcr_inv (h : Safety.Inv s) (d x) : NextInv (execSvcr d x s) :=
  issue_inv h fun c t hc ht => by grind [Res.Inv, Ctx.ifActs_inv, Ctx.modTeam_inv, State.reinstate_inv]
theorem State.saveAndFree_inv (h : Safety.Inv s) (ctx clu) : Safety.Inv (s.saveAndFree ctx clu) := by
  grind [State.saveAndFree, State.modClu_inv, State.saveContext_inv, State.chooseSlice_inv, State.endSlice_inv]
theorem execCtxl_inv (h : Safety.Inv s) (d x) : NextInv (execCtxl d x s) :=
  issue_inv h fun c t hc ht => by grind [Res.Inv, Ctx.ifActs_inv, Ctx.trap_inv, Ctx.modTeam_inv, State.restoreContext_inv]
theorem execXtrig_inv (h : Safety.Inv s) : NextInv (execXtrig s) :=
  issue_inv h fun c t hc ht => by grind [Res.Inv, Ctx.ifActs_inv, State.haltContext_inv]
theorem State.switchTrace_inv (h : Safety.Inv s) (ctx on) : Safety.Inv (s.switchTrace ctx on) := by
  grind [State.switchTrace, Safety.Inv, inv_foldl, State.modDie_inv]
theorem execTron_inv (h : Safety.Inv s) (x) : NextInv (execTron x s) :=
  issue_inv h fun c t hc ht => by grind [Res.Inv, Ctx.ifActs_inv, Ctx.trap_inv, State.switchTrace_inv]
theorem execExpd_inv (h : Safety.Inv s) (x) : NextInv (execExpd x s) :=
  issue_inv h fun c t hc ht => by grind [Res.Inv, Ctx.ifActs_inv, Ctx.loadBlock_inv, Ctx.trap_inv, State.post_inv, State.modClu_inv]

/-! ### Sys2Proof/Machine/Schedule.lean -/

theorem State.hardPreempt_inv (h : Safety.Inv s) (clu) : Safety.Inv (s.hardPreempt clu) := by
  grind [State.hardPreempt, inv_foldl, State.modTeam_inv, State.countCtx_inv, State.postCause_inv, State.postJob_inv, State.post_inv,
    State.modClu_inv]
theorem execEdfPeriodStart_inv (h : Safety.Inv s) (clu i) : NextInv (execEdfPeriodStart clu i s) :=
  event_inv (by grind [State.postOnce_inv, State.settleRemain_inv, State.hardPreempt_inv, State.wake_inv, State.modEdf_inv,
    State.countCtx_inv, State.postCause_inv])
theorem execStopRequest_inv (h : Safety.Inv s) (clu) : NextInv (execStopRequest clu s) :=
  event_inv (by grind [Safety.Inv, State.postOnce_inv, State.modClu_inv])
theorem State.freeCluster_inv (h : Safety.Inv s) (clu ctx) : Safety.Inv (s.freeCluster clu ctx) := by
  grind [State.freeCluster, State.saveContext_inv, State.chooseSlice_inv, State.endSlice_inv]
theorem execSliceEnd_inv (h : Safety.Inv s) (clu) : NextInv (execSliceEnd clu s) :=
  event_inv (by grind [inv_foldl, State.drainSave_inv, State.postOnce_inv, State.hardPreempt_inv, State.freeCluster_inv])
theorem State.forceReset_inv (h : Safety.Inv s) (ctx clu) : Safety.Inv (s.forceReset ctx clu) := by
  unfold State.forceReset
  extract_lets c live groups launches srcs packets saved hit failed marked unformed ended stopped dropped cards counted aborted
  have saved_inv : Safety.Inv saved := State.modClu_inv h ..
  have failed_inv : Safety.Inv failed := inv_foldl (fun _ _ ht => State.failTask_inv ht ..) _ saved_inv
  have marked_inv : Safety.Inv marked := inv_foldl (fun _ _ ht => by grind [State.modNode_inv]) _ failed_inv
  have ended_inv : Safety.Inv ended := inv_foldl (fun _ _ ht => State.recordsEnd_inv ht ..) _ marked_inv
  have stopped_inv : Safety.Inv stopped := inv_foldl (fun _ _ ht => by grind [State.endTeam_inv]) _ ended_inv
  have dropped_inv : Safety.Inv dropped :=
    inv_foldl (fun _ _ ht => inv_foldl (fun _ _ hu => by grind [State.endTeam_inv, State.modCtx_inv]) _ ht) _ stopped_inv
  have cards_inv : Safety.Inv cards := inv_foldl (fun _ _ ht => State.endCard_inv ht ..) _ dropped_inv
  have aborted_inv : Safety.Inv aborted :=
    inv_foldl (fun _ _ ht => State.abortPacket_inv ht ..) _ (State.countCtx_inv (State.postCause_inv cards_inv ..) ..)
  split
  · exact State.freeCluster_inv aborted_inv ..
  · exact aborted_inv
theorem execCtxs_inv (h : Safety.Inv s) (d x) : NextInv (execCtxs d x s) :=
  issue_inv h fun c t hc ht => by grind [Res.Inv, Ctx.ifActs_inv, Ctx.trap_inv, Ctx.modTeam_inv, State.forceReset_inv,
    State.settleContext_inv, State.saveAndFree_inv, State.modClu_inv, Ctx.modPath_inv]
theorem execSaveTimerExpiry_inv (h : Safety.Inv s) (clu) : NextInv (execSaveTimerExpiry clu s) :=
  event_inv (by grind [State.postOnce_inv, State.forceReset_inv])
theorem execTrialPhaseEnd_inv (h : Safety.Inv s) (clu) : NextInv (execTrialPhaseEnd clu s) :=
  event_inv (by grind [State.postOnce_inv, State.finishTrial_inv, State.wake_inv, State.post_inv, State.modClu_inv])
theorem execSleepExpiry_inv (h : Safety.Inv s) (tid pid) : NextInv (execSleepExpiry tid pid s) :=
  event_inv (by grind [State.postOnce_inv, State.modPath_inv, State.wake_inv])
theorem execPriorityAging_inv (h : Safety.Inv s) (tid pid) : NextInv (execPriorityAging tid pid s) := event_inv (by grind [])
theorem execNarrowWritebackTimer_inv (h : Safety.Inv s) (core line) : NextInv (execNarrowWritebackTimer core line s) :=
  event_inv (by grind [State.postOnce_inv, State.writeBackLine_inv])
theorem execTraceSyncTimer_inv (h : Safety.Inv s) (tid pid) : NextInv (execTraceSyncTimer tid pid s) :=
  event_inv (by grind [State.syncIfDue_inv, State.postOnce_inv])
theorem execJobWatchdog_inv (h : Safety.Inv s) (die cls idx) : NextInv (execJobWatchdog die cls idx s) :=
  event_inv (by grind [State.postOnce_inv, State.wake_inv, State.modJob_inv, State.postJob_inv])
theorem State.condDone_inv (h : Safety.Inv s) (k) : Safety.Inv (s.condDone k) := by
  unfold State.condDone
  grind [Safety.Inv, State.settleAll_inv]
theorem execInstructionComplete_inv (h : Safety.Inv s) (tid id) : NextInv (execInstructionComplete tid id s) :=
  event_inv (by grind [State.condDone_inv, State.modTeam_inv, State.post_inv, State.svcSave_inv])
theorem execSvcRequestRoom_inv (h : Safety.Inv s) (ctx) : NextInv (execSvcRequestRoom ctx s) :=
  event_inv (by grind [inv_foldl, State.modCtx_inv, State.sendCall_inv])
theorem execSvcReply_inv (h : Safety.Inv s) (ctx entry) : NextInv (execSvcReply ctx entry s) := by
  refine event_inv ?_
  have settled := State.settleAll_inv h
  extract_lets t n written counted e call lane
  split; · exact settled
  split; · exact State.post_inv settled _
  have counted_inv : Safety.Inv counted := State.modCtx_inv (State.homePut_inv settled _) ..
  split; · exact State.countCtx_inv counted_inv ..
  split; · exact State.countCtx_inv counted_inv ..
  exact inv_ite (State.postJob_inv (State.modCtx_inv counted_inv ..) ..) (State.modCtx_inv counted_inv ..)
theorem execOverlayLoadComplete_inv (h : Safety.Inv s) (core n) : NextInv (execOverlayLoadComplete core n s) :=
  event_inv (by grind [inv_foldl, State.modCore_inv, State.endWait_inv, State.modPath_inv, State.modTeam_inv])
theorem State.dropStore_inv (h : Safety.Inv s) (core id) : Safety.Inv (s.dropStore core id) := by
  grind [State.dropStore, Safety.Inv, State.unpin_inv, State.closeWrite_inv, State.dropWords_inv]
theorem execLateStoreFault_inv (h : Safety.Inv s) (core tag) : NextInv (execLateStoreFault core tag s) :=
  event_inv (by grind [State.modCore_inv, State.dropStore_inv, State.exitRecord_inv, State.postJob_inv, State.deferTrap_inv])

/-! ### Sys2Proof/Machine/Host.lean -/

theorem State.outsideWrite_inv (h : Safety.Inv s) (behind die ctx bs) : Safety.Inv (s.outsideWrite behind die ctx bs).2 := by
  unfold State.outsideWrite
  grind [inv_foldl_snd, State.engineWrite_inv, State.serial_inv, State.openWrite_inv, State.queueBehind_inv]
theorem execHostWindowWrite_inv (h : Safety.Inv s) (fn off bytes) : NextInv (execHostWindowWrite fn off bytes s) :=
  event_inv (by grind [State.outsideWrite_inv])
theorem execHostWindowRead_inv (h : Safety.Inv s) (fn off len) : NextInv (execHostWindowRead fn off len s) :=
  event_inv (by grind [inv_foldl, State.modMgmt_inv, State.engineLine_inv])
theorem State.ringBell_inv (h : Safety.Inv s) (q wridx) : Safety.Inv (s.ringBell q wridx) := by
  grind [State.ringBell, State.pokeBells_inv, State.modCmdq_inv, State.wake_inv]
theorem execDoorbell_inv (h : Safety.Inv s) (q wridx) : NextInv (execDoorbell q wridx s) := event_inv (by grind [State.ringBell_inv])
theorem State.enableQueue_inv (h : Safety.Inv s) (q) : Safety.Inv (s.enableQueue q) := h
theorem execQueueEnable_inv (h : Safety.Inv s) (q) : NextInv (execQueueEnable q s) := event_inv (by grind [State.enableQueue_inv])
theorem execQueueDisable_inv (h : Safety.Inv s) (q) : NextInv (execQueueDisable q s) := event_inv (by grind [State.modCmdq_inv])
theorem execQueueAbortWrite_inv (h : Safety.Inv s) (q) : NextInv (execQueueAbortWrite q s) := event_inv (by grind [State.modCmdq_inv])
theorem execWorkPacket_inv (h : Safety.Inv s) (q) : NextInv (execWorkPacket q s) :=
  event_inv (by grind [State.startType_inv, State.post_inv])
theorem execWorkRecordAppend_inv (h : Safety.Inv s) (q idx) : NextInv (execWorkRecordAppend q idx s) :=
  event_inv (by grind [State.frontRead_inv, State.finishPacket_inv, State.recordOk_inv, State.post_inv, State.appendRecord_inv,
    State.modStarted_inv])
theorem execWaitPacket_inv (h : Safety.Inv s) (q) : NextInv (execWaitPacket q s) :=
  event_inv (by grind [State.startType_inv, State.post_inv])
theorem State.waitEntries_inv (h : Safety.Inv s) (ctx b is w) : Safety.Inv (s.waitEntries ctx b is w).2 := by
  induction is generalizing s w with
  | nil => exact h
  | cons i is ih => grind [State.waitEntries, State.signalXlat_inv, State.engineRead_inv]
theorem execWaitSignalRead_inv (h : Safety.Inv s) (q idx) : NextInv (execWaitSignalRead q idx s) :=
  event_inv (by grind [State.waitEntries_inv, State.abortPacket_inv, State.finishPacket_inv, State.settleAll_inv, State.post_inv])
theorem State.sendSignal_inv (h : Safety.Inv s) (q idx p) : Safety.Inv (s.sendSignal q idx p) := by
  grind [State.sendSignal, State.signalXlat_inv, State.abortPacket_inv, State.raiseClock_inv, State.settleAll_inv, State.serial_inv,
    State.openWrite_inv, State.modStarted_inv, State.homeBank_inv, State.post_inv, State.sendMarkers_inv]
theorem execSignalPacket_inv (h : Safety.Inv s) (q) : NextInv (execSignalPacket q s) :=
  event_inv (by grind [inv_foldl, State.postOnce_inv, State.finishPacket_inv, State.settleAll_inv, State.startType_inv,
    State.sendSignal_inv])
theorem execCopyPacket_inv (h : Safety.Inv s) (q) : NextInv (execCopyPacket q s) :=
  event_inv (by grind [State.post_inv, State.startType_inv, State.frontRead_inv, State.abortPacket_inv, State.submitCard_inv,
    State.rejectSignal_inv])
theorem execGraphPacket_inv (h : Safety.Inv s) (q) : NextInv (execGraphPacket q s) :=
  event_inv (by grind [inv_foldl, State.finishPacket_inv, State.startType_inv, State.frontXlat_inv, State.sendDecrement_inv,
    State.settleAll_inv])
theorem execMarkerPacket_inv (h : Safety.Inv s) (q) : NextInv (execMarkerPacket q s) :=
  event_inv (by grind [State.startType_inv, State.closeAborted_inv, State.finishMarkers_inv, State.nextPacket_inv, State.pokeQueue_inv,
    State.pokeBells_inv])
theorem State.modCpl_inv (h : Safety.Inv s) (q f) : Safety.Inv (s.modCpl q f) := h
theorem State.interrupt_inv (h : Safety.Inv s) (q) : Safety.Inv (s.interrupt q) := h
theorem State.interruptTest_inv (h : Safety.Inv s) (q) : Safety.Inv (s.interruptTest q) := by
  grind [State.interruptTest, State.interrupt_inv, State.postOnce_inv]
theorem execCompletionEntryPost_inv (h : Safety.Inv s) (q) : NextInv (execCompletionEntryPost q s) :=
  event_inv (by grind [State.engineWrite_inv, State.modCpl_inv, State.interruptTest_inv, State.postOnce_inv])
theorem execCqInterruptTimer_inv (h : Safety.Inv s) (q) : NextInv (execCqInterruptTimer q s) :=
  event_inv (by grind [State.interrupt_inv, State.wake_inv, State.postOnce_inv])
theorem execCqHeadWrite_inv (h : Safety.Inv s) (q head) : NextInv (execCqHeadWrite q head s) :=
  event_inv (by grind [State.modCpl_inv, State.postOnce_inv])
theorem State.resetRing_inv (h : Safety.Inv s) (q isSize val) : Safety.Inv (s.resetRing q isSize val) := by
  grind [State.resetRing, State.modCpl_inv]
theorem State.writeCqd_inv (h : Safety.Inv s) (q part val) : Safety.Inv (s.writeCqd q part val) := by
  grind [State.writeCqd, State.modCmdq_inv, State.enableQueue_inv, State.ringBell_inv]
theorem State.writeCpd_inv (h : Safety.Inv s) (q part val) : Safety.Inv (s.writeCpd q part val) := by
  grind [State.writeCpd, State.resetRing_inv, State.interruptTest_inv, State.modCpl_inv, State.postOnce_inv]
theorem State.putBar_inv (h : Safety.Inv s) (fn off val) : Safety.Inv (s.putBar fn off val) := h
theorem State.writeBar_inv (h : Safety.Inv s) (fn off val) : Safety.Inv (s.writeBar fn off val) := by
  grind [State.writeBar, State.putBar_inv, State.writeCqd_inv, State.writeCpd_inv]
theorem execRegisterWrite_inv (h : Safety.Inv s) (r val) : NextInv (execRegisterWrite r val s) :=
  event_inv (by grind [State.writeBar_inv, State.csrWrite_inv])

/-! ### Sys2Proof/Machine/Fabric.lean -/

theorem execGets_inv (h : Safety.Inv s) (r) : NextInv (execGets r s) := by
  refine event_inv ?_
  split; · exact h
  split
  · exact h
  · exact State.post_inv h _
  · have drained := State.drainOwn_inv h r.core (some r.line)
    exact inv_getD (fun _ e => State.fillWords_inv drained _ _ _ _ _ e) (State.post_inv drained _)
theorem execNreq_inv (h : Safety.Inv s) (r) : NextInv (execNreq r s) := event_inv (by grind [State.homeNreq_inv])
theorem execNgrant_inv (h : Safety.Inv s) (core line) : NextInv (execNgrant core line s) := event_inv (by grind [State.takeGrant_inv])
theorem execWtgrant_inv (h : Safety.Inv s) (core line) : NextInv (execWtgrant core line s) := event_inv (by grind [State.takeWtGrant_inv])
theorem execWriteThroughStore_inv (h : Safety.Inv s) (r) : NextInv (execWriteThroughStore r s) := event_inv (by grind [State.homeStore_inv])
theorem execWriteBack_inv (h : Safety.Inv s) (r giveUp) : NextInv (execWriteBack r giveUp s) :=
  event_inv (by grind [State.homeWriteBack_inv])
theorem execInvalidation_inv (h : Safety.Inv s) (r) : NextInv (execInvalidation r s) := event_inv (by grind [State.dropSpan_inv])
theorem execBankAluOperation_inv (h : Safety.Inv s) (r) : NextInv (execBankAluOperation r s) := event_inv (by grind [State.homeBank_inv])
theorem execReleaseMarker_inv (h : Safety.Inv s) (src dst n stamp count) : NextInv (execReleaseMarker src dst n stamp count s) :=
  event_inv (by grind [State.enterMarker_inv])
theorem execApplyEntry_inv (h : Safety.Inv s) (die) : NextInv (execApplyEntry die s) :=
  event_inv (by grind [State.applyOne_inv, State.postOnce_inv])
theorem execHomeEviction_inv (h : Safety.Inv s) (line) : NextInv (execHomeEviction line s) := event_inv (by grind [State.homeEvict_inv])
theorem execForcedPublish_inv (h : Safety.Inv s) (line demote) : NextInv (execForcedPublish line demote s) :=
  event_inv (by grind [State.demote_inv, State.publish_inv])
theorem execPageWalk_inv (h : Safety.Inv s) (core ctx va write fetch) : NextInv (execPageWalk core ctx va write fetch s) :=
  event_inv (by grind [State.walk_inv, State.installTlb_inv])
theorem State.setLink_inv (h : Safety.Inv s) (l x) : Safety.Inv (s.setLink l x) := h
theorem execLinkRetrain_inv (h : Safety.Inv s) (l) : NextInv (execLinkRetrain l s) :=
  event_inv (by grind [State.post_inv, State.setLink_inv])
theorem execLinkRecovery_inv (h : Safety.Inv s) (l) : NextInv (execLinkRecovery l s) := event_inv (by grind [State.setLink_inv])
theorem execLinkRetrainTimeout_inv (h : Safety.Inv s) (l) : NextInv (execLinkRetrainTimeout l s) :=
  event_inv (by grind [State.postOnce_inv, State.postCause_inv, State.setLink_inv])
theorem State.requestFails_inv (h : Safety.Inv s) (f) : Safety.Inv (s.requestFails f) := by
  grind [State.requestFails, State.modMgmt_inv]
theorem execApertureFailure_inv (h : Safety.Inv s) (who fabric peer) : NextInv (execApertureFailure who fabric peer s) :=
  event_inv (by grind [State.requestFails_inv])
theorem execCompletionTimeout_inv (h : Safety.Inv s) (team id) : NextInv (execCompletionTimeout team id s) :=
  event_inv (by grind [State.requestFails_inv])
theorem State.peerPieces_inv (h : Safety.Inv s) (ctx write ps) : Safety.Inv (s.peerPieces ctx write ps).2 := by
  induction ps generalizing s with
  | nil => exact h
  | cons p ps ih => grind [State.peerPieces, State.frontXlat_inv]
theorem State.peerRead_inv (h : Safety.Inv s) (port ctx va len) : Safety.Inv (s.peerRead port ctx va len) := by
  grind [State.peerRead, inv_foldl, State.peerPieces_inv, State.answer_inv, State.engineLine_inv]
theorem State.peerWrite_inv (h : Safety.Inv s) (port ctx va bytes) : Safety.Inv (s.peerWrite port ctx va bytes) := by
  grind [State.peerWrite, State.peerPieces_inv, State.answer_inv, State.outsideWrite_inv, State.post_inv, State.modMgmt_inv]
theorem State.peerLanes_inv (h : Safety.Inv s) (ctx ls) : Safety.Inv (s.peerLanes ctx ls).2 := by
  induction ls generalizing s with
  | nil => exact h
  | cons l ls ih => grind [State.peerLanes, State.frontXlat_inv]
theorem execFabricRequest_inv (h : Safety.Inv s) (port r) : NextInv (execFabricRequest port r s) :=
  event_inv (by grind [inv_foldl, State.applyDie_inv, State.drainAll_inv, State.post_inv, State.answer_inv, State.modMgmt_inv,
    State.wake_inv, State.peerRead_inv, State.peerWrite_inv, State.peerLanes_inv, State.serial_inv, State.homeBank_inv])

/-! ### Sys2Proof/Machine/Events.lean -/

theorem execContextCreation_inv (h : Safety.Inv s) (ctx entry) : NextInv (execContextCreation ctx entry s) :=
  event_inv (by grind [Safety.Inv, State.modCtx_inv])
theorem execContextDestruction_inv (h : Safety.Inv s) (ctx) : NextInv (execContextDestruction ctx s) :=
  event_inv (by grind [inv_foldl, State.modCtx_inv, State.freeObject_inv])
theorem execPoolConfiguration_inv (h : Safety.Inv s) (ctx pool entry) : NextInv (execPoolConfiguration ctx pool entry s) :=
  event_inv (by grind [State.engineWrite_inv, State.modCtx_inv])
theorem State.startAgent_inv (h : Safety.Inv s) (core) : Safety.Inv (s.startAgent core) := by
  grind [State.startAgent, State.serial_inv, State.modCore_inv, State.setTeam_inv]
theorem State.runImage_inv (h : Safety.Inv s) (b i) : Safety.Inv (s.runImage b i) := by
  grind [State.runImage, inv_foldl, State.modMgmt_inv, State.startAgent_inv]
theorem State.raiseAlarm_inv (h : Safety.Inv s) : Safety.Inv (s.raiseAlarm) := by
  grind [State.raiseAlarm, inv_foldl, State.forceReset_inv, State.postCause_inv, State.modMgmt_inv]
theorem State.checkSignature_inv (h : Safety.Inv s) (i) : Safety.Inv (s.checkSignature i) := by
  grind [State.checkSignature, State.modMgmt_inv, State.raiseAlarm_inv]
theorem State.boot_inv (h : Safety.Inv s) : Safety.Inv (s.boot) := by
  grind [State.boot, State.modMgmt_inv, State.checkSignature_inv, State.runImage_inv]
theorem execColdReset_inv (h : Safety.Inv s) : NextInv (execColdReset s) := event_inv (by grind [Safety.Inv, State.boot_inv])
theorem execImageUpdate_inv (h : Safety.Inv s) (i) : NextInv (execImageUpdate i s) := event_inv (by grind [State.modMgmt_inv])
theorem execPowerLoss_inv (h : Safety.Inv s) (cut) : NextInv (execPowerLoss cut s) :=
  event_inv (Memory.filter_wf (fun p => isHostAp p.1) s.mem h)
theorem execRecoveryImage_inv (h : Safety.Inv s) (i) : NextInv (execRecoveryImage i s) :=
  event_inv (by grind [State.checkSignature_inv, State.runImage_inv])
theorem execAttestationRequest_inv (h : Safety.Inv s) : NextInv (execAttestationRequest s) := event_inv (by grind [State.modMgmt_inv])
theorem State.markBusy_inv (h : Safety.Inv s) : Safety.Inv (s.markBusy) := by
  grind [State.markBusy, State.modMgmt_inv]
theorem execPowerStateEntry_inv (h : Safety.Inv s) : NextInv (execPowerStateEntry s) :=
  event_inv (by grind [State.markBusy_inv, State.modMgmt_inv])
theorem State.strike_inv (h : Safety.Inv s) : Safety.Inv (s.strike) := by
  grind [State.strike, State.draw_inv, State.dpmc_inv, State.modMgmt_inv, State.modTeam_inv, State.modCore_inv, State.setL1_inv,
    State.postJob_inv]
theorem execPatrolScrub_inv (h : Safety.Inv s) : NextInv (execPatrolScrub s) := event_inv (by grind [State.strike_inv, State.modMgmt_inv])

/-! ### Sys2Proof/Machine/Fetch.lean -/

theorem State.tick1_inv (h : Safety.Inv s) : Safety.Inv (s.tick1) := by
  grind [State.tick1, Safety.Inv, inv_foldl, State.pmcOf_inv, State.dpmc_inv]
theorem State.tick_inv (h : Safety.Inv s) (n) : Safety.Inv (s.tick n) := by
  induction n generalizing s with
  | zero => exact h
  | succ n ih => exact ih (State.tick1_inv h)
theorem State.roomForBundle_inv (h : Safety.Inv s) (core) : Safety.Inv (s.roomForBundle core) := by
  grind [State.roomForBundle, State.draw_inv, State.modCore_inv]
theorem State.fetchBundle_inv (h : Safety.Inv s) (tid pid t va) : Safety.Inv (s.fetchBundle tid pid t va).2 := by
  grind [State.fetchBundle, State.translate_inv, State.metFail_inv, State.sendFail_inv, State.cleanRead_inv, State.modCore_inv,
    State.roomForBundle_inv]
theorem State.notEligible_inv (h : Safety.Inv s) (tid pid) : Safety.Inv (s.notEligible tid pid) := h
theorem State.countStall_inv (h : Safety.Inv s) (tid pid t p held) : Safety.Inv (s.countStall tid pid t p held) := by
  grind [State.countStall, State.pmc_inv, State.modTeam_inv, State.modPath_inv]
theorem State.lookSlot_inv (h : Safety.Inv s) (tid pid t p b addr k) : Safety.Inv (s.lookSlot tid pid t p b addr k).2 := by
  unfold State.lookSlot
  simp only
  repeat' split
  all_goals grind [State.notEligible_inv, State.modPath_inv, State.countStall_inv]
theorem State.fetchFault_inv (h : Safety.Inv s) (tid pid p cause level addr) : Safety.Inv (s.fetchFault tid pid p cause level addr) := by
  grind [State.fetchFault, State.takeTrap_inv, State.faultPark_inv]
theorem State.lookPath_inv (h : Safety.Inv s) (tid pid) : Safety.Inv (s.lookPath tid pid).2 := by
  grind [State.lookPath, State.notEligible_inv, State.fetchBundle_inv, State.fetchFault_inv, State.lookSlot_inv]
theorem State.candidates_inv (h : Safety.Inv s) (core x) : Safety.Inv (s.candidates core x).2 := by
  grind [State.candidates, inv_foldl_snd, State.lookPath_inv]
theorem State.chargeTrial_inv (h : Safety.Inv s) (tid pid t addr) : Safety.Inv (s.chargeTrial tid pid t addr) := by
  grind [State.chargeTrial, Safety.Inv, State.modClu_inv]
theorem State.takeBreak_inv (h : Safety.Inv s) (tid pid t addr hits) : Safety.Inv (s.takeBreak tid pid t addr hits) := by
  grind [State.takeBreak, State.haltContext_inv, State.takeTrap_inv]
theorem State.enterBundle_inv (h : Safety.Inv s) (tid pid t p addr) : Safety.Inv (s.enterBundle tid pid t p addr) := by
  grind [State.enterBundle, State.modPath_inv, State.chargeTrial_inv, State.pmc_inv]
theorem State.syncIssued_inv (h : Safety.Inv t) (s : State) (i) : Safety.Inv (s.syncIssued t i) := by
  grind [State.syncIssued, State.traceSync_inv]
theorem State.takeTurn_inv (h : Safety.Inv s) (d) : (s.takeTurn d).Inv := by
  unfold State.takeTurn
  split; · exact h
  split; · exact h
  split; · exact State.deliverDeferred_inv h ..
  split
  · exact h
  · exact State.takeTrap_inv h ..
  · exact State.takeTrap_inv h ..
  · simp only
    split
    · exact State.takeBreak_inv h ..
    · have entered := State.enterBundle_inv h d.tid d.pid
      show Safety.Inv (if _ then _ else _)
      split
      · exact State.syncIfDue_inv (entered ..) ..
      · exact entered ..
theorem State.untilFree_inv (h : Safety.Inv s) (core x) : Safety.Inv (s.untilFree core x) := by
  grind [State.untilFree, State.tick_inv]
theorem State.frontTurn_inv (h : Safety.Inv s) (core x) : (s.frontTurn core x).Inv := by
  grind [State.frontTurn, inv_foldl, Work.Inv, State.tick1_inv, State.candidates_inv, State.untilFree_inv, State.modPath_inv,
    State.takeTurn_inv]
theorem State.nextFront_inv (h : Safety.Inv s) : Safety.Inv s.nextFront.2 := by
  grind [State.nextFront, inv_foldl_snd, State.candidates_inv]
theorem State.frontsTurn_inv (h : Safety.Inv s) : (s.frontsTurn).Inv := by
  grind [State.frontsTurn, Work.Inv, State.tick1_inv, State.nextFront_inv, State.frontTurn_inv]
theorem State.hostStore_inv (h : Safety.Inv s) (pa bytes) : Safety.Inv (s.hostStore pa bytes) := State.hwrite_inv h ..
theorem State.nextWork_inv (h : Safety.Inv s0) : (s0.nextWork).Inv := by
  grind [State.nextWork, Safety.Inv, Work.Inv, State.markBusy_inv, State.frontTurn_inv, State.tick1_inv, State.hostStore_inv,
    State.frontsTurn_inv]
theorem execDeferredTrap_inv (h : Safety.Inv s) (tid) : NextInv (execDeferredTrap tid s) :=
  event_inv (by grind [State.postOnce_inv, State.candidates_inv, State.deliverDeferred_inv])

/-! ### Sys2Proof/Machine/Dispatch.lean and Step.lean -/

/-- Every constructor of `Instr` keeps memory canonical: the words whose whole meaning is one shared operation by the lemma of
that operation, the others by their own. -/
theorem exec_inv (h : Safety.Inv s) (i : Instr) : NextInv (exec i s) := by
  cases i with
  | nop => exact execNop_inv h
  | mode => exact execMode_inv h _
  | bra | bran | brx | ret => exact issue_inv h fun _ _ _ ht => Ctx.branch_inv ht ..
  | call => exact execCall_inv h _
  | callx => exact execCallx_inv h _ _
  | join => exact execJoin_inv h _
  | exit => exact execExit_inv h
  | yield => exact execYield_inv h
  | sleep => exact execSleep_inv h _
  | loop => exact execLoop_inv h _ _
  | bar => exact execBar_inv h _
  | bara => exact execBara_inv h _
  | barw => exact execBarw_inv h _
  | waitf => exact execWaitf_inv h _
  | give => exact execGive_inv h _
  | claim => exact execClaim_inv h _
  | spawn => exact execSpawn_inv h _
  | svc => exact execSvc_inv h _
  | trap => exact execTrap_inv h _
  | rft => exact execRft_inv h
  | brk => exact issue_inv h fun _ _ _ ht => Ctx.software_inv ht ..
  | pmark => exact execPmark_inv h _
  | ldi | ldih | mov | not | lea | fclass | matchLanes => exact issue_inv h fun _ _ _ ht => Ctx.put_inv ht ..
  | sel => exact execSel_inv h _ _ _
  | add | sub | mul | mulh | min | max | shl | shr | rot | bfx => exact issue_inv h fun _ _ _ ht => Ctx.int3_inv ht ..
  | mad | bfi => exact issue_inv h fun _ _ _ ht => Ctx.intAcc_inv ht ..
  | div | rem => exact issue_inv h fun _ _ _ ht => Ctx.divide_inv ht ..
  | abs | neg | clz | popc | brev | addi | shli | shri | andi => exact issue_inv h fun _ _ _ ht => Ctx.int2_inv ht ..
  | and | or | xor => exact issue_inv h fun _ _ _ ht => Ctx.bits3_inv ht ..
  | ceq | cne | clt | cle | cgt | cge => exact issue_inv h fun _ _ _ ht => Ctx.compare_inv ht ..
  | pand | por | pxor | pnot => exact issue_inv h fun _ _ _ ht => Ctx.putMask_inv ht ..
  | pfrom | vota | voty => exact issue_inv h fun _ _ _ ht => Ctx.putP_inv ht ..
  | pset => exact execPset_inv h _ _
  | fadd | fsub | fmul | fmin | fmax | fdiv | fcps => exact issue_inv h fun _ _ _ ht => Ctx.fp2_inv ht ..
  | fma | fms | fnma => exact issue_inv h fun _ _ _ ht => Ctx.fp3_inv ht ..
  | fabs | fneg | fsqrt | frcp | frsq | fexp2 | flog2 | fsin | fcos | ftanh | frnd => exact issue_inv h fun _ _ _ ht => Ctx.fp1_inv ht ..
  | fceq | fclt | fcle | fcun => exact issue_inv h fun _ _ _ ht => Ctx.fcompare_inv ht ..
  | fscale => exact execFscale_inv h _ _ _
  | cvt | cvts => exact issue_inv h fun _ _ _ ht => Ctx.convert_inv ht ..
  | pack => exact execPack_inv h _ _ _
  | unpk => exact execUnpk_inv h _ _ _
  | qnt => exact execQnt_inv h _ _ _
  | dqnt => exact execDqnt_inv h _ _ _
  | rand => exact execRand_inv h _
  | shfl | shfx | shup | shdn | bcast => exact issue_inv h fun _ _ _ ht => Ctx.shuffle_inv ht ..
  | ballot => exact execBallot_inv h _ _ _
  | redu => exact execRedu_inv h _ _ _ _
  | scan => exact execScan_inv h _ _ _ _ _
  | acnt => exact execAcnt_inv h _ _ _ _
  | ld | ldu => exact issue_inv h fun _ _ hc ht => Ctx.plainLoad_inv ht hc ..
  | st | stu => exact issue_inv h fun _ _ hc ht => Ctx.plainStore_inv ht hc ..
  | ldl => exact execLdl_inv h _ _ _ _
  | stl => exact execStl_inv h _ _ _ _
  | ldp => exact execLdp_inv h _ _ _ _
  | lda => exact execLda_inv h _ _ _
  | commit => exact execCommit_inv h _ _
  | ldq => exact execLdq_inv h _ _ _ _
  | str => exact execStr_inv h _ _ _ _
  | fence => exact issue_inv h fun _ _ hc ht => Ctx.fence_inv ht hc ..
  | atom => exact execAtom_inv h _ _ _ _ _
  | atomr => exact execAtomr_inv h _ _ _ _ _
  | cas => exact execCas_inv h _ _ _ _
  | red => exact issue_inv h fun _ _ hc ht => Ctx.postAtomic_inv ht hc ..
  | pref => exact execPref_inv h _ _
  | arma => exact execArma_inv h _ _ _
  | waita => exact execWaita_inv h _ _
  | polla => exact execPolla_inv h _ _ _
  | qcfg => exact execQcfg_inv h _ _ _
  | qfree => exact execQfree_inv h _ _
  | qdrain => exact execQdrain_inv h _ _
  | qcnt => exact execQcnt_inv h _ _ _
  | qtry => exact execQtry_inv h _ _ _ _
  | qoffr => exact execQoffr_inv h _ _ _
  | qclose => exact execQclose_inv h _ _
  | qlink => exact execQlink_inv h _ _
  | talloc => exact execTalloc_inv h _ _
  | tload => exact execTload_inv h _ _ _
  | tstore => exact execTstore_inv h _ _ _
  | ttask => exact execTtask_inv h _ _ _
  | tget => exact execTget_inv h _ _ _
  | tdef => exact execTdef_inv h _ _ _
  | tkill => exact execTkill_inv h _
  | twait => exact execTwait_inv h _
  | tstat => exact execTstat_inv h _ _
  | thint => exact execThint_inv h _ _ _
  | tdesc => exact execTdesc_inv h _ _
  | tdescr => exact execTdescr_inv h _ _
  | card => exact execCard_inv h _
  | cardw => exact execCardw_inv h _ _
  | garm => exact execGarm_inv h _ _
  | gdone => exact execGdone_inv h _
  | subm => exact execSubm_inv h _ _
  | sigw => exact execSigw_inv h _ _ _
  | siga => exact execSiga_inv h _ _ _ _
  | areg => exact execAreg_inv h _ _ _
  | aenter => exact execAenter_inv h _ _
  | aexit => exact execAexit_inv h
  | adrop => exact execAdrop_inv h _
  | atest => exact execAtest_inv h _ _
  | arevk => exact execArevk_inv h _
  | csrr => exact execCsrr_inv h _ _
  | csrw => exact execCsrw_inv h _ _
  | csrs => exact execCsrs_inv h _ _
  | csrc => exact execCsrc_inv h _ _
  | fwcall => exact execFwcall_inv h _ _
  | fwcallReg => exact execFwcallReg_inv h _ _
  | tinv => exact execTinv_inv h _ _
  | svcr => exact execSvcr_inv h _ _
  | ctxs => exact execCtxs_inv h _ _
  | ctxl => exact execCtxl_inv h _ _
  | ticketClaim => exact execTicketClaim_inv h _ _
  | ticketDone => exact execTicketDone_inv h _ _
  | xtrig => exact execXtrig_inv h
  | tron => exact execTron_inv h _
  | expd => exact execExpd_inv h _
  | ill => exact issue_inv h fun _ _ _ _ => Ctx.trap_inv ..
  | completionEntryPost => exact execCompletionEntryPost_inv h _
  | cqInterruptTimer => exact execCqInterruptTimer_inv h _
  | workPacket => exact execWorkPacket_inv h _
  | workRecordAppend => exact execWorkRecordAppend_inv h _ _
  | waitPacket => exact execWaitPacket_inv h _
  | waitSignalRead => exact execWaitSignalRead_inv h _ _
  | signalPacket => exact execSignalPacket_inv h _
  | copyPacket => exact execCopyPacket_inv h _
  | graphPacket => exact execGraphPacket_inv h _
  | markerPacket => exact execMarkerPacket_inv h _
  | recordDistribute => exact execRecordDistribute_inv h _ _
  | gatherWindowExpiry => exact execGatherWindowExpiry_inv h _
  | groupAdmission => exact execGroupAdmission_inv h _
  | feedAppend => exact execFeedAppend_inv h _ _
  | nodeRetire => exact execNodeRetire_inv h _ _
  | cardStart => exact execCardStart_inv h _
  | cardTransfer => exact execCardTransfer_inv h _
  | cardComplete => exact execCardComplete_inv h _
  | collectiveTimeout => exact execCollectiveTimeout_inv h _
  | tileDefinitionComplete => exact execTileDefinitionComplete_inv h _ _
  | tileDefinitionFail => exact execTileDefinitionFail_inv h _ _ _
  | tileReadComplete => exact execTileReadComplete_inv h _ _ _
  | tileTaskDispatch => exact execTileTaskDispatch_inv h _ _
  | tileStepBlock => exact execTileStepBlock_inv h _
  | ldaLanded => exact event_inv (State.modTeam_inv h ..)
  | instructionComplete => exact execInstructionComplete_inv h _ _
  | nreq => exact execNreq_inv h _
  | ngrant => exact execNgrant_inv h _ _
  | wtgrant => exact execWtgrant_inv h _ _
  | writeThroughStore => exact execWriteThroughStore_inv h _
  | writeBack => exact execWriteBack_inv h _ _
  | invalidation => exact execInvalidation_inv h _
  | narrowWritebackTimer => exact execNarrowWritebackTimer_inv h _ _
  | bankAluOperation => exact execBankAluOperation_inv h _
  | releaseMarker => exact execReleaseMarker_inv h _ _ _ _ _
  | applyEntry => exact execApplyEntry_inv h _
  | commitGroup => exact event_inv (State.runCommit_inv h ..)
  | revocation obj die => exact execRevocation_inv h obj die
  | coreRevocation => exact execCoreRevocation_inv h _ _
  | heldRequestRelease => exact execHeldRequestRelease_inv h _
  | fallbackRelease => exact execFallbackRelease_inv h _ _
  | edfPeriodStart => exact execEdfPeriodStart_inv h _ _
  | stopRequest => exact execStopRequest_inv h _
  | sliceEnd => exact execSliceEnd_inv h _
  | hardPreemption => exact event_inv (State.hardPreempt_inv h ..)
  | saveTimerExpiry => exact execSaveTimerExpiry_inv h _
  | sleepExpiry => exact execSleepExpiry_inv h _ _
  | deferredTrap => exact execDeferredTrap_inv h _
  | postedStoreAck => exact event_inv (State.modCore_inv h ..)
  | linkRetrainTimeout => exact execLinkRetrainTimeout_inv h _
  | jobWatchdog => exact execJobWatchdog_inv h _ _ _
  | overlayLoadComplete => exact execOverlayLoadComplete_inv h _ _
  | trialPhaseEnd => exact execTrialPhaseEnd_inv h _
  | svcRequestRoom => exact execSvcRequestRoom_inv h _
  | coldReset => exact execColdReset_inv h
  | securityAlarm => exact event_inv (State.raiseAlarm_inv h ..)
  | attestationRequest => exact execAttestationRequest_inv h
  | powerStateEntry => exact execPowerStateEntry_inv h
  | powerWake => exact event_inv (State.wake_inv h ..)
  | patrolScrub => exact execPatrolScrub_inv h
  | doorbell => exact execDoorbell_inv h _ _
  | queueEnable => exact execQueueEnable_inv h _
  | queueDisable => exact execQueueDisable_inv h _
  | queueAbortWrite => exact execQueueAbortWrite_inv h _
  | hostWindowWrite => exact execHostWindowWrite_inv h _ _ _
  | hostWindowRead => exact execHostWindowRead_inv h _ _ _
  | cqHeadWrite => exact execCqHeadWrite_inv h _ _
  | cqRingReset => exact event_inv (State.resetRing_inv h ..)
  | homeEviction => exact execHomeEviction_inv h _
  | guestEviction => exact event_inv (State.guestEvict_inv h ..)
  | latchingRead => exact execLatchingRead_inv h _ _
  | statusClear => exact execStatusClear_inv h _ _
  | droopcfgWrite => exact execDroopcfgWrite_inv h _ _
  | apinv => exact execApinv_inv h _ _
  | registerWrite => exact execRegisterWrite_inv h _ _
  | fabricRequest => exact execFabricRequest_inv h _ _
  | collectivePeerMessage => exact execCollectivePeerMessage_inv h _ _ _
  | contextCreation => exact execContextCreation_inv h _ _
  | contextDestruction => exact execContextDestruction_inv h _
  | poolConfiguration => exact execPoolConfiguration_inv h _ _ _
  | powerLoss => exact execPowerLoss_inv h _
  | imageUpdate => exact execImageUpdate_inv h _
  | recoveryImage => exact execRecoveryImage_inv h _
  | svcReply ctx entry => exact execSvcReply_inv h ctx entry
  | lateStoreFault => exact execLateStoreFault_inv h _ _
  | linkRetrain => exact execLinkRetrain_inv h _
  | linkRecovery => exact execLinkRecovery_inv h _
  | apertureFailure => exact execApertureFailure_inv h _ _ _
  | completionTimeout => exact execCompletionTimeout_inv h _ _
  | pageWalk => exact execPageWalk_inv h _ _ _ _ _
  | priorityAging team path => exact execPriorityAging_inv h team path
  | traceSyncTimer => exact execTraceSyncTimer_inv h _ _
  | gets => exact execGets_inv h _
  | forcedPublish => exact execForcedPublish_inv h _ _

/-- A step is the work that comes next, an instruction's with the SYNC that its path owes, and then the conditional nodes (R191). -/
theorem step_inv (h : Safety.Inv s) : NextInv (step s) := by
  intro t e
  have work := State.nextWork_inv h
  unfold step at e
  split at e
  · next settled =>
    cases e
    rw [settled] at work
    exact State.dispatchConditionals_inv work
  · next i s' runs =>
    rw [runs] at work
    split at e
    · next u ran =>
      cases e
      exact State.dispatchConditionals_inv (State.syncIssued_inv (exec_inv work i u ran) s' i)
    · cases e
    · cases e
end Sys2Proof.Machine

namespace Sys2Proof.Proofs
open Sys2Proof.Machine Sys2Proof.Safety

/-- Settles O9, by the lemma of each function that a step can call. -/
theorem stepKeepsMemoryCanonical : Obligations.StepKeepsMemoryCanonical := by
  intro s t h next
  exact step_inv h t next
end Sys2Proof.Proofs
end
